-- ==== Sys2Proof/Word.lean ====
section
/-!
DEFINITION. Sys2Proof/Word.lean: the word types of the machine (R2, R11, R16, R17) and finite maps in one canonical
form, the plain data that the machine state is made of.
-/

namespace Sys2Proof

/-- A byte of memory. -/
abbrev Byte := BitVec 8
/-- A 32-bit register, instruction word or literal word. -/
abbrev Word := BitVec 32
/-- A 64-bit value: a scalar pair, a lane mask, an engine address, a causal identifier. -/
abbrev Dword := BitVec 64
/-- A vector register: 64 lanes of 32 bits (R17). -/
abbrev Lanes := Vector Word 64

/-- The vector register that holds one value in every lane. -/
def Lanes.fill (x : Word) : Lanes := Vector.replicate 64 x

/-- A finite map from natural numbers, kept with strictly rising keys. -/
abbrev AMap (α : Type) := List (Nat × α)

end Sys2Proof
end

