-- ==== Sys2Proof/Syntax.lean ====
section
/-!
DEFINITION. Sys2Proof/Syntax.lean: the operations of the machine, one constructor of `Instr` for each row of
spec/opcode_table.json. The first 159 are instructions of the lane and uniform sets (R49, R50, R56, R57); the others
are the commands, packets and device events of the table, which have no encoding.
-/

namespace Sys2Proof

/-! ## Operands -/

/-- A vector register (R44): `v n` is register n of the current frame (n at most 119), `a n` an argument register. -/
inductive VReg where
  | v (n : Nat)
  | a (n : Nat)
deriving DecidableEq, Repr

/-- A vector source: a register or the literal word (R42, R44). -/
inductive VSrc where
  | reg (r : VReg)
  | lit (x : Word)
deriving DecidableEq, Repr

/-- A scalar register by its code, 0 to 62 (R11). -/
abbrev SReg := Nat

/-- A scalar pair by its even code (R45). -/
abbrev SPair := Nat

/-- A scalar source: a register or the literal word (R11, R42). -/
inductive SSrc where
  | reg (n : SReg)
  | lit (x : Word)
deriving DecidableEq, Repr

/-! ## Qualifiers (R48) -/

/-- Wrapping or saturating integer arithmetic (R103, R149). -/
inductive SatKind where
  | wrap | s32sat | n32sat
deriving DecidableEq, Repr

/-- Signed or unsigned reading of an integer. -/
inductive Sgn where
  | s | n
deriving DecidableEq, Repr

/-- Types of the float lane operations and the special functions. -/
inductive FTy where
  | f32 | f16 | bf16
deriving DecidableEq, Repr

/-- Types of VCMP, the reductions and the scans. -/
inductive CmpTy where
  | s32 | n32 | f32
deriving DecidableEq, Repr

/-- Comparison codes. -/
inductive CC where
  | eq | ne | lt | le | gt | ge | uo | ord
deriving DecidableEq, Repr

/-- Conversion types TD and TS. -/
inductive CvtTy where
  | s32 | n32 | s16 | n16 | s8 | n8 | f32 | f16 | bf16 | e4m3 | e5m2 | e2m1
deriving DecidableEq, Repr

/-- Rounding modes RM (R81). -/
inductive RMode where
  | rne | rtz | rup | rdn | rna | rto | rst
deriving DecidableEq, Repr

/-- Memory orders. -/
inductive Ord where
  | rlx | acq | rel | ar
deriving DecidableEq, Repr

/-- Scopes (R259). -/
inductive Scope where
  | wave | group | device | domain | system
deriving DecidableEq, Repr

/-- Access sizes of the scratchpad loads and stores (stores use `n8`, `n16`, `b32`, `b64`, `b128`). -/
inductive MSize where
  | n8 | s8 | n16 | s16 | b32 | b64 | b128
deriving DecidableEq, Repr

/-- Element sizes of GATHER and SCATTER. -/
inductive GSize where
  | b8 | b16 | b32 | b64 | b128
deriving DecidableEq, Repr

/-- Atomic operations. -/
inductive AtomOp where
  | add | fadd | smin | nmin | smax | nmax | and | or | xor | exch | cas
deriving DecidableEq, Repr

/-- Matrix formats F (R212). -/
inductive MFmt where
  | e4m3 | e5m2 | e2m1 | bf16 | f16 | s8 | s4
deriving DecidableEq, Repr

/-- Functions of VSCAN (R169). -/
inductive ScanFn where
  | add | addx | min | max
deriving DecidableEq, Repr

/-- Conditions of BRC (R51, R117): on a scalar source or on a pair. -/
inductive BrTest where
  | z (a : SSrc) | nz (a : SSrc) | lt (a : SSrc) | ge (a : SSrc) | le (a : SSrc) | gt (a : SSrc)
  | any (p : SPair) | none (p : SPair)
deriving DecidableEq, Repr

/-- Engine classes (R21). -/
inductive Cls where
  | bcopy | gather | gatom | matrix | coll
deriving DecidableEq, Repr

/-- Conditions of WAITADDR (R204). -/
inductive WCond where
  | eq | ne | lt | le | gt | ge | reached
deriving DecidableEq, Repr

/-- Kinds of collective (R208). -/
inductive CollKind where
  | allreduce | redscatter | allgather | bcast | alltoall
deriving DecidableEq, Repr

/-- Levels of CNTRD and CANCEL with their identifier operand (R255): `.job` has none. -/
inductive WorkUnit where
  | launch (b : SSrc) | graph (b : SSrc) | phase (b : SSrc) | job
deriving DecidableEq, Repr

/-- The value m of VEXP2S: a vector source or a scalar source (R166). -/
inductive XSrc where
  | vec (m : VSrc) | sca (m : SSrc)
deriving DecidableEq, Repr

/-- Queries of MQRY (R228). -/
inductive MQuery where
  | planes | accepted | chain | kOf (a : SSrc)
deriving DecidableEq, Repr

/-! ## Causes that decoding reports (R59, R277) -/

/-- The causes of `decode_cause`, in its order. -/
inductive Cause where
  | unassignedMajor | unassignedFunction | reservedField | literalPosition | oddPair | featureAbsent
deriving DecidableEq, Repr

/-! ## Arguments of commands, packets and events -/

/-- Where a ring entry came from: the context and queue of the ring, and the entry's causal identifier (R375). -/
structure RingSrc where
  ctx    : Nat
  queue  : Nat
  causal : Dword
deriving DecidableEq, Repr

/-- Where a control-ring command came from: its partition, identifier and RESULT address (R396). -/
structure CtlSrc where
  part   : Nat
  causal : Dword
  result : Dword
deriving DecidableEq, Repr

/-- Operands of LAUNCH_GRAPH and of LAUNCH (R309). -/
structure LaunchCmd where
  graph      : Dword
  recAddr    : Dword
  entryNode  : Nat
  recCount   : Nat
  launchBase : Word
  groupBase  : Word
  notify     : Bool
  tail       : Bool
deriving DecidableEq, Repr

/-- What a receiver finds in a packet's header code HCHK (R362, R365). -/
inductive HdrCheck where
  | good | corrected | uncorrectable
deriving DecidableEq, Repr

/-- A fabric packet (R362): header fields and payload. The header's KIND is the event's row. `base` is BASE_VPN of the
source's entry and `tag` tells the packets of one operation apart: R361 and R366 use both, and no listed header field
holds them (log 18). -/
structure Packet where
  causal  : Dword
  offset  : BitVec 53
  window  : Nat
  gen     : Nat
  part    : Nat
  ctx     : Nat
  cls     : Nat
  op      : AtomOp
  w64     : Bool
  ret     : Bool
  dst     : Nat
  src     : Nat
  len     : Nat
  hchk    : HdrCheck
  base    : Nat
  tag     : Nat
  payload : List Byte
deriving DecidableEq, Repr

/-- A rank's issue, as its sequencer packet carries it (R209, R210): the operation's identity on the communicator,
what matched operations must agree on, the deadline, the issue time, the rank's state and its SRC elements. -/
structure RankIssue where
  comm     : Nat
  nth      : Nat
  rank     : Nat
  kind     : CollKind
  ty       : Nat
  op       : Nat
  count    : Nat
  root     : Nat
  deadline : Nat
  time     : Nat
  failed   : Bool
  data     : List Byte
deriving DecidableEq, Repr

/-- What a collective sequencer packet says: a rank has issued, a rank has its result in DST (log 80), a rank has aborted, the
deciding sequencer has found the deadline passed and names the first missing rank (R210), or a chime check's digest (R303). -/
inductive SeqMsg where
  | issue (r : RankIssue)
  | written (comm nth rank : Nat)
  | abort (comm nth rank : Nat)
  | timeout (comm nth missing : Nat)
  | chime (comm phase rank : Nat) (digest : Dword) (rerun : Bool) (log : List Byte)
deriving DecidableEq, Repr

/-- Why a code fetch failed (R335). -/
inductive FetchFault where
  | notPresent | permission | poisoned
deriving DecidableEq, Repr

/-- A queue pair: its partition and number. -/
structure QpRef where
  part : Nat
  qp   : Nat
deriving DecidableEq, Repr

/-- How a host answers an RDMA operation of the device: done, refused, or receiver not ready (R370, R398). -/
inductive HostAnswer where
  | done | nak | rnr
deriving DecidableEq, Repr

/-- What a read of a line by its channel finds: good data, an error that the codes correct, or one they do not (R347). -/
inductive LineError where
  | none | corrected | uncorrectable
deriving DecidableEq, Repr

/-- A beat whose CRC fails (R364): one that arrives here, or one that was sent and fails at the far end. -/
inductive BadBeat where
  | here (beat : Nat) | far (beat : Nat)
deriving DecidableEq, Repr

/-- What Tocsin watches (R408). -/
inductive Alarm where
  | voltage | clock | temperature | seed | selfTest
deriving DecidableEq, Repr

/-! ## The operations -/

/-- One constructor per row of spec/opcode_table.json. The rows that only the outside brings about stand last. -/
inductive Instr where
  -- lane arithmetic (06)
  | vadd (k : SatKind) (d : VReg) (a b : VSrc) (h : BitVec 2)
  | vsub (k : SatKind) (d : VReg) (a b : VSrc) (h : BitVec 2)
  | vmul (d : VReg) (a b : VSrc) (h : BitVec 2)
  | vmulh (t : Sgn) (d : VReg) (a b : VSrc) (h : BitVec 2)
  | vmad (d : VReg) (a b : VSrc) (h : BitVec 2)
  | vmin (t : Sgn) (d : VReg) (a b : VSrc) (h : BitVec 2)
  | vmax (t : Sgn) (d : VReg) (a b : VSrc) (h : BitVec 2)
  | vand (d : VReg) (a b : VSrc) (h : BitVec 2)
  | vor (d : VReg) (a b : VSrc) (h : BitVec 2)
  | vxor (d : VReg) (a b : VSrc) (h : BitVec 2)
  | vshl (d : VReg) (a b : VSrc) (h : BitVec 2)
  | vshr (d : VReg) (a b : VSrc) (h : BitVec 2)
  | vsra (d : VReg) (a b : VSrc) (h : BitVec 2)
  | vnot (d : VReg) (a : VSrc) (h : BitVec 2)
  | vpop (d : VReg) (a : VSrc) (h : BitVec 2)
  | vclz (d : VReg) (a : VSrc) (h : BitVec 2)
  | vmov (d : VReg) (a : VSrc) (h : BitVec 2)
  | vabs (float : Bool) (d : VReg) (a : VSrc) (h : BitVec 2)
  | vneg (float : Bool) (d : VReg) (a : VSrc) (h : BitVec 2)
  | vbfe (t : Sgn) (d : VReg) (a b : VSrc) (h : BitVec 2)
  | vbfi (d : VReg) (a b : VSrc) (h : BitVec 2)
  | vclamp (t : CmpTy) (d : VReg) (a b : VSrc) (h : BitVec 2)
  | vdot4 (t : Sgn) (d : VReg) (a b : VSrc) (h : BitVec 2)
  | vaddF (t : FTy) (d : VReg) (a b : VSrc) (h : BitVec 2)
  | vsubF (t : FTy) (d : VReg) (a b : VSrc) (h : BitVec 2)
  | vmulF (t : FTy) (d : VReg) (a b : VSrc) (h : BitVec 2)
  | vfma (t : FTy) (d : VReg) (a b : VSrc) (h : BitVec 2)
  | vminF (t : FTy) (d : VReg) (a b : VSrc) (h : BitVec 2)
  | vmaxF (t : FTy) (d : VReg) (a b : VSrc) (h : BitVec 2)
  | vcmp (c : CC) (t : CmpTy) (p : SPair) (a b : VSrc)
  | vsel (d : VReg) (a : VSrc) (p : SPair) (h : BitVec 2)
  | vmovs (d : VReg) (b : SSrc) (h : BitVec 2)
  | vlane (d : VReg) (a : VSrc) (b : SSrc) (h : BitVec 2)
  | vlrot (d : VReg) (a : VSrc) (b : SSrc) (h : BitVec 2)
  | vperm (d : VReg) (a b : VSrc) (h : BitVec 2)
  | vshuf (d : VReg) (a b : VSrc) (h : BitVec 2)
  | vpack (bytes : Bool) (d : VReg) (a b : VSrc) (h : BitVec 2)
  | vunpack (t : Sgn) (d : VReg) (a b : VSrc) (h : BitVec 2)
  | vcvt (td ts : CvtTy) (rm : RMode) (d : VReg) (a : VSrc)
  | vcvtSat (td ts : CvtTy) (rm : RMode) (d : VReg) (a : VSrc)
  | vcvts (td ts : CvtTy) (rm : RMode) (sat : Bool) (d : VReg) (a : SSrc)
  | vrand (float : Bool) (d : VReg) (h : BitVec 2)
  | vrcp (t : FTy) (d : VReg) (a : VSrc) (l : BitVec 4)
  | vrsq (t : FTy) (d : VReg) (a : VSrc) (l : BitVec 4)
  | vsqrt (t : FTy) (d : VReg) (a : VSrc) (l : BitVec 4)
  | vlog2 (t : FTy) (d : VReg) (a : VSrc) (l : BitVec 4)
  | vsin (t : FTy) (d : VReg) (a : VSrc) (l : BitVec 4)
  | vcos (t : FTy) (d : VReg) (a : VSrc) (l : BitVec 4)
  | vtanh (t : FTy) (d : VReg) (a : VSrc) (l : BitVec 4)
  | vexp2s (d : VReg) (m : XSrc) (c : SSrc) (l : BitVec 4)
  | vredadd (t : CmpTy) (d : SReg) (a : VSrc) (l : BitVec 4)
  | vredmin (t : CmpTy) (d : SReg) (a : VSrc) (l : BitVec 4)
  | vredmax (t : CmpTy) (d : SReg) (a : VSrc) (l : BitVec 4)
  | vargmin (t : CmpTy) (d : SReg) (a : VSrc) (l : BitVec 4)
  | vargmax (t : CmpTy) (d : SReg) (a : VSrc) (l : BitVec 4)
  | vscan (f : ScanFn) (t : CmpTy) (d : VReg) (a : VSrc) (l : BitVec 4)
  | vcompress (d : VReg) (a : VSrc) (sd : SReg) (l : BitVec 4)
  | vexpand (d : VReg) (a : VSrc) (sd : SReg) (l : BitVec 4)
  -- scratchpad and cluster window (07)
  | lds (z : MSize) (o : Ord) (c : Scope) (d : VReg) (a : VSrc) (l : BitVec 4)
  | sts (z : MSize) (o : Ord) (c : Scope) (d : VSrc) (a : VSrc) (h : BitVec 2)
  | ldw (z : MSize) (o : Ord) (c : Scope) (d : VReg) (a : VSrc) (l : BitVec 4)
  | stw (z : MSize) (o : Ord) (c : Scope) (d : VSrc) (a : VSrc) (h : BitVec 2)
  | ldsu (z : MSize) (o : Ord) (c : Scope) (d : VReg) (a : SSrc) (l : BitVec 4)
  | ldres (o : Ord) (c : Scope) (d : VReg) (a : VSrc) (l : BitVec 4)
  | stcond (o : Ord) (c : Scope) (p : SPair) (s : VSrc) (a : VSrc)
  | ats (op : AtomOp) (o : Ord) (c : Scope) (b : VReg) (a : VSrc) (l : BitVec 4)
  | atw (op : AtomOp) (o : Ord) (c : Scope) (b : VReg) (a : VSrc) (l : BitVec 4)
  -- engines (08)
  | bcopy (a : VReg) (b : VSrc) (nt : Bool)
  | bcopyp (a : VReg) (b : VSrc) (peal : BitVec 6)
  | gather (z : GSize) (a : VReg) (b : VSrc)
  | scatter (z : GSize) (nt : Bool) (a : VReg) (b : VSrc)
  | gatom (op : AtomOp) (o : Ord) (c : Scope) (ret w64 : Bool) (a : VReg) (b : VSrc)
  -- matrix (09)
  | mstream (f : MFmt) (z : Bool) (d : VReg) (a : SSrc) (l : BitVec 4)
  | mstreamc (f : MFmt) (z : Bool) (d : VReg) (a : SSrc) (l : BitVec 4)
  | mzeroacc (d : VReg) (l : BitVec 4)
  -- uniform (04)
  | sadd (k : SatKind) (d : SReg) (a b : SSrc)
  | ssub (k : SatKind) (d : SReg) (a b : SSrc)
  | smul (d : SReg) (a b : SSrc)
  | smulh (t : Sgn) (d : SReg) (a b : SSrc)
  | smad (d : SReg) (a b : SSrc)
  | sand (d : SReg) (a b : SSrc)
  | sor (d : SReg) (a b : SSrc)
  | sxor (d : SReg) (a b : SSrc)
  | sshl (d : SReg) (a b : SSrc)
  | sshr (d : SReg) (a b : SSrc)
  | ssra (d : SReg) (a b : SSrc)
  | smin (t : Sgn) (d : SReg) (a b : SSrc)
  | smax (t : Sgn) (d : SReg) (a b : SSrc)
  | scmp (c : CC) (t : Sgn) (d : SPair) (a b : SSrc)
  | ssel (d : SReg) (a b c : SSrc)
  | smov (d : SReg) (a : SSrc)
  | sclz (d : SReg) (a : SSrc)
  | spop (d : SReg) (a : SSrc)
  | slit (d : SReg) (imm : BitVec 19)
  | saddc (d a b : SPair)
  | slea (t : Sgn) (sh : BitVec 3) (d a : SPair) (b : SSrc)
  | sbfe (t : Sgn) (w : Nat) (p : BitVec 5) (d : SReg) (a : SSrc)
  | sbfi (w : Nat) (p : BitVec 5) (d : SReg) (a : SSrc)
  | sld (d : SReg) (a : SSrc) (imm : BitVec 13)
  | sst (d : SSrc) (a : SSrc) (imm : BitVec 13)
  | sget (d : SReg) (n : BitVec 12)
  | sset (a : SSrc) (n : BitVec 12)
  | sreadl (d : SReg) (a : VSrc) (b : SSrc)
  | mand (d a b : SPair)
  | mor (d a b : SPair)
  | mxor (d a b : SPair)
  | mandn (d a b : SPair)
  | mnot (d a : SPair)
  | mpop (d : SReg) (a : SPair)
  | mfirst (d : SReg) (a : SPair)
  | msetx (d a : SPair)
  -- control flow (05)
  | br (off : BitVec 25)
  | brc (t : BrTest) (off : BitVec 16)
  | brd (p : SPair) (off : BitVec 18) (joff : Word)
  | brdn (p : SPair) (off : BitVec 18) (joff : Word)
  | call (dem : Nat) (off : BitVec 21)
  | calli (dem : Nat) (a : SSrc)
  | nop
  | join
  | exit
  | ret
  | unwind
  | umark
  | yield
  | sleepc (n : BitVec 20)
  | trap (n : BitVec 20)
  | brkpt (n : BitVec 20)
  | haltw
  -- waits, fences, engines from the uniform set (08, 11)
  | waitcnt (c : Cls) (n : BitVec 10)
  | drain (c : Scope)
  | fence (o : Ord) (c : Scope)
  | waitaddr (k : WCond) (c : Scope) (d : SReg) (a : SPair) (b : SSrc)
  | gchunk (d a : SPair)
  | coll (k : CollKind) (a : SPair) (b : SSrc)
  | pealjoin (d : SReg) (a : SSrc)
  | pealleave (d : SReg) (a : SSrc)
  | pealq (d : SReg) (a : SSrc)
  | winsel (d : SReg) (a : SSrc)
  | mloadw (f : MFmt) (a b : SSrc)
  | mswap
  | mscale (n : BitVec 2) (d : SReg) (a : SSrc)
  | mqry (q : MQuery) (d : SReg)
  -- barriers, semaphores, tasks (10)
  | barinit (a : SSrc) (b : SPair)
  | bararr (d : SReg) (a b : SSrc)
  | barwait (d : SReg) (a b : SSrc)
  | bararw (d : SReg) (a b : SSrc)
  | sempost (d : SReg) (a b : SSrc)
  | semacq (d : SReg) (a b : SSrc)
  | semtry (d : SReg) (a b : SSrc)
  | enq (d : SReg) (a : SPair) (b : SSrc)
  | enqn (d : SReg) (a : SPair) (b : SSrc)
  | taskend
  | launch (d : SReg) (a : SPair) (b : SSrc)
  | cancel (u : WorkUnit)
  | cntrd (d : SReg) (u : WorkUnit)
  | setpri (d : SReg) (a b : SSrc)
  | chimemark (d : SReg) (a : SSrc)
  | chimechk (d : SReg) (a : SPair)
  | ctxq (d : SReg) (q : Nat)
  -- events of a wave, its frames and its engine operations
  | deliveredTrap (wave : Nat)
  | fairnessRotation (wave : Nat)
  | sleepcWake (wave slot : Nat)
  | waitaddrEvaluation (wave slot : Nat)
  | frameGrant (core : Nat)
  | escapeSpill (core : Nat)
  | spillCopyDone (core : Nat)
  | frameRestoreDone (core : Nat)
  | copyElement (op elem : Nat)
  | bcopyComplete (op : Nat)
  | gatherComplete (op : Nat)
  | gatomComplete (op : Nat)
  | gchunkServe (op : Nat)
  | pealRequest (op line : Nat)
  | pealHoldTimeout (hold : Nat)
  | multicastResidual (n : Nat)
  | mloadwReadsBegin (op : Nat)
  | mloadwFinish (op : Nat)
  | mstreamStart (op : Nat)
  | mstreamFinish (op : Nat)
  | chainStreamArrival (core : Nat)
  | collComplete (op : Nat)
  | collDeadline (coll : Nat)
  | chimechkPhaseReady (op : Nat)
  | chimechkReexecutionDone (op : Nat)
  | watchExpired (n : Nat)
  -- the launcher
  | waveStart (wave : Nat)
  | waveRetire (wave : Nat)
  | binTimerExpiry (run node : Nat)
  | groupDispatch (part : Nat)
  | queueAging (ctx queue : Nat)
  | queueReserving (ctx queue : Nat)
  | preemptionRequest (group : Nat)
  | preemptDrainComplete (group : Nat)
  | groupRestore (group : Nat)
  | ringTailWrite (ctx queue : Nat)
  | ringNop (src : RingSrc)
  | launchGraph (src : RingSrc) (cmd : LaunchCmd)
  | thawBin (src : RingSrc) (run : Word) (node : Nat) (retry : Bool)
  | groupResume (src : RingSrc) (group : Word) (skip : Bool)
  | groupDiscard (src : RingSrc) (group : Word)
  | faultResume (src : RingSrc) (page : Dword) (all : Bool)
  | preempt (src : RingSrc) (group : Word)
  -- control-ring commands
  | ctxCreate (src : CtlSrc) (desc : Dword)
  | ctxDestroy (src : CtlSrc) (ctx : Nat)
  | tlbInval (src : CtlSrc) (ctx : Nat) (vpn : BitVec 40) (pages : Nat) (flush : Bool)
  | invalidationComplete (n : Nat)
  | windowSet (src : CtlSrc) (ctx sel : Nat) (entry : Dword)
  | windowAccept (src : CtlSrc) (ctx srcDev srcCtx sel : Nat)
  | windowRetire (src : CtlSrc) (ctx srcDev srcCtx sel : Nat)
  | hostwinSet (src : CtlSrc) (ctx idx : Nat) (entry : Dword)
  | qpSet (src : CtlSrc) (qp : Nat) (bind : Bool) (ctx : Nat) (attr : Dword)
  | notifySet (src : CtlSrc) (ctx : Nat) (ring : Dword) (log2 qp : Nat)
  | commSet (src : CtlSrc) (comm : Nat) (list : Dword) (ranks : Nat)
  | traceRead (src : CtlSrc) (first count : Nat) (buf : Dword)
  | knell (src : CtlSrc) (scope ctx : Nat) (buf : Dword) (entries : Nat)
  | watchSet (src : CtlSrc) (ctx : Nat) (barrier frame coll : Word)
  | energyRead (src : CtlSrc) (ctx : Nat) (buf : Dword)
  | quote (src : CtlSrc) (nonce buf : Dword)
  | partSet (src : CtlSrc) (part : Nat) (record : Dword)
  | partReset (src : CtlSrc) (part : Nat)
  | partResetEnginesEnded (part : Nat)
  | partDestroy (src : CtlSrc) (part : Nat)
  | routeSet (src : CtlSrc) (dst : Nat) (ports : Dword)
  | configWrite (src : CtlSrc) (record : Dword)
  | firmwareWrite (src : CtlSrc) (image : Dword) (bytes : Nat)
  -- the fabric
  | endToEndTimeout (n : Nat)
  -- the memory system
  | leaseNotice (home die : Nat)
  | leaseSnapshot (die : Nat)
  | hashWindowEnd (chan : Nat)
  | rowGroupMigration (chan : Nat)
  -- energy, clocks, observability, the package
  | traceStoreFreeze
  | illegalInstructionWord (c : Cause)
  | codeFetchFault (f : FetchFault)
  | mzeroaccComplete (op : Nat)
  | ackTimeout (q : QpRef)
  | rnrTimerExpiry (q : QpRef)
  -- what the outside does, and the two halves of an access that another die makes (14 to 17)
  | retireComplete (n : Nat)
  | fabricWrite (port : Nat) (p : Packet)
  | fabricReadRequest (port : Nat) (p : Packet)
  | fabricReadResponse (port : Nat) (p : Packet)
  | fabricAtomicRequest (port : Nat) (p : Packet)
  | fabricAtomicResponse (port : Nat) (p : Packet)
  | fabricAcknowledgement (port : Nat) (p : Packet)
  | retireNack (port : Nat) (p : Packet)
  | errorNack (port : Nat) (p : Packet)
  | collectiveSequencerPacket (port : Nat) (p : Packet) (m : SeqMsg)
  | retireNotice (dev ctx sel gen : Nat)
  | beatCrcFail (port : Nat) (beat : BadBeat)
  | retrainEnd (port : Nat) (up : Bool) (peerDev peerPort : Nat)
  | dieLinkFlitReplay (die gateway : Nat) (beat : Word)
  | rdmaWrite (q : QpRef) (rkey : Word) (va : Dword) (data : List Byte)
  | rdmaRead (q : QpRef) (rkey : Word) (va : Dword) (len : Nat)
  | rdmaWriteWithImmediate (q : QpRef) (rkey : Word) (va : Dword) (data : List Byte) (imm : Word)
  | atomicFetchAdd (q : QpRef) (rkey : Word) (va addend : Dword)
  | hostRdmaResponse (n : Nat) (a : HostAnswer) (data : List Byte)
  | remoteRead (die ctx : Nat) (va : BitVec 53)
  | homeWrite (ctx : Nat) (va : BitVec 53) (data : List Byte)
  | layerTempSample (stack layer : Nat) (deg : Int)
  | bankRefresh (chan bank : Nat)
  | rowPrecharge (chan bank row : Nat)
  | patrolScrub (chan line : Nat) (e : LineError)
  | energyInterval (rail : Nat)
  | clockLimiting (power : Nat) (hotspot : Int)
  | ptpSyncMessage (offset : Int)
  | syncLoss
  | traceUnfreeze
  | trWpLoRead
  | ltLoRead (die : Nat)
  | tocsinCauseClear (causes : BitVec 5)
  | registerWrite (off : Nat) (value : Word)
  | tocsinAlarm (a : Alarm)
  | coldReset
  | warmReset
  | loaderImmediate (imm : Word)
  | thermalStop
  | connectionRequest (q : QpRef) (peer : BitVec 128)
  | unsupportedRdmaRequest (q : QpRef)
  | reservedKindPacket (port : Nat)
deriving DecidableEq, Repr

end Sys2Proof
end

