-- ==== Sys2Proof/Config.lean ====
section
/-!
DEFINITION. Sys2Proof/Config.lean: what an implementation fixes and the free values. A free value is an opaque constant:
nothing in Lean can evaluate it, so every theorem holds whatever it is.
-/

namespace Sys2Proof

namespace Config

/-- Free values indexed by the state's `oracle` counter (log 2): the device time, in units of 1/16 ns, that passes
during a step. -/
opaque elapse : Nat → Nat
/-- The arithmetic-clock cycles that pass during a step (log 2). -/
opaque cycles : Nat → Nat
/-- Which of n possible moves of the device is made next (log 2): the order of waves, engines and units is open
(R36, R194, R320). -/
opaque pick : Nat → Nat → Nat
/-- The set of an L2 slice in which a line of a context lies (R337 gives no index function; log 8). -/
opaque l2Set : Nat → Nat → Nat
/-- Which entry of a full remote-data cache slice, TLB or walk cache leaves it (R336, R342 give no rule; log 8): the oracle
and the number of entries. -/
opaque evict : Nat → Nat → Nat
/-- The port among those of a route that carries a relaxed packet (R363; log 9). -/
opaque port : Nat → Nat → Nat
/-- The address of a package's fabric sequencer, which OFFSET of a class 3 packet holds (R362 gives none; log 80). -/
opaque seqAddress : Nat → BitVec 53
/-- The hash of the selector that chooses the port of class 1 (R363; log 9). -/
opaque portHash : Nat → Nat
/-- Whether a multicast fill finds a ringer's branch taken, so that a residual entry serves it later (R356; log 2): the
oracle and the copy. -/
opaque branchBusy : Nat → Nat → Bool
/-- The router and data plane at which a multicast fill finds branches taken (R356; log 74). -/
opaque forkAt : Nat → Nat
/-- How many of the events that wait at their units the trace network leaves there after a step (R378, R379; log 67). -/
opaque traceHeld : Nat → Nat
/-- Which unit's event Tabor writes next (R378; log 67): the oracle and the event's number. -/
opaque tracePick : Nat → Nat → Nat
/-- Keys drawn by the root of trust at a cold reset (R329, R343; log 6). -/
opaque homeKey : Nat → Word
/-- Keys VKEY[0..7] drawn at a cold reset (R343; log 6). -/
opaque vkey : Nat → Nat → Word
/-- Where in a save area of the given size an image of the given length is put, beside those already there (R292
leaves the address to the launcher; log 10). -/
opaque imageOffset : Nat → Nat → Nat → Nat
/-- Device-specific special functions: the raw result bits (FP32) that the unit proposes for a source (R165: a fixed
function of the source bits; log 11). Function index: 0 VRCP, 1 VRSQ, 2 VLOG2, 3 VSIN, 4 VCOS, 5 VTANH; the type's code. -/
opaque special : Nat → Nat → Word → Word
/-- SHA3-512 (named, not defined, by R405 and R407; log 12). -/
opaque sha3_512 : List Byte → List Byte
/-- ML-DSA-87 verification under Pletrum's configuration key (0) or firmware key (1) (R405; log 12). -/
opaque verify : Nat → List Byte → Bool
/-- The firmware image that a flash holds: its length, found by the boot ROM (R404 gives no length field; log 12). -/
opaque imageBytes : List Byte → Nat
/-- The security version of a firmware image (R405; log 12). -/
opaque imageSvn : List Byte → Nat
/-- ML-DSA-87 signature with the alias key made from the given key material (R407, R411; log 12). -/
opaque sign : List Byte → List Byte → List Byte
/-- The alias public key with its identity signature, 2,592 bytes and the signature (R407; log 12). -/
opaque aliasKey : List Byte → List Byte
/-- The seed that the SRAM identity reconstructs (R407; log 12). -/
opaque seed : Nat → List Byte
/-- Energy estimates of one interval, in µJ (R410 gives no unit figures; log 13): the oracle, the category
(0 CORE, 1 HBM, 2 FABRIC, 3 SHARED, 4 unattributed), the partition and the context (4,096 for the partition alone). -/
opaque energy : Nat → Nat → Nat → Nat → Nat
/-- Which words of an unordered or interrupted transfer reached their place (R210: DST after an abort; log 14). -/
opaque lost : Nat → Nat → Bool
/-- A free byte or word of no stated value (log 15). -/
opaque freeWord : Nat → Word

end Config

end Sys2Proof
end

