-- ==== Sys2Proof/WellFormed.lean ====
section
/-!
DEFINITION. Sys2Proof/WellFormed.lean: which terms of `Instr` stand for words of the instruction set: the limits of
register fields (R44, R45, R46, R220), of qualifier codes (R48 and the entries) and the single literal word (R41).
-/

namespace Sys2Proof

/-- Codes of the vector field (R44): 0–119 frame registers, 120–126 argument registers. -/
def VReg.code : VReg → Nat
  | .v n => n
  | .a n => 120 + n

/-- The register is one of v0–v119 or a0–a6. -/
def VReg.wf : VReg → Bool
  | .v n => n < 120
  | .a n => n < 7

/-- A range of k registers starts at a multiple of k and lies wholly in one file (R46). -/
def VReg.rangeOk (r : VReg) (k : Nat) : Bool :=
  match r with
  | .v n => n % k == 0 && n + k ≤ 120
  | .a n => (120 + n) % k == 0 && n + k ≤ 7

/-- The operand registers of an operation, by how its word names them. -/
structure Operands where
  /-- written vector ranges: first register and length (a destructive form reads them too) -/
  vd : List (VReg × Nat) := []
  /-- read vector ranges that may not hold a literal -/
  vr : List (VReg × Nat) := []
  /-- single vector sources -/
  vs : List VSrc := []
  /-- written scalar registers -/
  sd : List SReg := []
  /-- scalar sources -/
  ss : List SSrc := []
  /-- written pairs -/
  pd : List SPair := []
  /-- read pairs -/
  ps : List SPair := []
  /-- matrix accumulator range (R220) -/
  acc : Option VReg := none
  /-- the BRD literal (R41) -/
  extra : Option Word := none
  /-- the qualifier limits of the entry hold -/
  ok : Bool := true
deriving DecidableEq, Repr

/-- Loads: order and scope codes that R176 permits. -/
def loadOrd (o : Ord) (c : Scope) : Bool :=
  match o, c with
  | .rlx, .wave | .acq, .wave | .acq, .group | .acq, .device => true
  | _, _ => false

/-- Stores: order and scope codes that R176 permits. -/
def storeOrd (o : Ord) (c : Scope) : Bool :=
  match o, c with
  | .rlx, .wave | .rel, .wave | .rel, .group | .rel, .device => true
  | _, _ => false

/-- ATS and ATW: scope `.group` or `.device`, and `.group` with `.rlx` (R183). -/
def atomOrd (o : Ord) (c : Scope) : Bool :=
  match o, c with
  | _, .group => true
  | .rlx, _ => false
  | _, .device => true
  | _, _ => false

/-- Registers of one scratchpad access (R48). -/
def MSize.regs : MSize → Nat
  | .b64 => 2
  | .b128 => 4
  | _ => 1

/-- Bytes of one scratchpad access. -/
def MSize.bytes : MSize → Nat
  | .n8 | .s8 => 1
  | .n16 | .s16 => 2
  | .b32 => 4
  | .b64 => 8
  | .b128 => 16

/-- Sizes a store may take (R176). -/
def MSize.storable : MSize → Bool
  | .s8 | .s16 => false
  | _ => true

/-- Registers of the VB operand of GATOM (R202). -/
def gatomRegs (op : AtomOp) (w64 : Bool) : Nat :=
  (if op == .cas then 2 else 1) * (if w64 then 2 else 1)

/-- Operands of a lane operation `vd <- vs`. -/
def Operands.lane (d : VReg) (vs : List VSrc) (ss : List SSrc := []) (ok : Bool := true) : Operands :=
  { vd := [(d, 1)], vs, ss, ok }

/-- Operands of a uniform operation `sd <- ss`. -/
def Operands.uni (d : SReg) (ss : List SSrc) (ok : Bool := true) : Operands := { sd := [d], ss, ok }

/-- The data source of a store: a range when the access spans registers, else a single source (R176). -/
def Operands.store (z : MSize) (d a : VSrc) (ok : Bool) : Operands :=
  match d with
  | .reg r => if z.regs == 1 then { vs := [d, a], ok } else { vr := [(r, z.regs)], vs := [a], ok }
  | .lit _ => { vs := [d, a], ok := ok && z.regs == 1 }

/-- Operands of BRC (R117). -/
def Operands.brTest : BrTest → Operands
  | .z a | .nz a | .lt a | .ge a | .le a | .gt a => { ss := [a] }
  | .any p | .none p => { ps := [p] }

/-- Operands of CNTRD and CANCEL (R255). -/
def Operands.work (sd : List SReg) : WorkUnit → Operands
  | .launch b | .graph b | .phase b => { sd, ss := [b] }
  | .job => { sd }

/-- The operands of each operation; commands and events have none. -/
def Instr.operands : Instr → Operands
  | .vadd _ d a b _ | .vsub _ d a b _ | .vmulh _ d a b _ | .vmin _ d a b _ | .vmax _ d a b _
  | .vbfe _ d a b _ | .vclamp _ d a b _ | .vdot4 _ d a b _ => .lane d [a, b]
  | .vmul d a b _ | .vmad d a b _ | .vand d a b _ | .vor d a b _ | .vxor d a b _ | .vshl d a b _
  | .vshr d a b _ | .vsra d a b _ | .vbfi d a b _ | .vperm d a b _ | .vshuf d a b _ => .lane d [a, b]
  | .vaddF _ d a b _ | .vsubF _ d a b _ | .vmulF _ d a b _ | .vfma _ d a b _ | .vminF _ d a b _
  | .vmaxF _ d a b _ => .lane d [a, b]
  | .vpack _ d a b _ | .vunpack _ d a b _ => .lane d [a, b]
  | .vnot d a _ | .vpop d a _ | .vclz d a _ | .vmov d a _ => .lane d [a]
  | .vabs _ d a _ | .vneg _ d a _ => .lane d [a]
  | .vcmp c t p a b => { pd := [p], vs := [a, b], ok := t == .f32 || (c != .uo && c != .ord) }
  | .vsel d a p _ => { vd := [(d, 1)], vs := [a], ps := [p] }
  | .vmovs d b _ => .lane d [] [b]
  | .vlane d a b _ | .vlrot d a b _ => .lane d [a] [b]
  | .vcvt td ts _ d a | .vcvtSat td ts _ d a => .lane d [a] [] (td != ts)
  | .vcvts td ts _ _ d a => .lane d [] [a] (td != ts)
  | .vrand _ d _ => .lane d []
  | .vrcp _ d a _ | .vrsq _ d a _ | .vsqrt _ d a _ | .vlog2 _ d a _ | .vsin _ d a _ | .vcos _ d a _
  | .vtanh _ d a _ => .lane d [a]
  | .vexp2s d m c _ =>
      match m with
      | .vec m => .lane d [m] [c]
      | .sca m => .lane d [] [m, c]
  | .vredadd _ d a _ | .vredmin _ d a _ | .vredmax _ d a _ | .vargmin _ d a _ | .vargmax _ d a _ =>
      { sd := [d], vs := [a] }
  | .vscan _ _ d a _ => .lane d [a]
  | .vcompress d a sd _ | .vexpand d a sd _ => { vd := [(d, 1)], vs := [a], sd := [sd] }
  | .lds z o c d a _ | .ldw z o c d a _ => { vd := [(d, z.regs)], vs := [a], ok := loadOrd o c }
  | .sts z o c d a _ | .stw z o c d a _ => .store z d a (z.storable && storeOrd o c)
  | .ldsu z o c d a _ => { vd := [(d, z.regs)], ss := [a], ok := loadOrd o c }
  | .ldres o c d a _ => { vd := [(d, 1)], vs := [a], ok := loadOrd o c }
  | .stcond o c p s a => { pd := [p], vs := [s, a], ok := storeOrd o c }
  | .ats op o c b a _ | .atw op o c b a _ =>
      { vd := [(b, if op == .cas then 2 else 1)], vs := [a], ok := atomOrd o c }
  | .bcopy a b _ => { vr := [(a, 2)], vs := [b] }
  | .bcopyp a b _ => { vr := [(a, 2)], vs := [b] }
  | .gather _ a b | .scatter _ _ a b => { vr := [(a, 2)], vs := [b] }
  | .gatom op o c rt w64 a b =>
      let k := gatomRegs op w64
      let ok := !(op == .fadd && w64) && (o != .rlx || c == .wave)
      match b with
      | .reg r => if rt then { vd := [(r, k)], vr := [(a, 2)], ok } else { vr := [(r, k), (a, 2)], ok }
      | .lit _ => { vs := [b], vr := [(a, 2)], ok := ok && !rt && k == 1 }
  | .mstream _ _ d a _ | .mstreamc _ _ d a _ => { acc := some d, ss := [a] }
  | .mzeroacc d _ => { acc := some d }
  | .sadd _ d a b | .ssub _ d a b | .smulh _ d a b | .smin _ d a b | .smax _ d a b => .uni d [a, b]
  | .smul d a b | .smad d a b | .sand d a b | .sor d a b | .sxor d a b | .sshl d a b | .sshr d a b
  | .ssra d a b => .uni d [a, b]
  | .scmp c _ d a b => { pd := [d], ss := [a, b], ok := c != .uo && c != .ord }
  | .ssel d a b c => .uni d [a, b, c]
  | .smov d a | .sclz d a | .spop d a => .uni d [a]
  | .slit d _ => .uni d []
  | .saddc d a b => { pd := [d], ps := [a, b] }
  | .slea _ _ d a b => { pd := [d], ps := [a], ss := [b] }
  | .sbfe _ w _ d a => .uni d [a] (w ≤ 32)
  | .sbfi w _ d a => .uni d [a] (w ≤ 32)
  | .sld d a _ => .uni d [a]
  | .sst d a _ => { ss := [d, a] }
  | .sget d _ => .uni d []
  | .sset a _ => { ss := [a] }
  | .sreadl d a b => { sd := [d], vs := [a], ss := [b] }
  | .mand d a b | .mor d a b | .mxor d a b | .mandn d a b => { pd := [d], ps := [a, b] }
  | .mnot d a => { pd := [d], ps := [a] }
  | .mpop d a | .mfirst d a => { sd := [d], ps := [a] }
  | .msetx d a => { pd := [d], ps := [a], ok := d != 56 }
  | .br _ => {}
  | .brc t _ => .brTest t
  | .brd p _ j | .brdn p _ j => { ps := [p], extra := some j }
  | .call dem _ => { ok := 1 ≤ dem && dem ≤ 15 }
  | .calli dem a => { ss := [a], ok := 1 ≤ dem && dem ≤ 15 }
  | .nop | .join | .exit | .ret | .unwind | .umark | .yield | .sleepc _ | .trap _ | .brkpt _ | .haltw => {}
  | .waitcnt _ _ | .drain _ => {}
  | .fence o _ => { ok := o != .rlx }
  | .waitaddr _ _ d a b => { sd := [d], ps := [a], ss := [b] }
  | .gchunk d a => { pd := [d], ps := [a] }
  | .coll _ a b => { ps := [a], ss := [b] }
  | .pealjoin d a | .pealleave d a | .pealq d a | .winsel d a => .uni d [a]
  | .mloadw _ a b => { ss := [a, b] }
  | .mswap => {}
  | .mscale _ d a => .uni d [a]
  | .mqry q d =>
      match q with
      | .kOf a => .uni d [a]
      | _ => .uni d []
  | .barinit a b => { ss := [a], ps := [b] }
  | .bararr d a b | .barwait d a b | .bararw d a b | .sempost d a b | .semacq d a b | .semtry d a b =>
      .uni d [a, b]
  | .enq d a b | .enqn d a b | .launch d a b => { sd := [d], ps := [a], ss := [b] }
  | .taskend => {}
  | .cancel u => .work [] u
  | .cntrd d u => .work [d] u
  | .setpri d a b => .uni d [a, b]
  | .chimemark d a => .uni d [a]
  | .chimechk d a => { sd := [d], ps := [a] }
  | .ctxq d q => .uni d [] (q ≤ 8)
  | _ => {}

/-- The literal words that the operands hold. -/
def Operands.lits (o : Operands) : List Word :=
  o.vs.filterMap (fun x => match x with | .lit w => some w | .reg _ => none) ++
  o.ss.filterMap (fun x => match x with | .lit w => some w | .reg _ => none) ++ o.extra.toList

/-- The literal word that follows the instruction word, if any (R41). -/
def Instr.literal (i : Instr) : Option Word := i.operands.lits.head?

/-- Words the instruction takes in the code: 1, or 2 with a literal (R41). -/
def Instr.words (i : Instr) : Nat := if i.literal.isSome then 2 else 1

/-- A single vector source names a register of R44 or the literal. -/
def VSrc.wf : VSrc → Bool
  | .reg r => r.wf
  | .lit _ => true

/-- A scalar source names s0–s62 or the literal (R11). -/
def SSrc.wf : SSrc → Bool
  | .reg n => n ≤ 62
  | .lit _ => true

/-- A pair code is even and at most 62 (R45). -/
def pairOk (p : SPair) : Bool := p % 2 == 0 && p ≤ 62

/-- An accumulator range starts at a multiple of 8 from v0 to v56 (R220). -/
def accOk : VReg → Bool
  | .v n => n % 8 == 0 && n ≤ 56
  | .a _ => false

/-- Every literal of the list is the first one (R41). -/
def sameLits : List Word → Bool
  | [] => true
  | x :: xs => xs.all (· == x)

/-- The operands are ones that a word can name. -/
def Operands.wf (o : Operands) : Bool :=
  o.vd.all (fun p => p.1.rangeOk p.2) && o.vr.all (fun p => p.1.rangeOk p.2) && o.vs.all VSrc.wf &&
  o.sd.all (· ≤ 62) && o.ss.all SSrc.wf && o.pd.all pairOk && o.ps.all pairOk && o.acc.all accOk &&
  sameLits o.lits && o.ok

/-- The term stands for words of the instruction set, or is a command or event of the table. -/
def Instr.wf (i : Instr) : Bool := i.operands.wf

end Sys2Proof
end

