-- ==== Sys2Proof/Decode.lean ====
section
/-!
DEFINITION. Sys2Proof/Decode.lean: instruction words to operations and back (R40 to R59). `decodeWord` is total: a word
that is no instruction answers the first cause of R59. `encode` is written from the same formats.
-/

namespace Sys2Proof

/-! ## Fields and codes -/

/-- Bits [hi:lo] of a word. -/
def fld (w hi lo : Nat) : Nat := w / 2 ^ lo % 2 ^ (hi - lo + 1)

/-- The register that a 7-bit vector field below 127 names (R44). -/
def vregOf (c : Nat) : VReg := if c < 120 then .v c else .a (c - 120)

/-- The single vector source that a field names (R44). -/
def vsrcOf (c : Nat) (lit : Word) : VSrc := if c = 127 then .lit lit else .reg (vregOf c)

/-- The scalar source that a field names (R11). -/
def ssrcOf (c : Nat) (lit : Word) : SSrc := if c = 63 then .lit lit else .reg c

/-- Wrapping and saturating codes of majors 0x00 and 0x01. -/
def satOf : Nat → SatKind
  | 1 => .s32sat
  | 2 => .n32sat
  | _ => .wrap
def SatKind.code : SatKind → Nat
  | .wrap => 0
  | .s32sat => 1
  | .n32sat => 2

/-- Signedness where 0 is `.s32`. -/
def sgnOf : Nat → Sgn
  | 0 => .s
  | _ => .n
def Sgn.code : Sgn → Nat
  | .s => 0
  | .n => 1

/-- Signedness where 0 is the unsigned form (VBFE, SBFE, SLEA, VUNPACK). -/
def sgnOfN : Nat → Sgn
  | 0 => .n
  | _ => .s
def Sgn.codeN : Sgn → Nat
  | .n => 0
  | .s => 1

def ftyOf : Nat → FTy
  | 0 => .f32
  | 1 => .f16
  | _ => .bf16
def FTy.code : FTy → Nat
  | .f32 => 0
  | .f16 => 1
  | .bf16 => 2

def cmpTyOf : Nat → CmpTy
  | 0 => .s32
  | 1 => .n32
  | _ => .f32
def CmpTy.code : CmpTy → Nat
  | .s32 => 0
  | .n32 => 1
  | .f32 => 2

def ccOf : Nat → CC
  | 0 => .eq
  | 1 => .ne
  | 2 => .lt
  | 3 => .le
  | 4 => .gt
  | 5 => .ge
  | 6 => .uo
  | _ => .ord
def CC.code : CC → Nat
  | .eq => 0
  | .ne => 1
  | .lt => 2
  | .le => 3
  | .gt => 4
  | .ge => 5
  | .uo => 6
  | .ord => 7

def cvtOf : Nat → CvtTy
  | 0 => .s32
  | 1 => .n32
  | 2 => .s16
  | 3 => .n16
  | 4 => .s8
  | 5 => .n8
  | 6 => .f32
  | 7 => .f16
  | 8 => .bf16
  | 9 => .e4m3
  | 10 => .e5m2
  | _ => .e2m1
def CvtTy.code : CvtTy → Nat
  | .s32 => 0
  | .n32 => 1
  | .s16 => 2
  | .n16 => 3
  | .s8 => 4
  | .n8 => 5
  | .f32 => 6
  | .f16 => 7
  | .bf16 => 8
  | .e4m3 => 9
  | .e5m2 => 10
  | .e2m1 => 11

def rmOf : Nat → RMode
  | 0 => .rne
  | 1 => .rtz
  | 2 => .rup
  | 3 => .rdn
  | 4 => .rna
  | 5 => .rto
  | _ => .rst
def RMode.code : RMode → Nat
  | .rne => 0
  | .rtz => 1
  | .rup => 2
  | .rdn => 3
  | .rna => 4
  | .rto => 5
  | .rst => 6

def ordOf : Nat → Ord
  | 0 => .rlx
  | 1 => .acq
  | 2 => .rel
  | _ => .ar
def Ord.code : Ord → Nat
  | .rlx => 0
  | .acq => 1
  | .rel => 2
  | .ar => 3

def scopeOf : Nat → Scope
  | 0 => .wave
  | 1 => .group
  | 2 => .device
  | 3 => .domain
  | _ => .system
def Scope.code : Scope → Nat
  | .wave => 0
  | .group => 1
  | .device => 2
  | .domain => 3
  | .system => 4

/-- The scope bit of format VAT. -/
def scopeOfBit : Nat → Scope
  | 0 => .group
  | _ => .device
def Scope.codeBit : Scope → Nat
  | .group => 0
  | _ => 1

def msizeOf : Nat → MSize
  | 0 => .n8
  | 1 => .s8
  | 2 => .n16
  | 3 => .s16
  | 4 => .b32
  | 5 => .b64
  | _ => .b128
def MSize.code : MSize → Nat
  | .n8 => 0
  | .s8 => 1
  | .n16 => 2
  | .s16 => 3
  | .b32 => 4
  | .b64 => 5
  | .b128 => 6

def gsizeOf : Nat → GSize
  | 0 => .b8
  | 1 => .b16
  | 2 => .b32
  | 3 => .b64
  | _ => .b128
def GSize.code : GSize → Nat
  | .b8 => 0
  | .b16 => 1
  | .b32 => 2
  | .b64 => 3
  | .b128 => 4

def atomOf : Nat → AtomOp
  | 0 => .add
  | 1 => .fadd
  | 2 => .smin
  | 3 => .nmin
  | 4 => .smax
  | 5 => .nmax
  | 6 => .and
  | 7 => .or
  | 8 => .xor
  | 9 => .exch
  | _ => .cas
def AtomOp.code : AtomOp → Nat
  | .add => 0
  | .fadd => 1
  | .smin => 2
  | .nmin => 3
  | .smax => 4
  | .nmax => 5
  | .and => 6
  | .or => 7
  | .xor => 8
  | .exch => 9
  | .cas => 10

def mfmtOf : Nat → MFmt
  | 0 => .e4m3
  | 1 => .e5m2
  | 2 => .e2m1
  | 3 => .bf16
  | 4 => .f16
  | 5 => .s8
  | _ => .s4
def MFmt.code : MFmt → Nat
  | .e4m3 => 0
  | .e5m2 => 1
  | .e2m1 => 2
  | .bf16 => 3
  | .f16 => 4
  | .s8 => 5
  | .s4 => 6

def scanOf : Nat → ScanFn
  | 0 => .add
  | 1 => .addx
  | 2 => .min
  | _ => .max
def ScanFn.code : ScanFn → Nat
  | .add => 0
  | .addx => 1
  | .min => 2
  | .max => 3

def clsOf : Nat → Cls
  | 0 => .bcopy
  | 1 => .gather
  | 2 => .gatom
  | 3 => .matrix
  | _ => .coll
def Cls.code : Cls → Nat
  | .bcopy => 0
  | .gather => 1
  | .gatom => 2
  | .matrix => 3
  | .coll => 4

def wcondOf : Nat → WCond
  | 0 => .eq
  | 1 => .ne
  | 2 => .lt
  | 3 => .le
  | 4 => .gt
  | 5 => .ge
  | _ => .reached
def WCond.code : WCond → Nat
  | .eq => 0
  | .ne => 1
  | .lt => 2
  | .le => 3
  | .gt => 4
  | .ge => 5
  | .reached => 6

def collOf : Nat → CollKind
  | 0 => .allreduce
  | 1 => .redscatter
  | 2 => .allgather
  | 3 => .bcast
  | _ => .alltoall
def CollKind.code : CollKind → Nat
  | .allreduce => 0
  | .redscatter => 1
  | .allgather => 2
  | .bcast => 3
  | .alltoall => 4

/-! ## Decoding -/

/-- The order of R59 after the function is known: reserved field, literal position, odd pair. -/
def chk (res lit odd : Bool) (i : Instr) : Except Cause Instr :=
  if res then .error .reservedField
  else if lit then .error .literalPosition
  else if odd then .error .oddPair
  else .ok i

/-- A unassigned function, else the checks. -/
def fnChk (bad : Bool) (res lit odd : Bool) (i : Instr) : Except Cause Instr :=
  if bad then .error .unassignedFunction else chk res lit odd i

/-- The field names the literal code of a vector field. -/
def isV (c : Nat) : Bool := c == 127
/-- The field names the literal code of a scalar field. -/
def isS (c : Nat) : Bool := c == 63
/-- An odd pair code. -/
def isOdd (c : Nat) : Bool := c % 2 == 1
/-- A vector range that breaks R46. -/
def badRange (c k : Nat) : Bool := !(vregOf c).rangeOk k

/-- A scope code above `.device`, or a scope other than the lowest with `.rlx` (R48, R176). -/
def badScope2 (o c : Nat) : Bool := c == 3 || (o == 0 && c != 0)

/-- The lane set (R49, R56): bits [24:0] of the word by its major. -/
def decodeLane (maj w : Nat) (lit : Word) : Except Cause Instr :=
  let d := fld w 24 18
  let a := fld w 17 11
  let b := fld w 10 4
  let h := BitVec.ofNat 2 (fld w 3 2)
  let l := BitVec.ofNat 4 (fld w 3 0)
  let sub := fld w 1 0
  let D := vregOf d
  let A := vsrcOf a lit
  let B := vsrcOf b lit
  match maj with
  | 0x00 => fnChk (sub == 3) false (isV d) false (.vadd (satOf sub) D A B h)
  | 0x01 => fnChk (sub == 3) false (isV d) false (.vsub (satOf sub) D A B h)
  | 0x02 =>
      match sub with
      | 0 => chk false (isV d) false (.vmul D A B h)
      | 1 => chk false (isV d) false (.vmulh .s D A B h)
      | 2 => chk false (isV d) false (.vmulh .n D A B h)
      | _ => .error .unassignedFunction
  | 0x03 => fnChk (sub != 0) false (isV d) false (.vmad D A B h)
  | 0x04 =>
      if sub < 2 then chk false (isV d) false (.vmin (sgnOf (sub % 2)) D A B h)
      else chk false (isV d) false (.vmax (sgnOf (sub % 2)) D A B h)
  | 0x05 =>
      match sub with
      | 0 => chk false (isV d) false (.vand D A B h)
      | 1 => chk false (isV d) false (.vor D A B h)
      | 2 => chk false (isV d) false (.vxor D A B h)
      | _ => .error .unassignedFunction
  | 0x06 =>
      match sub with
      | 0 => chk false (isV d) false (.vshl D A B h)
      | 1 => chk false (isV d) false (.vshr D A B h)
      | 2 => chk false (isV d) false (.vsra D A B h)
      | _ => .error .unassignedFunction
  | 0x07 =>
      match sub with
      | 0 => chk (b != 0) (isV d) false (.vnot D A h)
      | 1 => chk (b != 0) (isV d) false (.vpop D A h)
      | 2 => chk (b != 0) (isV d) false (.vclz D A h)
      | _ => chk (b != 0) (isV d) false (.vmov D A h)
  | 0x08 =>
      if sub < 2 then chk (b != 0) (isV d) false (.vabs (sub == 1) D A h)
      else chk (b != 0) (isV d) false (.vneg (sub == 3) D A h)
  | 0x09 =>
      match sub with
      | 0 => chk false (isV d) false (.vbfe .n D A B h)
      | 1 => chk false (isV d) false (.vbfe .s D A B h)
      | 2 => chk false (isV d) false (.vbfi D A B h)
      | _ => .error .unassignedFunction
  | 0x0A => fnChk (sub == 3) false (isV d) false (.vclamp (cmpTyOf sub) D A B h)
  | 0x0B => fnChk (1 < sub) false (isV d) false (.vdot4 (sgnOf sub) D A B h)
  | 0x0C => fnChk (sub == 3) false (isV d) false (.vaddF (ftyOf sub) D A B h)
  | 0x0D => fnChk (sub == 3) false (isV d) false (.vsubF (ftyOf sub) D A B h)
  | 0x0E => fnChk (sub == 3) false (isV d) false (.vmulF (ftyOf sub) D A B h)
  | 0x0F => fnChk (sub == 3) false (isV d) false (.vfma (ftyOf sub) D A B h)
  | 0x10 => fnChk (sub == 3) false (isV d) false (.vminF (ftyOf sub) D A B h)
  | 0x11 => fnChk (sub == 3) false (isV d) false (.vmaxF (ftyOf sub) D A B h)
  | 0x12 =>
      let p := fld w 24 19
      let cc := fld w 18 16
      let t := fld w 15 14
      let a := fld w 13 7
      let b := fld w 6 0
      chk (t == 3 || (6 ≤ cc && t != 2)) (isS p) (isOdd p)
        (.vcmp (ccOf cc) (cmpTyOf t) p (vsrcOf a lit) (vsrcOf b lit))
  | 0x13 =>
      let s := fld w 10 5
      let z := fld w 4 4
      match sub with
      | 0 => chk (z != 0) (isV d || isS s) (isOdd s) (.vsel D A s h)
      | 1 => chk (z != 0 || a != 0) (isV d) false (.vmovs D (ssrcOf s lit) h)
      | 2 => chk (z != 0) (isV d) false (.vlane D A (ssrcOf s lit) h)
      | _ => chk (z != 0) (isV d) false (.vlrot D A (ssrcOf s lit) h)
  | 0x14 =>
      match sub with
      | 0 => chk false (isV d) false (.vperm D A B h)
      | 1 => chk false (isV d) false (.vshuf D A B h)
      | _ => .error .unassignedFunction
  | 0x15 =>
      if sub < 2 then chk false (isV d) false (.vpack (sub == 1) D A B h)
      else chk false (isV d) false (.vunpack (sgnOfN (sub % 2)) D A B h)
  | 0x16 =>
      let td := fld w 10 7
      let ts := fld w 6 3
      let rm := fld w 2 0
      fnChk (td == ts && td < 12) (12 ≤ td || 12 ≤ ts || rm == 7) (isV d) false
        (.vcvt (cvtOf td) (cvtOf ts) (rmOf rm) D A)
  | 0x17 =>
      let td := fld w 10 7
      let ts := fld w 6 3
      let rm := fld w 2 0
      fnChk (td == ts && td < 12) (12 ≤ td || 12 ≤ ts || rm == 7) (isV d) false
        (.vcvtSat (cvtOf td) (cvtOf ts) (rmOf rm) D A)
  | 0x18 =>
      let sa := fld w 17 12
      let td := fld w 11 8
      let ts := fld w 7 4
      let rm := fld w 3 1
      fnChk (td == ts && td < 12) (12 ≤ td || 12 ≤ ts || rm == 7) (isV d) false
        (.vcvts (cvtOf td) (cvtOf ts) (rmOf rm) (fld w 0 0 == 1) D (ssrcOf sa lit))
  | 0x19 => fnChk (1 < sub) (a != 0 || b != 0) (isV d) false (.vrand (sub == 1) D h)
  | 0x1A =>
      let fn := fld w 10 8
      let t := fld w 7 6
      let res := t == 3 || fld w 5 4 != 0
      let ty := ftyOf t
      match fn with
      | 0 => chk res (isV d) false (.vrcp ty D A l)
      | 1 => chk res (isV d) false (.vrsq ty D A l)
      | 2 => chk res (isV d) false (.vsqrt ty D A l)
      | 3 => chk res (isV d) false (.vlog2 ty D A l)
      | 4 => chk res (isV d) false (.vsin ty D A l)
      | 5 => chk res (isV d) false (.vcos ty D A l)
      | 6 => chk res (isV d) false (.vtanh ty D A l)
      | _ => .error .unassignedFunction
  | 0x1B =>
      let c := ssrcOf (fld w 9 4) lit
      if fld w 10 10 = 0 then chk false (isV d) false (.vexp2s D (.vec A) c l)
      else chk (fld w 17 17 != 0) (isV d) false (.vexp2s D (.sca (ssrcOf (fld w 16 11) lit)) c l)
  | 0x1C =>
      let sd := fld w 24 19
      let fn := fld w 10 8
      let t := fld w 7 6
      let res := t == 3 || fld w 18 18 != 0 || fld w 5 4 != 0
      let ty := cmpTyOf t
      match fn with
      | 0 => chk res (isS sd) false (.vredadd ty sd A l)
      | 1 => chk res (isS sd) false (.vredmin ty sd A l)
      | 2 => chk res (isS sd) false (.vredmax ty sd A l)
      | 3 => chk res (isS sd) false (.vargmin ty sd A l)
      | 4 => chk res (isS sd) false (.vargmax ty sd A l)
      | _ => .error .unassignedFunction
  | 0x1D =>
      let fn := fld w 10 8
      let t := fld w 7 6
      fnChk (4 ≤ fn) (t == 3 || fld w 5 4 != 0) (isV d) false (.vscan (scanOf fn) (cmpTyOf t) D A l)
  | 0x1E =>
      let sd := fld w 10 5
      if fld w 4 4 = 0 then chk false (isV d || isS sd) false (.vcompress D A sd l)
      else chk false (isV d || isS sd) false (.vexpand D A sd l)
  | 0x20 =>
      let z := fld w 10 8
      let o := fld w 7 6
      let c := fld w 5 4
      let sz := msizeOf z
      chk (z == 7 || 2 ≤ o || badScope2 o c) (isV d) (badRange d sz.regs) (.lds sz (ordOf o) (scopeOf c) D A l)
  | 0x21 =>
      let z := fld w 10 8
      let o := fld w 7 6
      let c := fld w 5 4
      let sz := msizeOf z
      chk (z == 7 || z == 1 || z == 3 || o % 2 == 1 || badScope2 o c || sub != 0) (isV d && sz.regs != 1)
        (sz.regs != 1 && badRange d sz.regs) (.sts sz (ordOf o) (scopeOf c) (vsrcOf d lit) A h)
  | 0x22 =>
      let z := fld w 10 8
      let o := fld w 7 6
      let c := fld w 5 4
      let sz := msizeOf z
      chk (z == 7 || 2 ≤ o || badScope2 o c) (isV d) (badRange d sz.regs) (.ldw sz (ordOf o) (scopeOf c) D A l)
  | 0x23 =>
      let z := fld w 10 8
      let o := fld w 7 6
      let c := fld w 5 4
      let sz := msizeOf z
      chk (z == 7 || z == 1 || z == 3 || o % 2 == 1 || badScope2 o c || sub != 0) (isV d && sz.regs != 1)
        (sz.regs != 1 && badRange d sz.regs) (.stw sz (ordOf o) (scopeOf c) (vsrcOf d lit) A h)
  | 0x24 =>
      let sa := fld w 17 12
      let z := fld w 11 9
      let o := fld w 8 7
      let c := fld w 6 5
      let sz := msizeOf z
      chk (z == 7 || 2 ≤ o || badScope2 o c || fld w 4 4 != 0) (isV d) (badRange d sz.regs)
        (.ldsu sz (ordOf o) (scopeOf c) D (ssrcOf sa lit) l)
  | 0x25 =>
      let z := fld w 10 8
      let o := fld w 7 6
      let c := fld w 5 4
      chk (z != 4 || 2 ≤ o || badScope2 o c) (isV d) false (.ldres (ordOf o) (scopeOf c) D A l)
  | 0x26 =>
      let p := fld w 24 19
      let s := fld w 18 12
      let a := fld w 11 5
      let o := fld w 4 3
      let c := fld w 2 1
      chk (o % 2 == 1 || badScope2 o c || fld w 0 0 != 0) (isS p) (isOdd p)
        (.stcond (ordOf o) (scopeOf c) p (vsrcOf s lit) (vsrcOf a lit))
  | 0x27 =>
      let op := fld w 10 7
      let o := fld w 6 5
      let c := fld w 4 4
      chk (11 ≤ op || (o == 0 && c != 0)) (isV d) (op == 10 && badRange d 2)
        (.ats (atomOf op) (ordOf o) (scopeOfBit c) D A l)
  | 0x28 =>
      let op := fld w 10 7
      let o := fld w 6 5
      let c := fld w 4 4
      chk (11 ≤ op || (o == 0 && c != 0)) (isV d) (op == 10 && badRange d 2)
        (.atw (atomOf op) (ordOf o) (scopeOfBit c) D A l)
  | 0x30 =>
      let peal := fld w 10 5
      let nt := fld w 4 4
      if fld w 3 3 = 0 then
        chk (peal != 0 || fld w 2 0 != 0) (isV d) (badRange d 2) (.bcopy D A (nt == 1))
      else
        chk (nt != 0 || fld w 2 0 != 0) (isV d) (badRange d 2) (.bcopyp D A (BitVec.ofNat 6 peal))
  | 0x31 =>
      let z := fld w 10 8
      chk (5 ≤ z || fld w 7 7 != 0 || fld w 6 0 != 0) (isV d) (badRange d 2) (.gather (gsizeOf z) D A)
  | 0x32 =>
      let z := fld w 10 8
      chk (5 ≤ z || fld w 6 0 != 0) (isV d) (badRange d 2) (.scatter (gsizeOf z) (fld w 7 7 == 1) D A)
  | 0x33 =>
      let op := fld w 10 7
      let o := fld w 6 5
      let c := fld w 4 2
      let rt := fld w 1 1 == 1
      let w64 := fld w 0 0 == 1
      let k := gatomRegs (atomOf op) w64
      chk (11 ≤ op || (op == 1 && w64) || 5 ≤ c || (o == 0 && c != 0)) (isV d || (isV a && (rt || k != 1)))
        (badRange d 2 || (k != 1 && badRange a k)) (.gatom (atomOf op) (ordOf o) (scopeOf c) rt w64 D A)
  | 0x38 =>
      let f := fld w 11 9
      chk (f == 7 || fld w 7 4 != 0) (isV d) (!accOk D)
        (.mstream (mfmtOf f) (fld w 8 8 == 1) D (ssrcOf (fld w 17 12) lit) l)
  | 0x39 =>
      let f := fld w 11 9
      chk (f == 7 || fld w 7 4 != 0) (isV d) (!accOk D)
        (.mstreamc (mfmtOf f) (fld w 8 8 == 1) D (ssrcOf (fld w 17 12) lit) l)
  | 0x3A => chk (fld w 17 4 != 0) (isV d) (!accOk D) (.mzeroacc D l)
  | _ => .error .unassignedMajor

/-- Format UR arithmetic with wrapping and saturating forms. -/
def decodeSat (fn d : Nat) (i : SatKind → Instr) : Except Cause Instr :=
  fnChk (3 ≤ fn) false (isS d) false (i (satOf fn))

/-- The uniform set (R50, R57): bits [24:0] of the word by its major. -/
def decodeUniform (maj w : Nat) (lit : Word) : Except Cause Instr :=
  let d := fld w 24 19
  let a := fld w 18 13
  let b := fld w 12 7
  let fn := fld w 6 0
  let A := ssrcOf a lit
  let B := ssrcOf b lit
  match maj with
  | 0x00 => decodeSat fn d (fun k => .sadd k d A B)
  | 0x01 => decodeSat fn d (fun k => .ssub k d A B)
  | 0x02 =>
      match fn with
      | 0 => chk false (isS d) false (.smul d A B)
      | 1 => chk false (isS d) false (.smulh .s d A B)
      | 2 => chk false (isS d) false (.smulh .n d A B)
      | _ => .error .unassignedFunction
  | 0x03 => fnChk (fn != 0) false (isS d) false (.smad d A B)
  | 0x04 =>
      match fn with
      | 0 => chk false (isS d) false (.sand d A B)
      | 1 => chk false (isS d) false (.sor d A B)
      | 2 => chk false (isS d) false (.sxor d A B)
      | _ => .error .unassignedFunction
  | 0x05 =>
      match fn with
      | 0 => chk false (isS d) false (.sshl d A B)
      | 1 => chk false (isS d) false (.sshr d A B)
      | 2 => chk false (isS d) false (.ssra d A B)
      | _ => .error .unassignedFunction
  | 0x06 =>
      match fn with
      | 0 => chk false (isS d) false (.smin .s d A B)
      | 1 => chk false (isS d) false (.smin .n d A B)
      | 2 => chk false (isS d) false (.smax .s d A B)
      | 3 => chk false (isS d) false (.smax .n d A B)
      | _ => .error .unassignedFunction
  | 0x07 =>
      fnChk (6 ≤ fld w 2 0) (fld w 6 4 != 0) (isS d) (isOdd d)
        (.scmp (ccOf (fld w 2 0)) (sgnOf (fld w 3 3)) d A B)
  | 0x08 => chk (fld w 6 6 != 0) (isS d) false (.ssel d A B (ssrcOf (fld w 5 0) lit))
  | 0x09 =>
      match fn with
      | 0 => chk (b != 0) (isS d) false (.smov d A)
      | 1 => chk (b != 0) (isS d) false (.sclz d A)
      | 2 => chk (b != 0) (isS d) false (.spop d A)
      | _ => .error .unassignedFunction
  | 0x0A => chk false (isS d) false (.slit d (BitVec.ofNat 19 (fld w 18 0)))
  | 0x0B => fnChk (fn != 0) false (isS d || isS a || isS b) (isOdd d || isOdd a || isOdd b) (.saddc d a b)
  | 0x0C =>
      chk (fld w 6 4 != 0) (isS d || isS a) (isOdd d || isOdd a)
        (.slea (sgnOfN (fld w 3 3)) (BitVec.ofNat 3 (fld w 2 0)) d a B)
  | 0x0D =>
      let wd := fld w 10 5
      chk (fld w 12 12 != 0 || 33 ≤ wd) (isS d) false
        (.sbfe (sgnOfN (fld w 11 11)) wd (BitVec.ofNat 5 (fld w 4 0)) d A)
  | 0x0E =>
      let wd := fld w 10 5
      chk (fld w 12 11 != 0 || 33 ≤ wd) (isS d) false (.sbfi wd (BitVec.ofNat 5 (fld w 4 0)) d A)
  | 0x0F => chk false (isS d) false (.sld d A (BitVec.ofNat 13 (fld w 12 0)))
  | 0x10 => .ok (.sst (ssrcOf d lit) A (BitVec.ofNat 13 (fld w 12 0)))
  | 0x11 => chk (a != 0 || fld w 12 12 != 0) (isS d) false (.sget d (BitVec.ofNat 12 (fld w 11 0)))
  | 0x12 => chk (d != 0 || fld w 12 12 != 0) false false (.sset A (BitVec.ofNat 12 (fld w 11 0)))
  | 0x13 =>
      chk (fld w 5 0 != 0) (isS d) false (.sreadl d (vsrcOf (fld w 18 12) lit) (ssrcOf (fld w 11 6) lit))
  | 0x14 =>
      match fn with
      | 0 => chk false (isS d || isS a || isS b) (isOdd d || isOdd a || isOdd b) (.mand d a b)
      | 1 => chk false (isS d || isS a || isS b) (isOdd d || isOdd a || isOdd b) (.mor d a b)
      | 2 => chk false (isS d || isS a || isS b) (isOdd d || isOdd a || isOdd b) (.mxor d a b)
      | 3 => chk false (isS d || isS a || isS b) (isOdd d || isOdd a || isOdd b) (.mandn d a b)
      | 4 => chk (b != 0) (isS d || isS a) (isOdd d || isOdd a) (.mnot d a)
      | 5 => chk (b != 0) (isS d || isS a) (isOdd a) (.mpop d a)
      | 6 => chk (b != 0) (isS d || isS a) (isOdd a) (.mfirst d a)
      | 7 => chk (b != 0 || d == 56) (isS d || isS a) (isOdd d || isOdd a) (.msetx d a)
      | _ => .error .unassignedFunction
  | 0x18 => .ok (.br (BitVec.ofNat 25 (fld w 24 0)))
  | 0x19 =>
      let off := BitVec.ofNat 16 (fld w 15 0)
      let s := ssrcOf d lit
      match fld w 18 16 with
      | 0 => .ok (.brc (.z s) off)
      | 1 => .ok (.brc (.nz s) off)
      | 2 => .ok (.brc (.lt s) off)
      | 3 => .ok (.brc (.ge s) off)
      | 4 => .ok (.brc (.le s) off)
      | 5 => .ok (.brc (.gt s) off)
      | 6 => chk false (isS d) (isOdd d) (.brc (.any d) off)
      | _ => chk false (isS d) (isOdd d) (.brc (.none d) off)
  | 0x1A =>
      let off := BitVec.ofNat 18 (fld w 17 0)
      if fld w 18 18 = 0 then chk false (isS d) (isOdd d) (.brd d off lit)
      else chk false (isS d) (isOdd d) (.brdn d off lit)
  | 0x1B =>
      let dem := fld w 24 21
      chk (dem == 0) false false (.call dem (BitVec.ofNat 21 (fld w 20 0)))
  | 0x1C =>
      let dem := fld w 24 21
      chk (dem == 0 || fld w 14 0 != 0) false false (.calli dem (ssrcOf (fld w 20 15) lit))
  | 0x1D =>
      let arg := fld w 19 0
      let n := BitVec.ofNat 20 arg
      match fld w 24 20 with
      | 0 => chk (arg != 0) false false .nop
      | 1 => chk (arg != 0) false false .join
      | 2 => chk (arg != 0) false false .exit
      | 3 => chk (arg != 0) false false .ret
      | 4 => chk (arg != 0) false false .unwind
      | 5 => chk (arg != 0) false false .umark
      | 6 => chk (arg != 0) false false .yield
      | 7 => .ok (.sleepc n)
      | 8 => .ok (.trap n)
      | 9 => .ok (.brkpt n)
      | 10 => chk (arg != 0) false false .haltw
      | _ => .error .unassignedFunction
  | 0x20 =>
      let s := fld w 24 22
      chk (5 ≤ s || fld w 21 10 != 0) false false (.waitcnt (clsOf s) (BitVec.ofNat 10 (fld w 9 0)))
  | 0x21 =>
      let s := fld w 24 22
      chk (5 ≤ s || fld w 21 0 != 0) false false (.drain (scopeOf s))
  | 0x22 =>
      let s := fld w 24 22
      chk (5 ≤ s || fld w 21 2 != 0 || fld w 1 0 == 0) false false (.fence (ordOf (fld w 1 0)) (scopeOf s))
  | 0x23 =>
      let k := fld w 2 0
      let s := fld w 5 3
      chk (k == 7 || 5 ≤ s || fld w 6 6 != 0) (isS d || isS a) (isOdd a)
        (.waitaddr (wcondOf k) (scopeOf s) d a B)
  | 0x24 => chk (b != 0 || fn != 0) (isS d || isS a) (isOdd d || isOdd a) (.gchunk d a)
  | 0x25 =>
      let k := fld w 2 0
      chk (5 ≤ k || fld w 6 3 != 0 || d != 0) (isS a) (isOdd a) (.coll (collOf k) a B)
  | 0x26 =>
      match fn with
      | 0 => chk (b != 0) (isS d) false (.pealjoin d A)
      | 1 => chk (b != 0) (isS d) false (.pealleave d A)
      | 2 => chk (b != 0) (isS d) false (.pealq d A)
      | _ => .error .unassignedFunction
  | 0x27 => chk (b != 0 || fn != 0) (isS d) false (.winsel d A)
  | 0x28 =>
      let f := fld w 2 0
      chk (d != 0 || f == 7 || fld w 6 3 != 0) false false (.mloadw (mfmtOf f) A B)
  | 0x29 => fnChk (fn != 0) (d != 0 || a != 0 || b != 0) false false .mswap
  | 0x2A => chk (b != 0 || fld w 6 2 != 0) (isS d) false (.mscale (BitVec.ofNat 2 (fld w 1 0)) d A)
  | 0x2B =>
      match fn with
      | 0 => chk (b != 0 || a != 0) (isS d) false (.mqry .planes d)
      | 1 => chk (b != 0 || a != 0) (isS d) false (.mqry .accepted d)
      | 2 => chk (b != 0 || a != 0) (isS d) false (.mqry .chain d)
      | 3 => chk (b != 0) (isS d) false (.mqry (.kOf A) d)
      | _ => .error .unassignedFunction
  | 0x30 => fnChk (fn != 0) (d != 0) (isS b) (isOdd b) (.barinit A b)
  | 0x31 =>
      match fn with
      | 0 => chk false (isS d) false (.bararr d A B)
      | 1 => chk false (isS d) false (.barwait d A B)
      | 2 => chk false (isS d) false (.bararw d A B)
      | _ => .error .unassignedFunction
  | 0x32 =>
      match fn with
      | 0 => chk false (isS d) false (.sempost d A B)
      | 1 => chk false (isS d) false (.semacq d A B)
      | 2 => chk false (isS d) false (.semtry d A B)
      | _ => .error .unassignedFunction
  | 0x33 =>
      match fn with
      | 0 => chk false (isS d || isS a) (isOdd a) (.enq d a B)
      | 1 => chk false (isS d || isS a) (isOdd a) (.enqn d a B)
      | _ => .error .unassignedFunction
  | 0x34 => fnChk (fn != 0) (d != 0 || a != 0 || b != 0) false false .taskend
  | 0x35 => fnChk (fn != 0) false (isS d || isS a) (isOdd a) (.launch d a B)
  | 0x36 =>
      let res := d != 0 || a != 0 || fld w 6 2 != 0
      match fld w 1 0 with
      | 0 => chk res false false (.cancel (.launch B))
      | 1 => chk res false false (.cancel (.graph B))
      | 2 => chk res false false (.cancel (.phase B))
      | _ => chk (res || b != 0) false false (.cancel .job)
  | 0x37 =>
      let res := a != 0 || fld w 6 2 != 0
      match fld w 1 0 with
      | 0 => chk res (isS d) false (.cntrd d (.launch B))
      | 1 => chk res (isS d) false (.cntrd d (.graph B))
      | 2 => chk res (isS d) false (.cntrd d (.phase B))
      | _ => chk (res || b != 0) (isS d) false (.cntrd d .job)
  | 0x38 => fnChk (fn != 0) false (isS d) false (.setpri d A B)
  | 0x3C => chk (b != 0 || fn != 0) (isS d) false (.chimemark d A)
  | 0x3D => chk (b != 0 || fn != 0) (isS d || isS a) (isOdd a) (.chimechk d a)
  | 0x3E => fnChk (9 ≤ fn) (a != 0 || b != 0) (isS d) false (.ctxq d fn)
  | _ => .error .unassignedMajor

/-- Decode an instruction word and the word at PC + 1, which is read when a field names the literal (R40, R41, R59;
the feature-absent cause depends on the configuration and is checked at issue, before the checks that R59 lists
after decoding). -/
def decodeWord (w lit : Word) : Except Cause Instr :=
  let n := w.toNat
  if n < 2 ^ 31 then decodeLane (fld n 30 25) n lit else decodeUniform (fld n 30 25) n lit

/-- A word as four bytes, lowest first (R2, R40). -/
def wordBytes (w : Word) : List Byte :=
  [BitVec.ofNat 8 w.toNat, BitVec.ofNat 8 (w.toNat / 2 ^ 8), BitVec.ofNat 8 (w.toNat / 2 ^ 16),
   BitVec.ofNat 8 (w.toNat / 2 ^ 24)]

/-- The word that four bytes hold, lowest first (R2). -/
def bytesWord (a b c d : Byte) : Word :=
  BitVec.ofNat 32 (a.toNat + 2 ^ 8 * b.toNat + 2 ^ 16 * c.toNat + 2 ^ 24 * d.toNat)

/-- Why bytes are refused: an illegal word by its cause, or too few bytes. -/
inductive DecodeError where
  | illegal (c : Cause)
  | truncated
deriving DecidableEq, Repr

/-- Decode the instruction at the head of a code stream and answer the rest of it. -/
def decode : List Byte → Except DecodeError (Instr × List Byte)
  | a :: b :: c :: d :: rest =>
      match rest with
      | e :: f :: g :: h :: rest' =>
          match decodeWord (bytesWord a b c d) (bytesWord e f g h) with
          | .ok i => .ok (i, if i.words = 2 then rest' else rest)
          | .error x => .error (.illegal x)
      | _ =>
          match decodeWord (bytesWord a b c d) 0 with
          | .ok i => if i.words = 2 then .error .truncated else .ok (i, rest)
          | .error x => .error (.illegal x)
  | _ => .error .truncated

/-- The instruction that the decoder reads from the words of `w`, its first word in bits 31 to 0 and the next in
bits 63 to 32, with every bit above `nbits` zero. -/
def decodeTableWord (nbits w : Nat) : Option Instr :=
  let n := w % 2 ^ nbits
  match decode (wordBytes (BitVec.ofNat 32 n) ++ wordBytes (BitVec.ofNat 32 (n / 2 ^ 32))) with
  | .ok (i, _) => some i
  | .error _ => none

/-! ## Encoding -/

/-- Pack fields, given from the most significant down as (value, width). -/
def pack : List (Nat × Nat) → Nat
  | [] => 0
  | (v, _) :: rest => v * 2 ^ (rest.map Prod.snd).sum + pack rest

/-- The code of a vector source field. -/
def VSrc.code : VSrc → Nat
  | .reg r => r.code
  | .lit _ => 127

/-- The code of a scalar source field. -/
def SSrc.code : SSrc → Nat
  | .reg n => n
  | .lit _ => 63

def boolCode (b : Bool) : Nat := if b then 1 else 0

/-- Format VR. -/
def encVR (maj sub : Nat) (d : VReg) (a b : Nat) (h : BitVec 2) : Nat :=
  pack [(0, 1), (maj, 6), (d.code, 7), (a, 7), (b, 7), (h.toNat, 2), (sub, 2)]
/-- Format VRS. -/
def encVRS (sub : Nat) (d : VReg) (a s : Nat) (h : BitVec 2) : Nat :=
  pack [(0, 1), (0x13, 6), (d.code, 7), (a, 7), (s, 6), (0, 1), (h.toNat, 2), (sub, 2)]
/-- Format VL. -/
def encVL (maj fn t : Nat) (d : VReg) (a : VSrc) (l : BitVec 4) : Nat :=
  pack [(0, 1), (maj, 6), (d.code, 7), (a.code, 7), (fn, 3), (t, 2), (0, 2), (l.toNat, 4)]
/-- Format VLS. -/
def encVLS (fn t : Nat) (d : SReg) (a : VSrc) (l : BitVec 4) : Nat :=
  pack [(0, 1), (0x1C, 6), (d, 6), (0, 1), (a.code, 7), (fn, 3), (t, 2), (0, 2), (l.toNat, 4)]
/-- Format VM, with the low four bits given. -/
def encVM (maj : Nat) (d a z : Nat) (o : Ord) (c : Scope) (low : Nat) : Nat :=
  pack [(0, 1), (maj, 6), (d, 7), (a, 7), (z, 3), (o.code, 2), (c.code, 2), (low, 4)]
/-- Format VAT. -/
def encVAT (maj : Nat) (op : AtomOp) (o : Ord) (c : Scope) (b : VReg) (a : VSrc) (l : BitVec 4) : Nat :=
  pack [(0, 1), (maj, 6), (b.code, 7), (a.code, 7), (op.code, 4), (o.code, 2), (c.codeBit, 1), (l.toNat, 4)]
/-- Format UR. -/
def encUR (maj fn d a b : Nat) : Nat := pack [(1, 1), (maj, 6), (d, 6), (a, 6), (b, 6), (fn, 7)]
/-- Format UI. -/
def encUI (maj d a imm : Nat) : Nat := pack [(1, 1), (maj, 6), (d, 6), (a, 6), (imm, 13)]
/-- Format UN. -/
def encUN (fn arg : Nat) : Nat := pack [(1, 1), (0x1D, 6), (fn, 5), (arg, 20)]
/-- Format UW. -/
def encUW (maj sel n : Nat) : Nat := pack [(1, 1), (maj, 6), (sel, 3), (0, 12), (n, 10)]
/-- Format UD. -/
def encUD (neg : Nat) (p : SPair) (off : BitVec 18) : Nat :=
  pack [(1, 1), (0x1A, 6), (p, 6), (neg, 1), (off.toNat, 18)]
/-- Format UB. -/
def encUB (cc s : Nat) (off : BitVec 16) : Nat := pack [(1, 1), (0x19, 6), (s, 6), (cc, 3), (off.toNat, 16)]

/-- The instruction word (R49, R50, R56, R57); commands and events have none. -/
def encodeWord : Instr → Option Nat
  | .vadd k d a b h => some (encVR 0x00 k.code d a.code b.code h)
  | .vsub k d a b h => some (encVR 0x01 k.code d a.code b.code h)
  | .vmul d a b h => some (encVR 0x02 0 d a.code b.code h)
  | .vmulh t d a b h => some (encVR 0x02 (1 + t.code) d a.code b.code h)
  | .vmad d a b h => some (encVR 0x03 0 d a.code b.code h)
  | .vmin t d a b h => some (encVR 0x04 t.code d a.code b.code h)
  | .vmax t d a b h => some (encVR 0x04 (2 + t.code) d a.code b.code h)
  | .vand d a b h => some (encVR 0x05 0 d a.code b.code h)
  | .vor d a b h => some (encVR 0x05 1 d a.code b.code h)
  | .vxor d a b h => some (encVR 0x05 2 d a.code b.code h)
  | .vshl d a b h => some (encVR 0x06 0 d a.code b.code h)
  | .vshr d a b h => some (encVR 0x06 1 d a.code b.code h)
  | .vsra d a b h => some (encVR 0x06 2 d a.code b.code h)
  | .vnot d a h => some (encVR 0x07 0 d a.code 0 h)
  | .vpop d a h => some (encVR 0x07 1 d a.code 0 h)
  | .vclz d a h => some (encVR 0x07 2 d a.code 0 h)
  | .vmov d a h => some (encVR 0x07 3 d a.code 0 h)
  | .vabs f d a h => some (encVR 0x08 (boolCode f) d a.code 0 h)
  | .vneg f d a h => some (encVR 0x08 (2 + boolCode f) d a.code 0 h)
  | .vbfe t d a b h => some (encVR 0x09 t.codeN d a.code b.code h)
  | .vbfi d a b h => some (encVR 0x09 2 d a.code b.code h)
  | .vclamp t d a b h => some (encVR 0x0A t.code d a.code b.code h)
  | .vdot4 t d a b h => some (encVR 0x0B t.code d a.code b.code h)
  | .vaddF t d a b h => some (encVR 0x0C t.code d a.code b.code h)
  | .vsubF t d a b h => some (encVR 0x0D t.code d a.code b.code h)
  | .vmulF t d a b h => some (encVR 0x0E t.code d a.code b.code h)
  | .vfma t d a b h => some (encVR 0x0F t.code d a.code b.code h)
  | .vminF t d a b h => some (encVR 0x10 t.code d a.code b.code h)
  | .vmaxF t d a b h => some (encVR 0x11 t.code d a.code b.code h)
  | .vcmp c t p a b =>
      some (pack [(0, 1), (0x12, 6), (p, 6), (c.code, 3), (t.code, 2), (a.code, 7), (b.code, 7)])
  | .vsel d a p h => some (encVRS 0 d a.code p h)
  | .vmovs d b h => some (encVRS 1 d 0 b.code h)
  | .vlane d a b h => some (encVRS 2 d a.code b.code h)
  | .vlrot d a b h => some (encVRS 3 d a.code b.code h)
  | .vperm d a b h => some (encVR 0x14 0 d a.code b.code h)
  | .vshuf d a b h => some (encVR 0x14 1 d a.code b.code h)
  | .vpack y d a b h => some (encVR 0x15 (boolCode y) d a.code b.code h)
  | .vunpack t d a b h => some (encVR 0x15 (2 + t.codeN) d a.code b.code h)
  | .vcvt td ts rm d a =>
      some (pack [(0, 1), (0x16, 6), (d.code, 7), (a.code, 7), (td.code, 4), (ts.code, 4), (rm.code, 3)])
  | .vcvtSat td ts rm d a =>
      some (pack [(0, 1), (0x17, 6), (d.code, 7), (a.code, 7), (td.code, 4), (ts.code, 4), (rm.code, 3)])
  | .vcvts td ts rm sat d a =>
      some (pack [(0, 1), (0x18, 6), (d.code, 7), (a.code, 6), (td.code, 4), (ts.code, 4), (rm.code, 3),
        (boolCode sat, 1)])
  | .vrand f d h => some (encVR 0x19 (boolCode f) d 0 0 h)
  | .vrcp t d a l => some (encVL 0x1A 0 t.code d a l)
  | .vrsq t d a l => some (encVL 0x1A 1 t.code d a l)
  | .vsqrt t d a l => some (encVL 0x1A 2 t.code d a l)
  | .vlog2 t d a l => some (encVL 0x1A 3 t.code d a l)
  | .vsin t d a l => some (encVL 0x1A 4 t.code d a l)
  | .vcos t d a l => some (encVL 0x1A 5 t.code d a l)
  | .vtanh t d a l => some (encVL 0x1A 6 t.code d a l)
  | .vexp2s d m c l =>
      match m with
      | .vec m => some (pack [(0, 1), (0x1B, 6), (d.code, 7), (m.code, 7), (0, 1), (c.code, 6), (l.toNat, 4)])
      | .sca m =>
          some (pack [(0, 1), (0x1B, 6), (d.code, 7), (0, 1), (m.code, 6), (1, 1), (c.code, 6), (l.toNat, 4)])
  | .vredadd t d a l => some (encVLS 0 t.code d a l)
  | .vredmin t d a l => some (encVLS 1 t.code d a l)
  | .vredmax t d a l => some (encVLS 2 t.code d a l)
  | .vargmin t d a l => some (encVLS 3 t.code d a l)
  | .vargmax t d a l => some (encVLS 4 t.code d a l)
  | .vscan f t d a l => some (encVL 0x1D f.code t.code d a l)
  | .vcompress d a sd l =>
      some (pack [(0, 1), (0x1E, 6), (d.code, 7), (a.code, 7), (sd, 6), (0, 1), (l.toNat, 4)])
  | .vexpand d a sd l =>
      some (pack [(0, 1), (0x1E, 6), (d.code, 7), (a.code, 7), (sd, 6), (1, 1), (l.toNat, 4)])
  | .lds z o c d a l => some (encVM 0x20 d.code a.code z.code o c l.toNat)
  | .sts z o c d a h => some (encVM 0x21 d.code a.code z.code o c (4 * h.toNat))
  | .ldw z o c d a l => some (encVM 0x22 d.code a.code z.code o c l.toNat)
  | .stw z o c d a h => some (encVM 0x23 d.code a.code z.code o c (4 * h.toNat))
  | .ldsu z o c d a l =>
      some (pack [(0, 1), (0x24, 6), (d.code, 7), (a.code, 6), (z.code, 3), (o.code, 2), (c.code, 2), (0, 1),
        (l.toNat, 4)])
  | .ldres o c d a l => some (encVM 0x25 d.code a.code 4 o c l.toNat)
  | .stcond o c p s a =>
      some (pack [(0, 1), (0x26, 6), (p, 6), (s.code, 7), (a.code, 7), (o.code, 2), (c.code, 2), (0, 1)])
  | .ats op o c b a l => some (encVAT 0x27 op o c b a l)
  | .atw op o c b a l => some (encVAT 0x28 op o c b a l)
  | .bcopy a b nt =>
      some (pack [(0, 1), (0x30, 6), (a.code, 7), (b.code, 7), (0, 6), (boolCode nt, 1), (0, 4)])
  | .bcopyp a b p => some (pack [(0, 1), (0x30, 6), (a.code, 7), (b.code, 7), (p.toNat, 6), (0, 1), (8, 4)])
  | .gather z a b => some (pack [(0, 1), (0x31, 6), (a.code, 7), (b.code, 7), (z.code, 3), (0, 8)])
  | .scatter z nt a b =>
      some (pack [(0, 1), (0x32, 6), (a.code, 7), (b.code, 7), (z.code, 3), (boolCode nt, 1), (0, 7)])
  | .gatom op o c rt w64 a b =>
      some (pack [(0, 1), (0x33, 6), (a.code, 7), (b.code, 7), (op.code, 4), (o.code, 2), (c.code, 3),
        (boolCode rt, 1), (boolCode w64, 1)])
  | .mstream f z d a l =>
      some (pack [(0, 1), (0x38, 6), (d.code, 7), (a.code, 6), (f.code, 3), (boolCode z, 1), (0, 4), (l.toNat, 4)])
  | .mstreamc f z d a l =>
      some (pack [(0, 1), (0x39, 6), (d.code, 7), (a.code, 6), (f.code, 3), (boolCode z, 1), (0, 4), (l.toNat, 4)])
  | .mzeroacc d l => some (pack [(0, 1), (0x3A, 6), (d.code, 7), (0, 14), (l.toNat, 4)])
  | .sadd k d a b => some (encUR 0x00 k.code d a.code b.code)
  | .ssub k d a b => some (encUR 0x01 k.code d a.code b.code)
  | .smul d a b => some (encUR 0x02 0 d a.code b.code)
  | .smulh t d a b => some (encUR 0x02 (1 + t.code) d a.code b.code)
  | .smad d a b => some (encUR 0x03 0 d a.code b.code)
  | .sand d a b => some (encUR 0x04 0 d a.code b.code)
  | .sor d a b => some (encUR 0x04 1 d a.code b.code)
  | .sxor d a b => some (encUR 0x04 2 d a.code b.code)
  | .sshl d a b => some (encUR 0x05 0 d a.code b.code)
  | .sshr d a b => some (encUR 0x05 1 d a.code b.code)
  | .ssra d a b => some (encUR 0x05 2 d a.code b.code)
  | .smin t d a b => some (encUR 0x06 t.code d a.code b.code)
  | .smax t d a b => some (encUR 0x06 (2 + t.code) d a.code b.code)
  | .scmp c t d a b => some (encUR 0x07 (c.code + 8 * t.code) d a.code b.code)
  | .ssel d a b c => some (encUR 0x08 c.code d a.code b.code)
  | .smov d a => some (encUR 0x09 0 d a.code 0)
  | .sclz d a => some (encUR 0x09 1 d a.code 0)
  | .spop d a => some (encUR 0x09 2 d a.code 0)
  | .slit d imm => some (pack [(1, 1), (0x0A, 6), (d, 6), (imm.toNat, 19)])
  | .saddc d a b => some (encUR 0x0B 0 d a b)
  | .slea t sh d a b => some (encUR 0x0C (sh.toNat + 8 * t.codeN) d a b.code)
  | .sbfe t w p d a => some (encUI 0x0D d a.code (2048 * t.codeN + 32 * w + p.toNat))
  | .sbfi w p d a => some (encUI 0x0E d a.code (32 * w + p.toNat))
  | .sld d a imm => some (encUI 0x0F d a.code imm.toNat)
  | .sst d a imm => some (encUI 0x10 d.code a.code imm.toNat)
  | .sget d n => some (encUI 0x11 d 0 n.toNat)
  | .sset a n => some (encUI 0x12 0 a.code n.toNat)
  | .sreadl d a b => some (pack [(1, 1), (0x13, 6), (d, 6), (a.code, 7), (b.code, 6), (0, 6)])
  | .mand d a b => some (encUR 0x14 0 d a b)
  | .mor d a b => some (encUR 0x14 1 d a b)
  | .mxor d a b => some (encUR 0x14 2 d a b)
  | .mandn d a b => some (encUR 0x14 3 d a b)
  | .mnot d a => some (encUR 0x14 4 d a 0)
  | .mpop d a => some (encUR 0x14 5 d a 0)
  | .mfirst d a => some (encUR 0x14 6 d a 0)
  | .msetx d a => some (encUR 0x14 7 d a 0)
  | .br off => some (pack [(1, 1), (0x18, 6), (off.toNat, 25)])
  | .brc t off =>
      match t with
      | .z a => some (encUB 0 a.code off)
      | .nz a => some (encUB 1 a.code off)
      | .lt a => some (encUB 2 a.code off)
      | .ge a => some (encUB 3 a.code off)
      | .le a => some (encUB 4 a.code off)
      | .gt a => some (encUB 5 a.code off)
      | .any p => some (encUB 6 p off)
      | .none p => some (encUB 7 p off)
  | .brd p off _ => some (encUD 0 p off)
  | .brdn p off _ => some (encUD 1 p off)
  | .call dem off => some (pack [(1, 1), (0x1B, 6), (dem, 4), (off.toNat, 21)])
  | .calli dem a => some (pack [(1, 1), (0x1C, 6), (dem, 4), (a.code, 6), (0, 15)])
  | .nop => some (encUN 0 0)
  | .join => some (encUN 1 0)
  | .exit => some (encUN 2 0)
  | .ret => some (encUN 3 0)
  | .unwind => some (encUN 4 0)
  | .umark => some (encUN 5 0)
  | .yield => some (encUN 6 0)
  | .sleepc n => some (encUN 7 n.toNat)
  | .trap n => some (encUN 8 n.toNat)
  | .brkpt n => some (encUN 9 n.toNat)
  | .haltw => some (encUN 10 0)
  | .waitcnt c n => some (encUW 0x20 c.code n.toNat)
  | .drain c => some (encUW 0x21 c.code 0)
  | .fence o c => some (encUW 0x22 c.code o.code)
  | .waitaddr k c d a b => some (encUR 0x23 (k.code + 8 * c.code) d a b.code)
  | .gchunk d a => some (encUR 0x24 0 d a 0)
  | .coll k a b => some (encUR 0x25 k.code 0 a b.code)
  | .pealjoin d a => some (encUR 0x26 0 d a.code 0)
  | .pealleave d a => some (encUR 0x26 1 d a.code 0)
  | .pealq d a => some (encUR 0x26 2 d a.code 0)
  | .winsel d a => some (encUR 0x27 0 d a.code 0)
  | .mloadw f a b => some (encUR 0x28 f.code 0 a.code b.code)
  | .mswap => some (encUR 0x29 0 0 0 0)
  | .mscale n d a => some (encUR 0x2A n.toNat d a.code 0)
  | .mqry q d =>
      match q with
      | .planes => some (encUR 0x2B 0 d 0 0)
      | .accepted => some (encUR 0x2B 1 d 0 0)
      | .chain => some (encUR 0x2B 2 d 0 0)
      | .kOf a => some (encUR 0x2B 3 d a.code 0)
  | .barinit a b => some (encUR 0x30 0 0 a.code b)
  | .bararr d a b => some (encUR 0x31 0 d a.code b.code)
  | .barwait d a b => some (encUR 0x31 1 d a.code b.code)
  | .bararw d a b => some (encUR 0x31 2 d a.code b.code)
  | .sempost d a b => some (encUR 0x32 0 d a.code b.code)
  | .semacq d a b => some (encUR 0x32 1 d a.code b.code)
  | .semtry d a b => some (encUR 0x32 2 d a.code b.code)
  | .enq d a b => some (encUR 0x33 0 d a b.code)
  | .enqn d a b => some (encUR 0x33 1 d a b.code)
  | .taskend => some (encUR 0x34 0 0 0 0)
  | .launch d a b => some (encUR 0x35 0 d a b.code)
  | .cancel u =>
      match u with
      | .launch b => some (encUR 0x36 0 0 0 b.code)
      | .graph b => some (encUR 0x36 1 0 0 b.code)
      | .phase b => some (encUR 0x36 2 0 0 b.code)
      | .job => some (encUR 0x36 3 0 0 0)
  | .cntrd d u =>
      match u with
      | .launch b => some (encUR 0x37 0 d 0 b.code)
      | .graph b => some (encUR 0x37 1 d 0 b.code)
      | .phase b => some (encUR 0x37 2 d 0 b.code)
      | .job => some (encUR 0x37 3 d 0 0)
  | .setpri d a b => some (encUR 0x38 0 d a.code b.code)
  | .chimemark d a => some (encUR 0x3C 0 d a.code 0)
  | .chimechk d a => some (encUR 0x3D 0 d a 0)
  | .ctxq d q => some (encUR 0x3E q d 0 0)
  | _ => none

/-- The words of a well-formed instruction: the instruction word, then its literal word if it has one (R41). -/
def encode (i : Instr) : List Word :=
  match encodeWord i with
  | some w => BitVec.ofNat 32 w :: i.literal.toList
  | none => []

end Sys2Proof
end

