-- ==== Sys2Proof/Machine/State.lean ====
section
/-!
DEFINITION. Sys2Proof/Machine/State.lean: everything the spec gives one PLT-LG4-A package, as plain data, and the
machine right after a cold reset. Names follow the spec's registers and fields; each field cites the rule that names it.
-/

namespace Sys2Proof.Machine

/-! ## Reasons to stop -/

/-- Faults of the machine itself. -/
inductive Fault where
  /-- Raised by `step` when the wave that issues has no frame at its fragment's depth. Every fragment has its frame (R16,
  R133), so no reachable state raises it. Safe: the model stops. -/
  | frameNotResident
deriving DecidableEq, Repr

/-- Refusals. -/
inductive Refusal where
  /-- No meaning has been written for the operation. Raised by no arm of a finished model. Safe: the model stops. -/
  | notModelled (mnemonic : String)
  /-- A device event is asked for in a state in which the spec says it does not happen (its condition does not
  hold). Raised by the meanings of events only; `step` never makes such an event happen. Safe: nothing happens. -/
  | notEnabled (mnemonic : String)
deriving DecidableEq, Repr

/-! ## Memories -/

/-- Bytes by address, strictly rising, no byte equal to the default (an unlisted address reads as the default). -/
abbrev Cells := List Host.Cell

/-- A register as a scoreboard names it: a vector register of the frame with the given key, an argument register, a
scalar register (56 and 57 are the issuing slot's mask). -/
inductive RegName where
  | v (frame n : Nat)
  | a (n : Nat)
  | s (n : Nat)
deriving DecidableEq, Repr

/-! ## A wave (R10 to R24, R119) -/

/-- A reconvergence-stack entry (R119). -/
structure StkEntry where
  jpc      : Word
  token    : BitVec 8
  fdepth   : Nat
  outer    : Dword
  expect   : Dword
  arrived  : Dword
  resume   : Dword
  deferred : Dword
  dpc      : Word
deriving DecidableEq, Repr

/-- The top-split record (R119); `pending` is its PENDING bit. -/
structure TopSplit where
  pending : Bool
  jpc     : Word
  token   : BitVec 8
  outer   : Dword
  expect  : Dword
  arrived : Dword
  resume  : Dword
  hbase   : Nat
  sdepth  : Nat
deriving DecidableEq, Repr

/-- No top split (R36). -/
def TopSplit.off : TopSplit := ⟨false, 0, 0, 0, 0, 0, 0, 0, 0⟩

/-- An open lookahead window: instructions still covered, and the pending result (R52, R53). -/
structure Window where
  left : Nat
  regs : List RegName
deriving DecidableEq, Repr

/-- A request in the frame queue: a CALL's demand with its target and return word, or a restore of spilled frames
(R322, R323, R324). -/
inductive FrameReq where
  | call (demand : Nat) (target ret : Word)
  | restore
deriving DecidableEq, Repr

/-- Why a fragment is parked (R128), with what the wait needs. -/
inductive Park where
  | no
  | topJoin
  | frame (r : FrameReq)
  | count (c : Cls) (n : Nat) (retry : Bool)
  | barrier (addr : Nat) (gen : BitVec 4) (sd : SReg)
  | sem (core k n : Nat) (sd : SReg)
  | waitaddr (addr : Dword) (cond : WCond) (scope : Scope) (cmp : Word) (sd : SReg) (sel : BitVec 16) (last : Word)
  | sleep (till : Nat)
  | halt
deriving DecidableEq, Repr

/-- PARK codes of R293. -/
def Park.code : Park → Nat
  | .no => 0
  | .topJoin => 1
  | .frame _ => 2
  | .count _ _ _ => 3
  | .barrier _ _ _ => 4
  | .sem _ _ _ _ => 5
  | .waitaddr _ _ _ _ _ _ _ => 6
  | .sleep _ => 7
  | .halt => 8

/-- What a WAITADDR captured as it issued: address, selector, comparand, and its identifier (R188, R204, R375). -/
structure WaitReq where
  addr : Dword
  sel  : BitVec 16
  cmp  : Word
  id   : Dword
deriving DecidableEq, Repr

/-- What an instruction that has not issued waits for: a full engine, the matrix queue or MSWAP, a pending result, an
engine's reads or writes, a page that is not present, the same page once a FAULT_RESUME has named it; and what a WAITADDR
waits for: its read of a window, and what that read brought (R204, R257, R335). -/
inductive Stall where
  | no
  | engine (c : Cls)
  | matrixQueue
  | result
  | order
  | page (va : Dword)
  | refetch (va : Dword)
  | remote (q : WaitReq)
  | got (q : WaitReq) (code : Nat) (w : Word)
deriving DecidableEq, Repr

/-- A fragment slot (R16, R119). -/
structure Slot where
  valid   : Bool
  pc      : Word
  mask    : Dword
  level   : Dword
  stk     : List StkEntry
  sbase   : Nat
  depth   : Nat
  park    : Park
  windows : List Window
  stall   : Stall
  /-- device time and identifier of the wait in course (R386) -/
  since   : Nat
  waitId  : Dword
  /-- instructions issued since the last LDRES (R182) -/
  resAge  : Nat
  /-- where a fragment parked at its own word goes on when the park ends (R205, R204, R237, R243) -/
  after   : Word
  /-- a BARARW at this word has arrived in this generation and issues again as a BARWAIT on it (R241) -/
  rewait  : Option (Word × Nat)
deriving DecidableEq, Repr

/-- An invalid slot. -/
def Slot.off : Slot := ⟨false, 0, 0, 0, [], 0, 0, .no, [], .no, 0, 0, 0, 0, none⟩

/-- A frame record (R133) and its registers, 8 for each block. `pool`: its blocks in the pool or, while it is `spilled`, in the
context's spill area. -/
structure Frame where
  ret     : Word
  blocks  : Nat
  pool    : List Nat
  spilled : Bool
  regs    : List Lanes
deriving DecidableEq, Repr

/-- A trap with the fields of its record (R283, R284): one that waits for its fragment (R190, R276), or one that holds
its group (R281). -/
structure DelTrap where
  code   : Nat
  slot   : Nat
  pc     : Word
  causal : Dword
  kind   : Nat
  addr   : Dword
  maskA  : Dword
  maskB  : Dword
  info   : Nat
  precise : Bool
  /-- words of the trapping instruction, for SKIP (R282) -/
  words  : Nat
  /-- the record's bits [511:256] when KIND is 4 (R284) -/
  digest : Nat
  /-- the record has been written: the trap arose while its group was stopped (R290) -/
  recorded : Bool
  /-- device time at which the fault was found (R283) -/
  time   : Nat
deriving DecidableEq, Repr

/-- Where a wave stands in its life. -/
inductive Life where
  | waiting | running | stopped | done
deriving DecidableEq, Repr

/-- A wave (R10, R36). -/
structure Wave where
  name    : Nat
  group   : Nat
  core    : Nat
  index   : Nat
  wslot   : Nat
  life    : Life
  slot0   : Slot
  slot1   : Slot
  top     : TopSplit
  live    : Dword
  tokctr  : BitVec 8
  cur     : Nat
  ftimer  : Nat
  sregs   : Vector Word 56
  aregs   : Vector Lanes 7
  frames  : AMap Frame
  mark    : Nat
  ecnt    : Vector Nat 5
  flags   : BitVec 6
  window  : BitVec 16
  /-- a FENCE with a release part has issued: later writes carry a release (R270) -/
  fenced  : Option Scope
  draws   : Lanes
  cycleHi : Option Word
  timeHi  : Option Word
  resv    : Vector (Option Nat) 64
  halted  : Bool
  traps   : List DelTrap
  /-- identifier of the last CALL (R377, 0x0104) -/
  lastCall : Dword
  /-- one more than the cycle in which it issued last (R320) -/
  issueAt : Nat
  /-- all its blocks lie in the spill area, or are on the way there (R323) -/
  evicted : Bool
deriving DecidableEq, Repr

/-! ## A group -/

/-- A peal table entry (R74). -/
structure PealDecl where
  peal    : Nat
  ringers : Nat
  timer   : Nat
deriving DecidableEq, Repr

/-- The standing of a group. -/
inductive GState where
  | running | ending | cancelled
  /-- draining: REASON of R292, code and PC-holder of a held trap, whether the image gets room (R291) -/
  | draining (reason code : Nat) (room : Bool)
  | heldInPlace (code : Nat)
  | saved
deriving DecidableEq, Repr

/-- What is known of a barrier's generation (R239): the waves of the group that have arrived, whether the cluster's unit tracks
it, and whether the straggler watch has begun to time it (R390). -/
structure Track where
  addr    : Nat
  arrived : List Nat
  tracked : Bool
  watched : Bool
deriving DecidableEq, Repr

/-- A running straggler-watch timer (R390): kind 1 a barrier's generation (subject its address and the group that holds it),
4 a frame wait (subject the wave and slot). `parent`: what began it (R375). -/
structure Watch where
  kind    : Nat
  subject : Nat
  sub2    : Nat
  ctx     : Nat
  till    : Nat
  causal  : Dword
  parent  : Dword
  expired : Bool
  late    : List Nat
  /-- late engine operations -/
  lateOps : List Nat
  /-- kind 1: the timed generation is over, and the watch stands only for what it named late -/
  isOver  : Bool := false
deriving DecidableEq, Repr

/-- A group (R10, R73, R245, R249, R292). -/
structure Group where
  name      : Nat
  gid       : Word
  lid       : Word
  ctx       : Nat
  part      : Nat
  run       : Nat
  launch    : Nat
  node      : Nat
  index     : Nat
  waves     : Nat
  cluster   : Bool
  matrix    : Bool
  ordered   : Bool
  semCount  : Nat
  semBase   : Nat
  blocks    : Nat
  entry     : Word
  spadBase  : Nat
  spadSize  : Nat
  core0     : Nat
  peals     : List PealDecl
  seed      : Dword
  recAddr   : Dword
  recLen    : Nat
  digest    : Dword
  chime     : Option Word
  /-- the identifier of the CHIMEMARK that set the index (R377; log 81) -/
  chimeId   : Dword
  state     : GState
  start     : Dword
  /-- the CAUSAL of the group's first record: the parent of its start (R248, R375) -/
  parent    : Dword
  order     : Nat
  current   : AMap Nat
  /-- the traps that hold the group, with the logical index of the wave -/
  trapped   : List (Nat × DelTrap)
  /-- the cycle in which a held trap began the drain: waves of the group that issue in that cycle too take their own trap
  (R278) -/
  heldAt    : Option Nat
  /-- delivered traps of a saved group's waves, still to be taken (R290) -/
  pending   : List (Nat × DelTrap)
  /-- BARARWs of a saved group that have arrived: wave, slot, word and generation (R241) -/
  rewaits   : List (Nat × Nat × Word × Nat)
  /-- copies of a saved group that have not read their record: identifier and record address (log 84) -/
  unread    : List (Dword × Dword)
  /-- address and length of the image, and the peals enrolled at the save -/
  image     : Dword
  imageLen  : Nat
  enrolled  : List Nat
  /-- frame blocks of each wave in the image, and SKIP of the GROUP_RESUME that resumes it (R282) -/
  saved     : List Nat
  resumed   : Option Bool
  /-- the launcher asked for the pre-emption that drains the group (R291, R319) -/
  asked     : Bool
  /-- tracking and watches of a saved group's barriers (R239, R390), an address as 2^20 times the place of its core in the group
  plus the offset, late operations by their identifiers -/
  tracks    : List Track
  watches   : List Watch
deriving DecidableEq, Repr

/-! ## Cores -/

/-- A stream at a chain input (R224, R225). -/
structure Stream where
  fmt    : MFmt
  mask   : Dword
  rows   : List (List Byte)
  scales : List (List Byte)
  causal : Dword
  group  : Nat
  ctx    : Nat
deriving DecidableEq, Repr

/-- A waiting acquirer of a semaphore (R243). -/
structure SemWait where
  wave : Nat
  slot : Nat
  n    : Nat
  sd   : SReg
deriving DecidableEq, Repr

/-- A spill or restore copy in course (R323, R324): whole wave, or named frames of the head's own wave. -/
structure SpillJob where
  wave   : Nat
  frames : List Nat
  back   : Bool
  slot   : Nat
deriving DecidableEq, Repr

/-- A core's own state (R25 to R30, R213). Bytes of the planes and scale stores are cell lists. -/
structure Core where
  sems     : AMap (Nat × List SemWait)
  plane0   : Cells
  plane1   : Cells
  tag0     : BitVec 3
  tag1     : BitVec 3
  scale0   : Cells
  scale1   : Cells
  active   : Bool
  msc      : Vector Word 4
  chainIn  : Option Stream
  queue    : List (Nat × Nat)
  spill    : Option SpillJob
  idleFrom : Option Nat
deriving DecidableEq, Repr

/-- A core after reset (R38, R213). -/
def Core.reset : Core :=
  ⟨[], [], [], 0, 0, [], [], false, #v[0, 0, 0, 0], none, [], none, none⟩

/-! ## Engine operations (R185 to R210, R212 to R227) -/

/-- The captured layout record of a copy (R193). -/
structure Layout where
  src   : Dword
  dst   : Dword
  n0    : Nat
  n1    : Nat
  n2    : Nat
  ss1   : Int
  ss2   : Int
  ds1   : Int
  ds2   : Int
  esize : Nat
  dir   : Nat
  lim0  : Nat
  lim1  : Nat
  fill  : Word
deriving DecidableEq, Repr

/-- A copy (R192 to R200). -/
structure CopyOp where
  recAddr : Dword
  recd    : Option Nat
  bar     : Option Word
  peal    : Option Nat
  /-- the enrolment with which it was issued has ended (R198) -/
  left    : Bool
  nt      : Bool
  low     : Nat
  doneMap : Dword
  /-- elements sent to a window or a host and not yet answered -/
  sent    : List Nat
  /-- elements answered and still to be moved, with the bytes read -/
  got     : AMap (List Byte)
  /-- lines requested through a hold, lines filled with their bytes, lines for ordinary fills -/
  asked   : List Nat
  fills   : AMap (List Byte)
  plain   : List Nat
deriving DecidableEq, Repr

/-- A gather or scatter (R201). -/
structure GatherOp where
  scatter : Bool
  size    : Nat
  nt      : Bool
  ea      : List Dword
  sa      : List Word
  data    : List (List Byte)
  notDone : Dword
  sent    : Dword
  lanes   : Dword
deriving DecidableEq, Repr

/-- A global atomic (R202). `frame`, `reg`: where the old values go. -/
structure GatomOp where
  op      : AtomOp
  ord     : Ord
  scope   : Scope
  ret     : Bool
  w64     : Bool
  ea      : List Dword
  b       : List Dword
  c       : List Dword
  old     : List Dword
  notDone : Dword
  sent    : Dword
  lanes   : Dword
  frame   : Nat
  reg     : VReg
deriving DecidableEq, Repr

/-- A matrix-class operation (R218, R222, R224, R227). -/
structure MatOp where
  kind    : Nat
  frame   : Nat
  vd      : Nat
  fmt     : MFmt
  z       : Bool
  plane   : Bool
  tag     : BitVec 3
  scale   : Word
  shift   : Int
  stride  : Nat
  addr    : Word
  mask    : Dword
  /-- chain role: 0 none, 1 head, 2 follower, 3 follower that forwards -/
  role    : Nat
  begun   : Bool
  stream  : Option Stream
  forward : Bool
deriving DecidableEq, Repr

/-- A collective as this rank holds it (R208 to R210). -/
structure CollOp where
  ck      : CollKind
  recAddr : Dword
  recd    : Option Nat
  bar     : Option Word
  comm    : Nat
  nth     : Nat
  rank    : Nat
  issued  : Bool
  /-- the result is in DST, and the tree raised these flags -/
  wrote   : Option (BitVec 6)
deriving DecidableEq, Repr

/-- A chime check (R302, R303). -/
structure ChimeOp where
  addr   : Dword
  sd     : SReg
  recd   : Option Nat
  rerun  : Bool
  /-- the phase digest has been computed and, in MODE 3, sent -/
  ready  : Bool
  first  : Dword
  own    : Dword
  other  : Dword
  lowest : Word
  status : Nat
deriving DecidableEq, Repr

/-- A GCHUNK (R203). -/
structure ChunkOp where
  addr : Dword
  sd   : SReg
  sent : Bool
  res  : Option (Word × Word)
deriving DecidableEq, Repr

/-- What an operation is. `empty`: no active lane, or nothing to do (R185). -/
inductive OpKind where
  | empty
  | copy (c : CopyOp)
  | gather (g : GatherOp)
  | gatom (g : GatomOp)
  | gchunk (g : ChunkOp)
  | mat (m : MatOp)
  | coll (c : CollOp)
  | chime (c : ChimeOp)
deriving DecidableEq, Repr

/-- Progress of an operation. -/
inductive OpState where
  | going
  | parked (page : Dword)
  | failed (code : Nat) (addr : Dword) (info : Nat)
  | done
deriving DecidableEq, Repr

/-- An engine operation in flight (R185). -/
structure EngineOp where
  name   : Nat
  wave   : Nat
  group  : Nat
  core   : Nat
  slot   : Nat
  pc     : Word
  causal : Dword
  cls    : Cls
  sel    : BitVec 16
  kind   : OpKind
  state  : OpState
  flags  : BitVec 6
  since  : Nat
  /-- the leader lane of a copy, as a mask (R192) -/
  lead   : Dword
  /-- the page of its last 0x0701 record: a retry that parks there again writes none (R286) -/
  last   : Option Dword
  /-- it was issued after a FENCE with a release part (R270) -/
  fenced : Option Scope
deriving DecidableEq, Repr

/-! ## Peals, tracking and watches -/

/-- An enrolment of a core in a peal by a group (R196). -/
structure Enrol where
  ctx   : Nat
  peal  : Nat
  core  : Nat
  group : Nat
deriving DecidableEq, Repr

/-- A request that a hold has: the core, the operation and its line (R341). -/
structure Asked where
  core : Nat
  op   : Nat
deriving DecidableEq, Repr

/-- A peal hold entry (R199, R341). -/
structure Hold where
  name   : Nat
  ctx    : Nat
  peal   : Nat
  line   : Nat
  slice  : Nat
  expect : List Nat
  asked  : List Asked
  opened : Nat
  till   : Nat
  causal : Dword
  first  : Dword
deriving DecidableEq, Repr

/-- A late record of a hold that completed by its timer (R199). -/
structure Late where
  ctx    : Nat
  peal   : Nat
  line   : Nat
  slice  : Nat
  cores  : List Nat
  till   : Nat
  causal : Dword
deriving DecidableEq, Repr

/-- A multicast fill that has not reached all its copies (R356): a residual entry of the router and data plane `place`, or,
while `whole`, a flit that waits in its multicast buffer there and has forked nothing. The line and its data, and the
copies still to be served. -/
structure Residual where
  name  : Nat
  part  : Nat
  place : Nat
  whole : Bool
  line  : Nat
  data  : List Byte
  ops   : List Nat
deriving DecidableEq, Repr

/-! ## The launcher (R245 to R256, R306 to R319) -/

/-- A ring as the launcher sees it (R307, R308): control block address, HEAD, and the entry to be acted on. -/
structure Ring where
  block : Dword
  head  : Word
  ready : Option Instr
  /-- the TAIL that the launcher read last, and what it took it as (R307; log 85) -/
  seen  : Word
  tail  : Word
deriving DecidableEq, Repr

/-- A launcher queue (R312 to R319). -/
structure LQueue where
  prio      : Nat
  eff       : Nat
  readyFrom : Option Nat
  passFrom  : Option Nat
  reserving : Option Nat
  launches  : List Nat
deriving DecidableEq, Repr

/-- A context (R306) with its settings and counts. -/
structure Ctx where
  id        : Nat
  part      : Nat
  control   : Bool
  queueTab  : Dword
  saveBase  : Dword
  saveKib   : Nat
  spillBase : Dword
  spillBlks : Nat
  fqBase    : Dword
  ptRoot    : Dword
  catchMask : BitVec 7
  prioCap   : Nat
  promise   : Bool
  fairness  : Nat
  queues    : BitVec 16
  rings     : AMap Ring
  lq        : AMap LQueue
  nextRun   : Word
  phase     : Word
  logBase   : Dword
  logLen    : Nat
  cmdMax    : Nat
  cmdCount  : Nat
  /-- the run and the queue of each command in the slots (the model's own) -/
  cmdQueues : List (Nat × Nat)
  /-- a serial re-execution: the chime check and the next command slot (R303) -/
  replay    : Option (Nat × Nat)
  replayLost : Bool
  serial    : Bool
  stopped   : Bool
  saveUsed  : List (Nat × Nat)
  noVictim  : Bool
  watchBar  : Word
  watchFrm  : Word
  watchColl : Word
  notify    : Option (Dword × Nat × Nat)
  notified  : Nat
  consumed  : Nat
  ending    : Bool
deriving DecidableEq, Repr

/-- The launcher's copy of a node record and its bin table entry (R246, R310). -/
structure NodeCopy where
  kernel   : Dword
  kind     : Nat
  tail     : Bool
  ordered  : Bool
  prio     : Nat
  plen     : Nat
  coalesce : Nat
  fanout   : Nat
  timer    : Nat
  seed     : Dword
  base     : Dword
  slots    : Nat
  good     : Bool
deriving DecidableEq, Repr

/-- A batch of records of one stretch (R247). -/
structure Batch where
  first  : Nat
  count  : Nat
  closed : Bool
  opened : Nat
  launch : Option Nat
  /-- LEN + 1 and CAUSAL of its first record (R248) -/
  len    : Nat
  causal : Dword
  /-- the identifiers of its records, and the parents of those: what placed them (R375) -/
  placed : List (Dword × Dword)
deriving DecidableEq, Repr

/-- A bin (R247, R256). -/
structure Bin where
  copy    : Option NodeCopy
  next    : Nat
  batches : List Batch
  /-- a fault has frozen the bin: the identifier and position of its record, and its time -/
  frozen  : Option (Dword × Nat × Nat)
deriving DecidableEq, Repr

/-- A graph run (R310, R311). -/
structure Run where
  name     : Nat
  number   : Word
  ctx      : Nat
  queue    : Nat
  phase    : Word
  graph    : Dword
  nodeTab  : Dword
  binTab   : Dword
  nodes    : Nat
  cmd      : LaunchCmd
  causal   : Dword
  bins     : AMap Bin
  formed   : Nat
  nextGid  : Word
  order    : Nat
  /-- the launcher has consumed the command (R251) -/
  placed   : Bool
  /-- ring position and SEQ bits of the command (R308, R311) -/
  pos      : Nat
  seq      : Nat
  serial   : Bool
  /-- the parent of `causal`: the group start of a LAUNCH, 0 for a ring entry (R375) -/
  parent   : Dword
deriving DecidableEq, Repr

/-- A launch: its ids, what it still has to start, and the groups that run (R311 to R313). -/
structure Launch where
  name    : Nat
  lid     : Word
  run     : Nat
  ctx     : Nat
  queue   : Nat
  node    : Nat
  batch   : Nat
  gbase   : Word
  groups  : Nat
  started : Nat
  live    : Nat
  tail    : Bool
  held    : Bool
  restore : List Nat
deriving DecidableEq, Repr

/-! ## The memory system (R329 to R351) -/

/-- Leaf bits that a line or a TLB entry keeps (R333, R337). -/
structure Leaf where
  rd    : Bool
  wr    : Bool
  ex    : Bool
  tol   : Bool
  nt    : Bool
  subst : BitVec 3
deriving DecidableEq, Repr

/-- An L2 line (R337): key {context, VA[52:7]}, home die and slice, bytes, state and lease record. `phys` is the
physical line it was filled from (the model's own: table walks see dirty lines through it, log 16). `upset`: its entry
holds an SRAM error that the code does not correct (R347). The compression encoding of R338 is a function of the bytes. -/
structure L2Line where
  ctx    : Nat
  line   : Nat
  die    : Nat
  slice  : Nat
  phys   : Nat
  data   : List Byte
  dirty  : Bool
  poison : Bool
  leaf   : Leaf
  rts    : Nat
  upset  : Bool
deriving DecidableEq, Repr

/-- A remote-data line (R342), in its slice of the die's cache (R330). -/
structure RLine where
  die   : Nat
  slice : Nat
  home  : Nat
  ctx   : Nat
  line  : Nat
  data  : List Byte
  poison : Bool
  leaf  : Leaf
  till  : Nat
deriving DecidableEq, Repr

/-- A cached translation (R336): the leaf entry (level 1, or a large page) or a table entry of level 2 to 4, kept by
channel or channel-group stop. -/
structure Tlb where
  place : Nat
  ctx   : Nat
  level : Nat
  vpn   : Nat
  entry : Dword
deriving DecidableEq, Repr

/-- What is wrong with a physical line (R347): a single-symbol error of a line that lies in the given channel, an uncorrectable
one not met yet, or poison. -/
inductive LineState where
  | soft (chan : Nat)
  | bad | poisoned
deriving DecidableEq, Repr

/-- A physical upset of a memory cell, from outside (R346, R347): an error of an HBM line, of the L2 entry or the copy on a
die of a line of a context, or of a row's activation counter. -/
inductive Upset where
  | hbm (chan phys : Nat) (correctable : Bool)
  | l2 (ctx line : Nat)
  | remote (die ctx line : Nat)
  | counter (chan bank row : Nat)
deriving DecidableEq, Repr

/-- A channel's registers and keys (R343 to R350). -/
structure Chan where
  corr     : Nat
  poisoned : Nat
  subst    : Nat
  parity   : Nat
  thresh   : Nat
  migrating : Bool
  version  : Nat
  boundary : Nat
  acts     : Nat
  confl    : Nat
  actMax   : Nat
  openRows : AMap Nat
deriving DecidableEq, Repr

/-- A channel after a cold reset (R348, R349). -/
def Chan.reset : Chan := ⟨0, 0, 0, 0, 3, false, 0, 0, 0, 0, 4096, []⟩

/-- A DRAM layer of a stack: last sample, refresh interval code and thermal hold (R345, R349). -/
structure Layer where
  deg      : Int
  interval : Nat
  hold     : Bool
deriving DecidableEq, Repr

/-- A layer after reset. -/
def Layer.reset : Layer := ⟨0, 1, false⟩

/-- A notice under way to a die (R342). -/
structure Notice where
  home : Nat
  die  : Nat
  time : Nat
  till : Nat
deriving DecidableEq, Repr

/-- A die's lease state (R342, R351). -/
structure Die where
  lt      : Nat
  view    : Vector Nat 4
  snap    : Vector Nat 4
  erts    : Nat
  lease   : Nat
  holdOvf : Nat
  ltHi    : Word
  /-- device time of the die's last snapshot of its own (R342) -/
  snapAt  : Nat
deriving DecidableEq, Repr

/-- A die after reset. -/
def Die.reset : Die := ⟨0, #v[0, 0, 0, 0], #v[0, 0, 0, 0], 0, 16, 0, 0, 0⟩

/-- A translation invalidation under way (R336). -/
structure Inval where
  name : Nat
  src  : CtlSrc
  ctx  : Nat
deriving DecidableEq, Repr

/-! ## The fabric and the hosts (R359 to R372) -/

/-- A source window table entry (R360). -/
structure WinEntry where
  pages  : Nat
  base   : Nat
  device : Nat
  tctx   : Nat
  tpart  : Nat
  gen    : Nat
  at_    : Bool
  wr     : Bool
  rd     : Bool
  v      : Bool
deriving DecidableEq, Repr

/-- An inbound window at this package as the target (R360, R367). -/
structure Inbound where
  ctx    : Nat
  dev    : Nat
  sctx   : Nat
  sel    : Nat
  gen    : Nat
  isOpen : Bool
  retiring : Option CtlSrc
  /-- a WINDOW_RETIRE waits for the retirement to complete -/
  awaited : Bool
deriving DecidableEq, Repr

/-- A report that this package owes a target once nothing sent under a retired generation is unanswered (R367). -/
structure Owed where
  dev : Nat
  ctx : Nat
  sel : Nat
  gen : Nat
deriving DecidableEq, Repr

/-- Packets this package sends, by KIND (R362). A sequencer packet carries its message beside the header (log 80). -/
inductive PKind where
  | write | readReq | readResp | atomReq | atomResp | ack | retireNack | errorNack
  | seq (m : SeqMsg)
deriving DecidableEq, Repr

/-- A request sent and not answered (R366), with the operation and the element or lane it belongs to. -/
structure Unacked where
  name : Nat
  op   : Nat
  elem : Nat
  kind : PKind
  pkt  : Packet
  port : Nat
  sent : Nat
  outs : Nat
deriving DecidableEq, Repr

/-- A performed request that may be repeated, with its answer (R366). -/
structure Performed where
  src    : Nat
  causal : Dword
  tag    : Nat
  answer : PKind
  reply  : Packet
  time   : Nat
deriving DecidableEq, Repr

/-- A host window table entry (R370). -/
structure HostWin where
  va   : Dword
  rkey : Word
  size : Nat
  qp   : Nat
  at_  : Bool
  wr   : Bool
  rd   : Bool
  v    : Bool
deriving DecidableEq, Repr

/-- A queue pair's state (R370, R398). -/
inductive QpState where
  | reset | ready | error
deriving DecidableEq, Repr

/-- A RoCEv2 queue pair with its attributes (R398). -/
structure Qp where
  state    : QpState
  ctx      : Nat
  control  : Bool
  imm      : Dword
  check    : Nat
  gid      : BitVec 128
  qpn      : Nat
  sqPsn    : Nat
  rqPsn    : Nat
  tclass   : Nat
  maxRd    : Nat
  timeout  : Nat
  rnrTimer : Nat
  retry    : Nat
  rnrRetry : Nat
  mtu      : Nat
  port     : Nat
  retries  : Nat
  rnrs     : Nat
  /-- the end of a receiver-not-ready wait -/
  rnrTill  : Option Nat
deriving DecidableEq, Repr

/-- What an RDMA operation of the device is for. -/
inductive HostUse where
  | op (name elem : Nat) (addr : Dword)
  | notification (ctx : Nat)
  | consumed (ctx : Nat)
deriving DecidableEq, Repr

/-- An RDMA operation of the device that the host has not answered (R370, R371). Kind 0 write, 1 read, 2 fetch-add,
3 write with immediate. `out`: it has been posted; reads and atomics above MAX_RD wait with what follows them. -/
structure HostOp where
  name : Nat
  use  : HostUse
  qp   : QpRef
  kind : Nat
  va   : Dword
  rkey : Word
  len  : Nat
  data : List Byte
  imm  : Word
  sent : Nat
  out  : Bool
deriving DecidableEq, Repr

/-- A communicator (R209): its ranks as (package, context). -/
structure Comm where
  part  : Nat
  ranks : List (Nat × Nat)
  /-- the next operation's ordinal at each local rank -/
  nth   : AMap Nat
  /-- digests received from the replica (R303) -/
  said  : List SeqMsg
deriving DecidableEq, Repr

/-- A collective at this package's sequencer (R209, R210). -/
structure Coll where
  name   : Nat
  comm   : Nat
  nth    : Nat
  issues : List RankIssue
  /-- code and INFO of the fault with which every rank completes -/
  abort  : Option (Nat × Nat)
  /-- the deadline, which the first rank's sequencer keeps for all, and that rank's operation -/
  till   : Option Nat
  subject : Dword
  /-- ranks whose result is in DST (log 80) -/
  wrote  : List Nat
deriving DecidableEq, Repr

/-- A fabric port's block (R368) with its replay state (R364): the beat that failed last and its failed replays, what the port
keeps for replay and the number of the beat that it sends next, and the beat that the far end asked for last with its failed
replays. -/
structure Port where
  crc      : Nat
  drops    : Nat
  retrains : Nat
  state    : BitVec 2
  peerDev  : Nat
  peerPort : Nat
  beat     : Option Nat
  failed   : Nat
  replay   : List (PKind × Packet)
  next     : Nat
  asked    : Option Nat
  repeats  : Nat
deriving DecidableEq, Repr

/-- A port after reset (R368): down. -/
def Port.reset : Port := ⟨0, 0, 0, 0, 0, 0, none, 0, [], 0, none, 0⟩

/-! ## Partitions, energy, trust (R392 to R414) -/

/-- Energy of a bucket in µJ by category (R409 to R411). -/
structure Energy where
  core   : Nat
  hbm    : Nat
  fabric : Nat
  shared : Nat
  start  : Nat
deriving DecidableEq, Repr

/-- No energy yet. -/
def Energy.zero : Energy := ⟨0, 0, 0, 0, 0⟩

/-- A partition (R392, R393). -/
structure Part where
  ctrlCtx  : Nat
  clusters : BitVec 128
  units    : List (Nat × Nat)
  elog     : Dword
  elog2    : Nat
  qpMax    : Nat
  mesh     : Nat
  hbmShare : Nat
  fabShare : Nat
  pmr      : List Byte
  seq      : Nat
  energy   : Energy
  /-- step of a reset under way (R402) and its command; `destroy` for PART_DESTROY -/
  resetting : Option (Nat × CtlSrc × Bool)
  rr       : AMap (Nat × Nat)
deriving DecidableEq, Repr

/-- The configuration record's fields in force (R404). -/
structure ConfigRec where
  mgmtPeer   : BitVec 128
  ports      : BitVec 128
  powerLimit : Nat
  device     : Nat
  policy     : Nat
  featureOff : BitVec 7
  minSvn     : Nat
  recordSvn  : Nat
deriving DecidableEq, Repr

/-- What the package is doing (R405, R406, R414). -/
inductive PkgState where
  | running | loader | stopped
deriving DecidableEq, Repr

/-- The ROM loader's status word (R406). -/
inductive LoaderStatus where
  | idle | verifying | refused | written
deriving DecidableEq, Repr

/-- The hub's own state (R383, R384, R404 to R414). -/
structure Hub where
  pkg       : PkgState
  config    : ConfigRec
  flash     : Cells
  staging   : Cells
  loader    : LoaderStatus
  loaderConn : Bool
  mr0       : List Byte
  mr1       : List Byte
  mr2       : List Byte
  svn       : Nat
  erased    : Bool
  cause     : BitVec 5
  alarms    : Nat
  clock     : Nat
  package   : Nat
  unattrib  : Int
  /-- device time of the last energy interval counted (R411) -/
  counted : Nat
  role      : BitVec 2
  lock      : BitVec 2
  offset    : Int
  goodSyncs : Nat
  everLocked : Bool
  /-- the immediate that the ROM loader acts on (R406) -/
  loadImm : Word
  /-- wave-slot cycles of the energy interval by cluster × 4096 + context, and a warm reset in it (R410, R412) -/
  slotUse : AMap Nat
  resetUse : Bool
deriving DecidableEq, Repr

/-! ## Tabor (R376 to R384) -/

/-- An event record (R376). -/
structure Event where
  payload : Word
  part    : Nat
  unit    : Nat
  type    : Nat
  parent  : Dword
  causal  : Dword
  time    : Nat
deriving DecidableEq, Repr

/-- Tabor: the store (event number n with n mod 2^30 as its place), counts and trigger (R378 to R384). -/
structure Tabor where
  store   : List (Nat × Event)
  count   : Nat
  dropA   : Nat
  dropB   : Nat
  frozen  : Bool
  after   : BitVec 12
  trigger : BitVec 8
  wpHi    : Word
  left    : Option Nat
  cause   : Dword
  causeBit : Nat
  /-- events that each unit has dropped since its last summary, and whether one was of class A (R379) -/
  dropped : AMap (Nat × Bool)
  /-- events that wait at each unit for the trace network, oldest first (R378, R379) -/
  queued : AMap (List Event)
deriving DecidableEq, Repr

/-! ## What the package sends out -/

/-- What leaves the package: fabric packets, retire notices, RDMA operations, answers to host requests, and the sync messages
of a boundary clock (R383). -/
inductive Output where
  | packet (port : Nat) (kind : PKind) (p : Packet)
  | retireNotice (dst ctx sel gen : Nat)
  | retireReport (dst ctx sel gen : Nat)
  | rdma (o : HostOp)
  | answer (q : QpRef) (ack : Bool) (invalid : Bool) (data : List Byte)
  | connection (q : QpRef) (accepted : Bool)
  | replayRequest (port beat : Nat)
  | timeSync (time : Nat)
deriving DecidableEq, Repr

/-- Something the outside does, at a device time (log 3). -/
structure Input where
  at_ : Nat
  ev  : Instr
deriving DecidableEq, Repr

/-! ## The machine -/

/-- The package. `wave` is the wave whose instruction is issued and `grp` its group (the machine's focus); the other
waves and groups are in `waves` and `groups`. -/
structure State where
  wave    : Wave
  grp     : Group
  waves   : AMap Wave
  groups  : AMap Group
  spad    : Cells
  cores   : AMap Core
  ops     : List EngineOp
  enrols  : List Enrol
  holds   : List Hold
  lates   : List Late
  resid   : List Residual
  tracks  : List Track
  watches : List Watch
  /-- WAITADDRs whose line has been written since they were last evaluated: wave and slot (R204) -/
  evals   : List (Nat × Nat)
  ctxs    : AMap Ctx
  runs    : AMap Run
  launches : AMap Launch
  hbm     : Cells
  l2      : List L2Line
  rdc     : List RLine
  tlbs    : List Tlb
  chans   : AMap Chan
  layers  : AMap Layer
  rowCnt  : AMap (Nat × Bool)
  badLines : AMap LineState
  /-- physical upsets to come, with their device times (log 68) -/
  upsets  : List (Nat × Upset)
  /-- an access needs an activate that a held layer does not take (R345); never true between steps (log 69) -/
  heldUp  : Bool
  dies    : Vector Die 4
  notices : List Notice
  invals  : List Inval
  homeKey : Word
  vkeys   : Vector Word 8
  windows : AMap WinEntry
  inbound : List Inbound
  owed    : List Owed
  hostWin : AMap HostWin
  qps     : AMap Qp
  unacked : List Unacked
  performed : List Performed
  hostOps : List HostOp
  routes  : AMap (List Nat)
  ports   : AMap Port
  comms   : AMap Comm
  colls   : List Coll
  parts   : AMap Part
  ctxEnergy : AMap Energy
  hub     : Hub
  tabor   : Tabor
  seqs    : AMap (BitVec 36)
  time    : Nat
  cycles  : BitVec 64
  outbox  : List Output
  inbox   : List Input
  names   : Nat
  oracle  : Nat
deriving DecidableEq, Repr

/-! ## Reset (R36, R38, R348, R349, R351, R360, R368, R381, R384, R392, R408, R412) -/

/-- A wave that is not there: the focus of a package on which nothing runs. -/
def Wave.off : Wave where
  name := 0
  group := 0
  core := 0
  index := 0
  wslot := 0
  life := .done
  slot0 := .off
  slot1 := .off
  top := .off
  live := 0
  tokctr := 0
  cur := 0
  ftimer := 0
  sregs := Vector.replicate 56 0
  aregs := Vector.replicate 7 (Lanes.fill 0)
  frames := []
  mark := 0
  ecnt := #v[0, 0, 0, 0, 0]
  flags := 0
  window := 0
  fenced := Option.none
  draws := Lanes.fill 0
  cycleHi := Option.none
  timeHi := Option.none
  resv := Vector.replicate 64 Option.none
  halted := false
  traps := []
  lastCall := 0
  issueAt := 0
  evicted := false

/-- A group that is not there. -/
def Group.off : Group where
  name := 0
  gid := 0
  lid := 0
  ctx := 0
  part := 0
  run := 0
  launch := 0
  node := 0
  index := 0
  waves := 0
  cluster := false
  matrix := false
  ordered := false
  semCount := 0
  semBase := 0
  blocks := 0
  entry := 0
  spadBase := 0
  spadSize := 0
  core0 := 0
  peals := []
  seed := 0
  recAddr := 0
  recLen := 0
  digest := 0
  chime := Option.none
  chimeId := 0
  state := .cancelled
  start := 0
  parent := 0
  order := 0
  current := []
  trapped := []
  heldAt := none
  pending := []
  rewaits := []
  unread := []
  image := 0
  imageLen := 0
  enrolled := []
  saved := []
  resumed := Option.none
  asked := false
  tracks := []
  watches := []

/-- The default configuration record (R1, R404; the fields the spec does not fix are named in log 7). -/
def ConfigRec.default : ConfigRec where
  mgmtPeer := 0
  ports := BitVec.allOnes 128
  powerLimit := 3600
  device := 0
  policy := 0
  featureOff := 0
  minSvn := 0
  recordSvn := 0

/-- The flash that holds the default record, of which the bytes that are not 0 are listed; its signature and the firmware
image are not given by the spec (log 7). -/
def ConfigRec.flash : Cells :=
  [(0, 0x46), (1, 0x43), (2, 1), (30, 0x10), (31, 0x0E)] ++ (List.range 16).map (fun i => (32 + i, 0xFF#8))

/-- The hub after a cold reset that found the default record (log 7). -/
def Hub.reset : Hub where
  pkg := .running
  config := .default
  flash := ConfigRec.flash
  staging := []
  loader := .idle
  loaderConn := false
  mr0 := List.replicate 64 0
  mr1 := List.replicate 64 0
  mr2 := List.replicate 64 0
  svn := 0
  erased := false
  cause := 0
  alarms := 0
  clock := 70
  package := 0
  unattrib := 0
  counted := 0
  role := 0
  lock := 0
  offset := 0
  goodSyncs := 0
  everLocked := false
  loadImm := 0
  slotUse := []
  resetUse := false

/-- Tabor after a cold reset (R381, R384). -/
def Tabor.reset : Tabor := ⟨[], 0, 0, 0, false, 0, 0, 0, none, 0, 0, [], []⟩

/-- The control context of partition 0, that firmware creates at boot (R392): its ring's control block is the first
64 bytes of its space, and the 2 MiB at address 0 are mapped onto unit 0 of die 0. -/
def Ctx.controlCtx (id part : Nat) (ptRoot ring : Dword) : Ctx where
  id := id
  part := part
  control := true
  queueTab := 0
  saveBase := 0
  saveKib := 0
  spillBase := 0
  spillBlks := 0
  fqBase := 0
  ptRoot := ptRoot
  catchMask := 0
  prioCap := 0
  promise := false
  fairness := 256
  queues := 0
  rings := [(16, ⟨ring, 0, none, 0, 0⟩)]
  lq := []
  nextRun := 1
  phase := 0
  logBase := 0
  logLen := 0
  cmdMax := 0
  cmdCount := 0
  cmdQueues := []
  replay := Option.none
  replayLost := false
  serial := false
  stopped := false
  saveUsed := []
  noVictim := false
  watchBar := 10000
  watchFrm := 1000
  watchColl := 100000
  notify := none
  notified := 0
  consumed := 0
  ending := false

/-- Partition 0 at boot (R392): HBM unit 0 of every die, no clusters, control context 0. -/
def Part.zero : Part where
  ctrlCtx := 0
  clusters := 0
  units := [(0, 1), (0, 1), (0, 1), (0, 1)]
  elog := 0
  elog2 := 0
  qpMax := 255
  mesh := 0
  hbmShare := 0
  fabShare := 0
  pmr := List.replicate 64 0
  seq := 0
  energy := .zero
  resetting := none
  rr := []

/-- The machine right after a cold reset. -/
def State.reset : State where
  wave := .off
  grp := .off
  waves := []
  groups := []
  spad := []
  cores := []
  ops := []
  enrols := []
  holds := []
  lates := []
  resid := []
  tracks := []
  watches := []
  evals := []
  ctxs := [(0, Ctx.controlCtx 0 0 0 0)]
  runs := []
  launches := []
  hbm := []
  l2 := []
  rdc := []
  tlbs := []
  chans := []
  layers := []
  rowCnt := []
  badLines := []
  upsets := []
  heldUp := false
  dies := #v[.reset, .reset, .reset, .reset]
  notices := []
  invals := []
  homeKey := 0
  vkeys := Vector.replicate 8 0
  windows := []
  inbound := []
  owed := []
  hostWin := []
  qps := []
  unacked := []
  performed := []
  hostOps := []
  routes := []
  ports := []
  comms := []
  colls := []
  parts := [(0, Part.zero)]
  ctxEnergy := []
  hub := .reset
  tabor := .reset
  seqs := []
  time := 0
  cycles := 0
  outbox := []
  inbox := []
  names := 1
  oracle := 0

end Sys2Proof.Machine
end

