-- ==== Sys2Proof/Machine/Bits.lean ====
section
/-!
DEFINITION. Sys2Proof/Machine/Bits.lean: finite maps and byte memories in canonical form, byte order (R2), lane masks,
bit fields and the hash `mix` (R90).
-/

namespace Sys2Proof.Machine

/-! ## Finite maps -/

/-- The value at a key. -/
def mget {α : Type} : AMap α → Nat → Option α
  | [], _ => none
  | (k, v) :: m, n => if k = n then some v else mget m n

/-- The value at a key, or a default. -/
def mgetD {α : Type} (m : AMap α) (n : Nat) (d : α) : α := (mget m n).getD d

/-- Set the value at a key, keeping the keys rising. -/
def mset {α : Type} : AMap α → Nat → α → AMap α
  | [], n, x => [(n, x)]
  | (k, v) :: m, n, x =>
      if n < k then (n, x) :: (k, v) :: m else if k = n then (n, x) :: m else (k, v) :: mset m n x

/-- Remove a key. -/
def mdel {α : Type} : AMap α → Nat → AMap α
  | [], _ => []
  | (k, v) :: m, n => if k = n then m else (k, v) :: mdel m n

/-- Change the value at a key that is there. -/
def mmod {α : Type} : AMap α → Nat → (α → α) → AMap α
  | [], _, _ => []
  | (k, v) :: m, n, f => if k = n then (k, f v) :: m else (k, v) :: mmod m n f

/-! ## Byte memories -/

/-- The byte at an address; `d` is what an unlisted address reads as. -/
def cget (d : Byte) : Cells → Nat → Byte
  | [], _ => d
  | (k, v) :: m, n => if k = n then v else if n < k then d else cget d m n

/-- Write a byte: the list stays rising and holds no default byte. -/
def cset (d : Byte) : Cells → Nat → Byte → Cells
  | [], n, x => if x = d then [] else [(n, x)]
  | (k, v) :: m, n, x =>
      if n < k then (if x = d then (k, v) :: m else (n, x) :: (k, v) :: m)
      else if k = n then (if x = d then m else (n, x) :: m)
      else (k, v) :: cset d m n x

/-- Bytes at consecutive addresses. -/
def cread (d : Byte) (m : Cells) (a : Nat) : Nat → List Byte
  | 0 => []
  | n + 1 => cget d m a :: cread d m (a + 1) n

/-- Write consecutive bytes. -/
def cwrite (d : Byte) (m : Cells) (a : Nat) : List Byte → Cells
  | [] => m
  | b :: bs => cwrite d (cset d m a b) (a + 1) bs

/-- Return the bytes of [lo, hi) to the default. -/
def cclear (m : Cells) (lo hi : Nat) : Cells := m.filter (fun p => decide (p.1 < lo) || decide (hi ≤ p.1))

/-- The canonical form: keys strictly rising and above `lo`, no default byte. -/
def cwfFrom (d : Byte) (lo : Nat) : Cells → Bool
  | [] => true
  | (k, v) :: m => decide (lo ≤ k) && v != d && cwfFrom d (k + 1) m

/-- The canonical form of a byte memory whose unlisted bytes read as `d`. -/
def cwf (d : Byte) (m : Cells) : Bool := cwfFrom d 0 m

/-- The canonical form of the scratchpads' and of HBM's bytes: an unlisted byte reads 0 (R25, R38, R348). -/
def Memory.wf (m : Cells) : Bool := cwf 0 m

/-- The keys of a map rise strictly from `lo`. -/
def mwfFrom {α : Type} (lo : Nat) : AMap α → Bool
  | [] => true
  | (k, _) :: m => decide (lo ≤ k) && mwfFrom (k + 1) m

/-- The canonical form of a map. -/
def mwf {α : Type} (m : AMap α) : Bool := mwfFrom 0 m

/-! ## Byte order (R2) -/

/-- The little-endian value of bytes. -/
def leNat : List Byte → Nat
  | [] => 0
  | b :: bs => b.toNat + 256 * leNat bs

/-- n little-endian bytes of a value. -/
def leBytes : Nat → Nat → List Byte
  | 0, _ => []
  | n + 1, x => BitVec.ofNat 8 x :: leBytes n (x / 256)

/-- The 32-bit word that bytes hold. -/
def leWord (b : List Byte) : Word := BitVec.ofNat 32 (leNat b)

/-- The 64-bit value that bytes hold. -/
def leDword (b : List Byte) : Dword := BitVec.ofNat 64 (leNat b)

/-- Bits [hi:lo] of a natural number. -/
def bits (x hi lo : Nat) : Nat := x / 2 ^ lo % 2 ^ (hi + 1 - lo)

/-- A two's complement field of w bits as an integer. -/
def sint (w x : Nat) : Int := if x < 2 ^ (w - 1) then (x : Int) else (x : Int) - 2 ^ w

/-- An integer modulo 2^w. -/
def uint (w : Nat) (x : Int) : Nat := (x % (2 ^ w : Int)).toNat

/-! ## Lane masks -/

/-- Lane i of a mask. -/
def bit (m : Dword) (i : Nat) : Bool := m.getLsbD i

/-- Every lane. -/
def allLanes : Dword := BitVec.allOnes 64

/-- The mask of one lane. -/
def laneBit (i : Nat) : Dword := 1#64 <<< i

/-- The active lanes in increasing order. -/
def lanesOf (m : Dword) : List Nat := (List.range 64).filter (fun i => bit m i)

/-- The number of active lanes. -/
def popcount (m : Dword) : Nat := (lanesOf m).length

/-- The lowest active lane. -/
def lowest (m : Dword) : Option Nat := (lanesOf m).head?

/-- The mask of the lanes that satisfy a test. -/
def maskOf (f : Nat → Bool) : Dword :=
  (List.range 64).foldl (fun m i => if f i then m ||| laneBit i else m) 0

/-- The element of a lane. -/
def lane (v : Lanes) (i : Nat) : Word := v.toArray.getD i 0

/-- A vector from its elements. -/
def lanesFn (f : Nat → Word) : Lanes := Vector.ofFn (fun i : Fin 64 => f i.val)

/-- Lanes as bytes, in lane order. -/
def lanesBytes (v : Lanes) : List Byte := v.toList.flatMap (fun w => leBytes 4 w.toNat)

/-- New elements in the active lanes, old ones elsewhere (R144). -/
def merge (m : Dword) (new old : Lanes) : Lanes := lanesFn (fun i => if bit m i then lane new i else lane old i)

/-- The pair value of two words, low word first (R45). -/
def pairOf (lo hi : Word) : Dword := hi ++ lo

/-- The low word of a pair. -/
def loWord (x : Dword) : Word := x.extractLsb' 0 32
/-- The high word of a pair. -/
def hiWord (x : Dword) : Word := x.extractLsb' 32 32

/-! ## The hash of R90 -/

/-- `mix` of R90. -/
def mix (h : Word) : Word :=
  let h := h ^^^ (h >>> 16)
  let h := h * 0x7FEB352D#32
  let h := h ^^^ (h >>> 15)
  let h := h * 0x846CA68B#32
  h ^^^ (h >>> 16)

/-- Apply a function to every element of a vector. -/
def vmap {α β : Type} {n : Nat} (f : α → β) (v : Vector α n) : Vector β n := Vector.ofFn (fun i => f (v.get i))

/-- Replace the elements of a list that satisfy a test. -/
def lmod {α : Type} (p : α → Bool) (f : α → α) (l : List α) : List α := l.map (fun x => if p x then f x else x)

/-- Insert a value at a place of a list of naturals kept rising, without repeats. -/
def insertNat (n : Nat) : List Nat → List Nat
  | [] => [n]
  | x :: xs => if n < x then n :: x :: xs else if n = x then x :: xs else x :: insertNat n xs

end Sys2Proof.Machine
end

