-- ==== Sys2Proof/Machine/Tabor.lean ====
section
/-!
DEFINITION. Sys2Proof/Machine/Tabor.lean: causal identifiers (R373 to R375) and the event store (R376 to R380).
-/

namespace Sys2Proof.Machine

/-! ## Units (R374) -/

/-- The issue stage (0), copy engine (1), gather and atomic engine (2) or matrix engine (3) of a core, by its s61
coordinates. -/
def unitCore (core k : Nat) : Nat := core * 4 + k
/-- A unit of a compute die. -/
def unitDie (die k : Nat) : Nat := 0x800 + die * 256 + k
/-- A unit of the hub. -/
def unitHub (k : Nat) : Nat := 0xC00 + k
/-- The launcher. -/
def unitLauncher : Nat := unitHub 0
/-- The fabric sequencer. -/
def unitSequencer : Nat := unitHub 1
/-- The management core. -/
def unitManagement : Nat := unitHub 2
/-- Tabor itself. -/
def unitTabor : Nat := unitHub 9
/-- The time base. -/
def unitTime : Nat := unitHub 0xA

/-- The compute die of a core (R14). -/
def dieOf (core : Nat) : Nat := core / 128

/-! ## Causal identifiers (R373) -/

/-- The identifier that a unit assigns next; SEQ starts at 1 and wraps to 1. -/
def nextSeq (n : BitVec 36) : BitVec 36 := if n = BitVec.allOnes 36 then 1 else n + 1

/-- The identifier with the given fields. -/
def causalOf (device unit : Nat) (n : BitVec 36) : Dword :=
  BitVec.ofNat 64 (device % 2 ^ 16 * 2 ^ 48 + unit % 2 ^ 12 * 2 ^ 36 + n.toNat)

/-- The identifier that the unit assigns next. -/
def State.nextId (s : State) (unit : Nat) : Dword :=
  causalOf s.hub.config.device unit (mgetD s.seqs unit 1)

/-- Count one identifier as assigned. -/
def State.bumpId (s : State) (unit : Nat) : State :=
  { s with seqs := mset s.seqs unit (nextSeq (mgetD s.seqs unit 1)) }

/-- The start identifier of a group. -/
def State.startOf (s : State) (g : Nat) : Dword :=
  if g = 0 then 0 else if s.grp.name = g then s.grp.start else ((mget s.groups g).map Group.start).getD 0

/-- The identifier belongs to a wave's wait or to its last CALL. -/
def Wave.gave (w : Wave) (id : Dword) : Bool := w.slot0.waitId == id || w.slot1.waitId == id || w.lastCall == id

/-- The parent of a record's identifier, or of a run's command (R311, R375). -/
def Run.parentOf (r : Run) (id : Dword) : Option Dword :=
  if r.causal = id then some r.parent
  else ((r.bins.flatMap (fun b => b.2.batches.flatMap Batch.placed)).find? (fun p => p.1 == id)).map Prod.snd

/-- The parent of an identifier that the machine still knows (R375): the group's start for an operation, a wait or a CALL, the
CAUSAL of the first record for a group's start, what placed it for a record; 0 for none. -/
def State.parentOf (s : State) (id : Dword) : Dword :=
  if id = 0 then 0
  else
    match s.ops.find? (fun o => o.causal == id) with
    | some o => s.startOf o.group
    | none =>
        match (s.grp :: s.groups.map Prod.snd).find? (fun g => g.start == id) with
        | some g => g.parent
        | none =>
            match (s.wave :: s.waves.map Prod.snd).find? (fun w => w.gave id) with
            | some w => s.startOf w.group
            | none => (s.runs.findSome? (fun r => r.2.parentOf id)).getD 0

/-! ## The store (R376 to R380) -/

/-- Class A events (R377). -/
def classA (type : Nat) : Bool :=
  [0x0106, 0x0107, 0x0203, 0x0204, 0x0206, 0x0208, 0x0303, 0x0305, 0x0501, 0x0502, 0x0503, 0x0601, 0x0602, 0x0604,
   0x0606, 0x0703, 0x0704, 0x0705, 0x0801, 0x0802, 0x0803, 0x0804, 0x0805, 0x0806, 0x0807].contains type

/-- Events that only the management partition reads (R377). -/
def mgmtOnly (type : Nat) : Bool :=
  [0x0603, 0x0604, 0x0605, 0x0701, 0x0702, 0x0703, 0x0801, 0x0802, 0x0803, 0x0805, 0x0807].contains type

/-- The trigger bits that an event may set off, lowest first (R384): a held 0x0801 trap is a held trap and a digest split. -/
def triggerBits (type : Nat) (payload : Word) : List Nat :=
  let code := payload.toNat % 2 ^ 16
  if type = 0x0107 && payload.getLsbD 17 then (if code = 0x0801 then [0, 2] else [0])
  else if type = 0x0501 then [1]
  else if type = 0x0804 then [3]
  else if type = 0x0602 then [4]
  else if type = 0x0703 then [5]
  else if type = 0x0302 && (code = 0x070A || code = 0x070B || code = 0x070C) then [6]
  else []

/-- Count a dropped event in TR_DROP (R379, R381). -/
def Tabor.countDrop (t : Tabor) (a : Bool) : Tabor :=
  if a then { t with dropA := min (t.dropA + 1) 0xFFFF } else { t with dropB := min (t.dropB + 1) 0xFFFF }

/-- A unit drops an event: counted in TR_DROP and for the unit's next summary (R379). -/
def Tabor.drop (t : Tabor) (unit : Nat) (a : Bool) : Tabor :=
  let d := mgetD t.dropped unit (0, false)
  { t.countDrop a with dropped := mset t.dropped unit (min (d.1 + 1) 0x7FFFFFFF, d.2 || a) }

/-- Write an event at the next number; the store keeps the latest 2^30. -/
def Tabor.put (t : Tabor) (e : Event) : Tabor :=
  { t with
    store := (if 2 ^ 30 ≤ t.count then t.store.drop 1 else t.store) ++ [(t.count, e)]
    count := t.count + 1
    left := t.left.map (· - 1) }

/-- Start the count of further events when a trigger bit of the event is set in TR_TRIG (R380); the lowest such bit is the
one that 0x0807 names (log 67). -/
def Tabor.fire (t : Tabor) (e : Event) : Tabor :=
  match t.left, (triggerBits e.type e.payload).find? (fun b => t.trigger.getLsbD b) with
  | none, some b => { t with left := some (t.after.toNat * 2 ^ 20), cause := e.causal, causeBit := b }
  | _, _ => t

/-- The events that wait at a unit. -/
def Tabor.waiting (t : Tabor) (unit : Nat) : List Event := mgetD t.queued unit []

/-- A unit has a place for an event of the class: 8 for class A and 16 for class B (R379). -/
def Tabor.room (t : Tabor) (unit : Nat) (a : Bool) : Bool :=
  decide (((t.waiting unit).filter (fun e => classA e.type == a)).length < if a then 8 else 16)

/-- An event waits at its unit for the network, or finds no place and is dropped. -/
def Tabor.hold (t : Tabor) (e : Event) : Tabor :=
  if t.room e.unit (classA e.type) then { t with queued := mset t.queued e.unit (t.waiting e.unit ++ [e]) }
  else t.drop e.unit (classA e.type)

/-- A unit sends an event; after drops of the unit, a 0x0805 summary goes first (R379). -/
def Tabor.send (t : Tabor) (e : Event) : Tabor :=
  match mget t.dropped e.unit with
  | none => t.hold e
  | some (n, a) =>
      let sum : Event := { e with
        payload := BitVec.ofNat 32 (n + if a then 2 ^ 31 else 0), type := 0x0805, parent := 0, causal := 0, part := 0 }
      if t.room e.unit true then ({ t with dropped := mdel t.dropped e.unit }.hold sum).hold e
      else t.drop e.unit (classA e.type)

/-- Tabor takes the oldest event of a unit: written, or dropped while the store is frozen (R378, R380). -/
def Tabor.take (t : Tabor) (unit : Nat) : Tabor :=
  match t.waiting unit with
  | [] => t
  | e :: es =>
      let t := { t with queued := if es.isEmpty then mdel t.queued unit else mset t.queued unit es }
      if t.frozen then t.drop unit (classA e.type) else (t.put e).fire e

/-- The units that may send next: every fourth write is for units at which a class A event waits, while there are such
units (R379). -/
def Tabor.senders (t : Tabor) : List Nat :=
  let a := t.queued.filter (fun p => p.2.any (fun e => classA e.type))
  (if t.count % 4 = 0 && !a.isEmpty then a else t.queued).map Prod.fst

/-- Tabor takes up to n events, unit by unit in a free order; none while the freeze is due (R380). -/
def Tabor.flow (oracle : Nat) : Nat → Tabor → Tabor
  | 0, t => t
  | n + 1, t =>
      let us := t.senders
      if us.isEmpty || (t.left == some 0 && !t.frozen) then t
      else Tabor.flow oracle n (t.take (us.getD (Config.tracePick oracle t.count % us.length) 0))

/-- The trace network carries events to Tabor, leaving a free number of them at their units (R378, R379; log 67). -/
def State.traceFlow (s : State) : State :=
  if s.tabor.queued.isEmpty then s
  else
    let n := (s.tabor.queued.map (fun p => p.2.length)).foldl (· + ·) 0
    { s with tabor := s.tabor.flow s.oracle (n - Config.traceHeld s.oracle) }

/-- A reset loses the events in flight: dropped and counted (R381). -/
def Tabor.lose (t : Tabor) : Tabor :=
  { (t.queued.flatMap Prod.snd).foldl (fun t e => t.countDrop (classA e.type)) t with queued := [], dropped := [] }

/-- Raise an event now. -/
def State.emit (s : State) (part unit type : Nat) (causal parent : Dword) (payload : Word) : State :=
  { s with tabor := s.tabor.send ⟨payload, part, unit, type, parent, causal, s.time⟩ }

/-- Raise an event whose payload is a natural number. -/
def State.emitN (s : State) (part unit type : Nat) (causal parent : Dword) (payload : Nat) : State :=
  s.emit part unit type causal parent (BitVec.ofNat 32 payload)

end Sys2Proof.Machine
end

