-- ==== Sys2Proof/Machine/Memory.lean ====
section
/-!
DEFINITION. Sys2Proof/Machine/Memory.lean: global memory (spec/14): where a line lives (R329 to R331), translation
(R332 to R336), the L2 slices (R337 to R339), leases (R342), and errors (R347).
-/

namespace Sys2Proof.Machine

/-! ## Where a line lives (R329 to R331) -/

/-- `home_hash` (R329). -/
def homeHash (key : Word) (ctx vpn : Nat) : Word :=
  let x := mix (key ^^^ BitVec.ofNat 32 ctx)
  let x := mix (x ^^^ BitVec.ofNat 32 (bits vpn 33 2))
  mix (x ^^^ BitVec.ofNat 32 (bits vpn 39 34))

/-- The page number of a line number VA[52:7]. -/
def vpnOf (line : Nat) : Nat := line / 64

/-- `home_die` (R329) of a line. -/
def State.homeDie (s : State) (ctx line : Nat) : Nat :=
  (vpnOf line % 4) ^^^ ((homeHash s.homeKey ctx (vpnOf line)).toNat % 4)

/-- `channel` (R330) of a line, 0 to 63 on its home die. -/
def State.channelOf (s : State) (ctx line : Nat) : Nat :=
  (line % 64) ^^^ bits (mix (homeHash s.homeKey ctx (vpnOf line) ^^^ 1)).toNat 13 8

/-- The channel of a line, numbered over the package. -/
def State.chanOf (s : State) (ctx line : Nat) : Nat := 64 * s.homeDie ctx line + s.channelOf ctx line

/-- The channel that holds a physical line: the die of its frame is the home die (R331), but for the mapping that firmware makes
at boot (R392; log 17). -/
def State.dramOf (s : State) (ctx line phys : Nat) : Nat := 64 * (phys / 2 ^ 30) + s.channelOf ctx line

/-- The unit of a channel (R374). -/
def chanUnit (chan : Nat) : Nat := unitDie (chan / 64) (0x20 + chan % 64)

/-- The home L2 slice of a line on its home die (R330). -/
def State.sliceOf (s : State) (ctx line : Nat) : Nat := s.channelOf ctx line / 4

/-- The remote-data cache slice, on every other die, that serves a line (R330). -/
def State.rsliceOf (s : State) (ctx line : Nat) : Nat := s.channelOf ctx line / 8

/-- The layer of a channel within its stack, and that layer's key: stacks 2 × die and 2 × die + 1 (R330). -/
def layerOf (chan : Nat) : Nat := chan % 32 / 2
/-- The key of a channel's layer. -/
def layerKey (chan : Nat) : Nat := chan / 32 * 16 + layerOf chan

/-- A layer's state. -/
def State.layer (s : State) (k : Nat) : Layer := mgetD s.layers k .reset

/-- The physical line of a page of a die's frame: DIE, FRAME and the line of the page (R331). -/
def physLine (die frame l : Nat) : Nat := (die * 2 ^ 24 + frame) * 64 + l

/-! ## Reading HBM -/

/-- The bytes of a physical line. -/
def State.hbmLine (s : State) (phys : Nat) : List Byte := cread 0 s.hbm (phys * 128) 128

/-- Store a physical line. -/
def State.hbmPut (s : State) (phys : Nat) (data : List Byte) : State := { s with hbm := cwrite 0 s.hbm (phys * 128) data }

/-- Eight bytes of a table at a physical byte address, as they stand, also when they lie dirty in L2 (R336, log 16). -/
def State.tableEntry (s : State) (addr : Nat) : Dword :=
  match s.l2.find? (fun x => x.phys == addr / 128 && x.dirty) with
  | some x => leDword ((x.data.drop (addr % 128)).take 8)
  | none => leDword (cread 0 s.hbm addr 8)

/-- The optional feature of CAP_ID 0x0101 + k is present (R7, R8, R404): 0 peals, 1 ordered mode, 2 replica comparison,
3 tolerant-region substitution, 4 fabric, 5 signed energy readings, 6 address-hash remapping. -/
def State.feature (s : State) (k : Nat) : Bool := !s.hub.config.featureOff.getLsbD k

/-! ## Channels -/

/-- A channel's registers. -/
def State.chan (s : State) (c : Nat) : Chan := mgetD s.chans c .reset

/-- Change a channel's registers. -/
def State.modChan (s : State) (c : Nat) (f : Chan → Chan) : State := { s with chans := mset s.chans c (f (s.chan c)) }

/-- A count that saturates at its all-ones value (R349). -/
def satInc (w n : Nat) : Nat := min (n + 1) (2 ^ w - 1)

/-- The bank of a channel-local line address, under the version that places its row group (R343, R344). -/
def State.bankOf (s : State) (chan a : Nat) : Nat :=
  let c := s.chan chan
  let row := a / 256
  let v := if c.migrating && c.boundary ≤ row then (c.version + 7) % 8 else c.version
  bits a 7 3 ^^^ bits (mix (s.vkeys.toArray.getD v 0 ^^^ BitVec.ofNat 32 row)).toNat 12 8

/-- The key of a row's activation counter. -/
def rowKey (chan bank row : Nat) : Nat := (chan * 32 + bank) * 65536 + row

/-- The precharge that closes a row (R346): its activation counter is checked. -/
def State.closeRow (s : State) (chan bank row : Nat) : State :=
  let k := rowKey chan bank row
  let (n, bad) := mgetD s.rowCnt k (0, false)
  let s := s.modChan chan (fun c => { c with openRows := mdel c.openRows bank })
  if bad || (s.chan chan).actMax ≤ n then
    let s := if bad then s.modChan chan (fun c => { c with parity := satInc 16 c.parity }) else s
    { s with rowCnt := mdel s.rowCnt k }.emitN 0 (chanUnit chan) 0x0603 0 0 (row + if bad then 65536 else 0)
  else s

/-- The end of a window of 65,536 activates (R344): a new hash version may be selected. -/
def State.windowEnd (s : State) (chan : Nat) : State :=
  let c := s.chan chan
  let s := s.modChan chan (fun c => { c with acts := 0, confl := 0 })
  if s.feature 6 && c.thresh != 0 && !c.migrating && 65536 * c.thresh < c.confl * 8 then
    let v := (c.version + 1) % 8
    (s.modChan chan (fun c => { c with version := v, migrating := true, boundary := 0 })).emitN 0 (chanUnit chan) 0x0605 0 0 v
  else s

/-- An access to a row of a bank (R343 to R346): a row that is not open is activated and counted, and it closes another open
row of its bank. A row stays open until then (log 22). A held layer takes no activate: the access waits (log 69). -/
def State.touchBank (s : State) (chan bank row : Nat) : State :=
  let open_ := mget (s.chan chan).openRows bank
  if open_ = some row then s
  else if (s.layer (layerKey chan)).hold then { s with heldUp := true }
  else
    let s := if 65536 ≤ (s.chan chan).acts then s.windowEnd chan else s
    let s := match open_ with
      | some old => (s.closeRow chan bank old).modChan chan (fun c => { c with confl := c.confl + 1 })
      | none => s
    let s := s.modChan chan (fun c => { c with acts := c.acts + 1, openRows := mset c.openRows bank row })
    let k := rowKey chan bank row
    let (n, bad) := mgetD s.rowCnt k (0, false)
    { s with rowCnt := mset s.rowCnt k (n + 1, bad) }

/-- An access to a line of a channel. -/
def State.touchRow (s : State) (chan phys : Nat) : State :=
  let a := phys / 64 % 2 ^ 24
  s.touchBank chan (s.bankOf chan a) (a / 256)

/-- A row group is moved: each of its rows, one in every bank, is read and written (R344). -/
def State.touchGroup (s : State) (chan row : Nat) : State :=
  (List.range 32).foldl (fun s bank => s.touchBank chan bank row) s

/-- The channel of a physical line of a page table: line l of the frame lies in channel l of its die (R331; log 68). -/
def tableChan (phys : Nat) : Nat := phys / 2 ^ 30 * 64 + phys % 64

/-- A physical line has a single-symbol error. -/
def State.isSoft (s : State) (phys : Nat) : Bool :=
  match mget s.badLines phys with
  | some (.soft _) => true
  | _ => false

/-- A read of a line corrects and counts a single-symbol error (R347). -/
def State.countSoft (s : State) (chan phys : Nat) : State :=
  if s.isSoft phys then s.modChan chan (fun c => { c with corr := satInc 32 c.corr }) else s

/-- The reads of a walk at their channels (R336, R347). -/
def State.touchTables (s : State) (reads : List Nat) : State :=
  reads.foldl (fun s p => (s.touchRow (tableChan p) p).countSoft (tableChan p) p) s

/-! ## Translation (R332 to R336) -/

/-- Why an access to global memory fails (R190, R335, R347). -/
inductive MemErr where
  | notPresent | permission | poisoned
deriving DecidableEq, Repr

/-- The delivered cause of a failure (R277). -/
def MemErr.code : MemErr → Nat
  | .notPresent => 0x0701
  | .permission => 0x0705
  | .poisoned => 0x0706

/-- Kinds of access (R335): reads, writes and read-modify-writes; `ewr` and `ermw` are those of an engine, for which code is
read-only (R72); code fetches. -/
inductive Acc where
  | rd | wr | rmw | ewr | ermw | ex
deriving DecidableEq, Repr

/-- The leaf bits permit the access. -/
def Leaf.allows (l : Leaf) : Acc → Bool
  | .rd => l.rd
  | .wr => l.wr
  | .rmw => l.rd && l.wr
  | .ewr => l.wr && !l.ex
  | .ermw => l.rd && l.wr && !l.ex
  | .ex => l.ex

/-- Bits of an entry. -/
def ebits (e : Dword) (hi lo : Nat) : Nat := bits e.toNat hi lo

/-- A reached entry of a level that breaks a must-be-zero rule, holds a reserved code or has a SIZE of another level: not
valid, and a bad-entry event, whatever its V (R333). -/
def entryBad (level : Nat) (e : Dword) : Bool :=
  let size := ebits e 9 8
  let leaf := level == 1 || (level == 2 && size == 2)
  ebits e 63 39 != 0 || ebits e 7 7 != 0 || ebits e 1 1 != 0 ||
    (if leaf then ebits e 38 37 != 0 || 6 ≤ ebits e 12 10 || (level == 1 && 2 ≤ size) else ebits e 12 2 != 0)

/-- The first entry of an aligned run serves its replicas: valid, of the same SIZE, with an aligned FRAME (R334). -/
def replicaOk (e : Dword) (size al : Nat) : Bool := ebits e 9 8 == size && ebits e 36 13 % al == 0

/-- PT_ROOT has its must-be-zero bits zero (R332). -/
def rootClean (e : Dword) : Bool := ebits e 63 39 == 0 && ebits e 12 1 == 0

/-- The leaf bits of an entry; TOL counts only while tolerant-region substitution is present (R335). -/
def leafOf (e : Dword) (tolerant : Bool) : Leaf :=
  ⟨e.getLsbD 2, e.getLsbD 3, e.getLsbD 4, e.getLsbD 5 && tolerant, e.getLsbD 6, e.extractLsb' 10 3⟩

/-- A frame lies in the partition's HBM units on that die (R335, R392). -/
def State.unitOk (s : State) (part die frame : Nat) : Bool :=
  match mget s.parts part with
  | none => false
  | some p =>
      match p.units[die]? with
      | none => false
      | some (b, c) => b * 131072 ≤ frame && frame < (b + c) * 131072

/-- What a walk finds: the leaf used, a bad entry with its level, an absent page, or a table outside the units. -/
inductive Walk where
  | leaf (level : Nat) (e : Dword)
  | bad (level : Nat)
  | absent
  | denied
deriving DecidableEq, Repr

/-- A walk: its end, the table entries read on the way as (level, key, entry) for the walk cache, and the physical lines
read. -/
structure WalkRes where
  found : Walk
  trail : List (Nat × Nat × Dword)
  reads : List Nat
deriving DecidableEq, Repr

/-- A cached entry. -/
def State.tlbFind (s : State) (place ctx level vpn : Nat) : Option Dword :=
  (s.tlbs.find? (fun t => t.place == place && t.ctx == ctx && t.level == level && t.vpn == vpn)).map Tlb.entry

/-- The physical line of a table's entry. -/
def entryLine (table i : Nat) : Nat := (table * 8192 + 8 * i) / 128

/-- A replica of SIZE `size` in runs of `n`, reached at entry i: the first entry of its run is used (R334). -/
def State.walkReplica (s : State) (w : WalkRes) (level table i size n al : Nat) : WalkRes :=
  let i0 := i / n * n
  let e := s.tableEntry (table * 8192 + 8 * i0)
  let found := if entryBad level e then .bad level
    else if !e.getLsbD 0 then .absent
    else if replicaOk e size al then .leaf (level + 1) e
    else .absent
  { w with found := found, reads := w.reads ++ [entryLine table i0] }

/-- The last level of a walk: the leaf of an 8 KiB page or of a 2 MiB page (R333, R334). -/
def State.walkLast (s : State) (w : WalkRes) (table vpn : Nat) : WalkRes :=
  let i := vpn % 1024
  let e := s.tableEntry (table * 8192 + 8 * i)
  let w := { w with reads := w.reads ++ [entryLine table i] }
  if entryBad 1 e then { w with found := .bad 1 }
  else if !e.getLsbD 0 then { w with found := .absent }
  else if ebits e 9 8 == 0 then { w with found := .leaf 1 e }
  else s.walkReplica w 1 table i 1 256 64

/-- Levels 4 to 2 of a walk from a table; `place` is the walk cache of the channel group (R336). -/
def State.walkFrom (s : State) (place ctx part vpn : Nat) : Nat → Nat → Nat → WalkRes → WalkRes
  | 0, _, table, w => s.walkLast w table vpn
  | n + 1, level, table, w =>
      let key := vpn / 1024 ^ (level - 1)
      let i := key % 1024
      let cached := s.tlbFind place ctx level key
      let e := cached.getD (s.tableEntry (table * 8192 + 8 * i))
      let w := if cached.isSome then w else { w with reads := w.reads ++ [entryLine table i] }
      if entryBad level e then { w with found := .bad level }
      else if !e.getLsbD 0 then { w with found := .absent }
      else if ebits e 9 8 == 2 then s.walkReplica w level table i 2 128 32768
      else if s.unitOk part (ebits e 38 37) (ebits e 36 13) then
        s.walkFrom place ctx part vpn n (level - 1) (ebits e 38 37 * 2 ^ 24 + ebits e 36 13)
          { w with trail := (level, key, e) :: w.trail }
      else { w with found := .denied }

/-- The frame number that a leaf of the given kind (1: 8 KiB, 2: 2 MiB, 3: 1 GiB) gives a page (R334). -/
def leafFrame (kind : Nat) (e : Dword) (vpn : Nat) : Nat :=
  ebits e 36 13 +
    (match kind with
     | 1 => 0
     | 2 => vpn % 256 / 4
     | _ => vpn % 2 ^ 17 / 4)

/-- The key of a leaf in a TLB. -/
def leafKey (kind vpn : Nat) : Nat :=
  match kind with
  | 1 => vpn
  | 2 => vpn / 256
  | _ => vpn / 2 ^ 17

/-- A leaf in the TLB of a channel. -/
def State.tlbLeaf (s : State) (place ctx vpn : Nat) : Option (Nat × Dword) :=
  match s.tlbFind place ctx 1 (leafKey 1 vpn) with
  | some e => some (1, e)
  | none =>
      match s.tlbFind place ctx 2 (leafKey 2 vpn) with
      | some e => some (2, e)
      | none => (s.tlbFind place ctx 3 (leafKey 3 vpn)).map (fun e => (3, e))

/-- The entries that share a cache's places: a channel's 8 KiB leaves, its large pages, or a stop's table entries (R336). -/
def Tlb.mate (a b : Tlb) : Bool := a.place == b.place && (256 ≤ a.place || (a.level == 1) == (b.level == 1))

/-- The number of those places. -/
def Tlb.places (t : Tlb) : Nat := if 256 ≤ t.place then 1024 else if t.level = 1 then 2048 else 64

/-- Keep an entry, once; where its places are taken, a free one of the others leaves (log 8). -/
def State.tlbKeep (s : State) (t : Tlb) : State :=
  if s.tlbs.contains t then s
  else if s.tlbs.length < 64 then { s with tlbs := t :: s.tlbs }
  else
    let mates := s.tlbs.filter t.mate
    match if mates.length < t.places then none else mates[Config.evict s.oracle mates.length % mates.length]? with
    | none => { s with tlbs := t :: s.tlbs }
    | some v => { s with tlbs := t :: s.tlbs.erase v }

/-- Use a leaf: the frame must lie in the partition's units of the page's home die (R335). -/
def State.useLeaf (s : State) (ctx part line kind : Nat) (e : Dword) : Except MemErr (Nat × Leaf) :=
  let die := s.homeDie ctx line
  let frame := leafFrame kind e (vpnOf line)
  if s.unitOk part die frame then .ok (physLine die frame (line % 64), leafOf e (s.feature 3)) else .error .permission

/-- Translate a line of a context (R332 to R336): the physical line and the leaf bits. `req` is the identifier of the
request. The mapping of control context 0 that firmware makes at boot has no tables (R392, log 17). -/
def State.translate (s : State) (req : Dword) (ctx line : Nat) : State × Except MemErr (Nat × Leaf) :=
  match mget s.ctxs ctx with
  | none => (s, .error .notPresent)
  | some c =>
      if ctx = 0 && c.ptRoot = 0 then
        if vpnOf line < 256 then
          (s, .ok (physLine 0 (vpnOf line) (line % 64), ⟨true, true, false, false, false, 0⟩))
        else (s, .error .notPresent)
      else
        let chan := s.chanOf ctx line
        let place := 256 + chan / 16
        match s.tlbLeaf chan ctx (vpnOf line) with
        | some (kind, e) => (s, s.useLeaf ctx c.part line kind e)
        | none =>
            if !c.ptRoot.getLsbD 0 then (s, .error .notPresent)
            else if !s.unitOk c.part (ebits c.ptRoot 38 37) (ebits c.ptRoot 36 13) then (s, .error .permission)
            else
              let w := s.walkFrom place ctx c.part (vpnOf line) 3 4
                (ebits c.ptRoot 38 37 * 2 ^ 24 + ebits c.ptRoot 36 13) ⟨.absent, [], []⟩
              let s := w.trail.foldl (fun s t => s.tlbKeep ⟨place, ctx, t.1, t.2.1, t.2.2⟩) (s.touchTables w.reads)
              match w.found with
              | .leaf kind e =>
                  (s.tlbKeep ⟨chan, ctx, kind, leafKey kind (vpnOf line), e⟩, s.useLeaf ctx c.part line kind e)
              | .bad level =>
                  (s.emitN c.part (chanUnit chan) 0x0606 req (s.parentOf req) level, .error .notPresent)
              | .absent => (s, .error .notPresent)
              | .denied => (s, .error .permission)

/-! ## Reading lines at a channel -/

/-- The pattern of a tolerant substitution (R333). -/
def substLine (k : BitVec 3) : List Byte :=
  match k.toNat with
  | 0 => List.replicate 128 0
  | 1 => (List.replicate 32 [0x00#8, 0x00#8, 0xC0#8, 0x7F#8]).flatten
  | 2 => (List.replicate 64 [0xC0#8, 0x7F#8]).flatten
  | 3 => (List.replicate 64 [0x00#8, 0x7E#8]).flatten
  | 4 => List.replicate 128 0x7F#8
  | _ => List.replicate 128 0x7E#8

/-- An uncorrectable line under a leaf with TOL: a tolerant substitution (R347). -/
def State.substitute (s : State) (req : Dword) (part chan phys : Nat) : State :=
  let s := s.modChan chan (fun c => { c with subst := satInc 16 c.subst })
  s.emitN part (chanUnit chan) 0x0601 req (s.parentOf req) (bits phys 31 0)

/-- An uncorrectable line under a leaf without TOL is poisoned (R347). -/
def State.poisonLine (s : State) (req : Dword) (part chan phys : Nat) : State :=
  let s := s.modChan chan (fun c => { c with poisoned := satInc 16 c.poisoned })
  s.emitN part (chanUnit chan) 0x0602 req (s.parentOf req) (bits phys 31 0)

/-- Read a physical line at a channel (R347): a single-symbol error is corrected and counted; an uncorrectable line is
substituted or poisoned, and a line poisoned before is found so again. Answers the bytes and whether they are poisoned. -/
def State.channelRead (s : State) (req : Dword) (part chan phys : Nat) (leaf : Leaf) : State × List Byte × Bool :=
  let s := s.touchRow chan phys
  match mget s.badLines phys with
  | none | some (.soft _) => (s.countSoft chan phys, s.hbmLine phys, false)
  | some old =>
      if leaf.tol then (s.substitute req part chan phys, substLine leaf.subst, false)
      else if old == .poisoned then (s, s.hbmLine phys, true)
      else
        ({ s with badLines := mset s.badLines phys .poisoned }.poisonLine req part chan phys, s.hbmLine phys, true)

/-- Write a physical line at a channel, with its poison (R347). -/
def State.channelWrite (s : State) (chan phys : Nat) (data : List Byte) (poison : Bool) : State :=
  let s := (s.touchRow chan phys).hbmPut phys data
  { s with badLines := if poison then mset s.badLines phys .poisoned else mdel s.badLines phys }

/-! ## L2 slices (R337 to R339) -/

/-- How a slice stores a line (R338). -/
inductive LineEnc where
  | zero | b4d1 | b8d2 | b8d3 | none
deriving DecidableEq, Repr

/-- The n-byte values of a line. -/
def lineVals (n : Nat) : Nat → List Byte → List Nat
  | 0, _ => []
  | k + 1, b => leNat (b.take n) :: lineVals n k (b.drop n)

/-- Every value of `8 * n` bits equals the first plus a signed delta of d bits. -/
def deltasFit (n d : Nat) (vs : List Nat) : Bool :=
  vs.all (fun v =>
    let x := (v + 2 ^ (8 * n) + 2 ^ (d - 1) - vs.headD 0) % 2 ^ (8 * n)
    decide (x < 2 ^ d))

/-- The first encoding of R338 whose condition the bytes satisfy; a poisoned line is not compressed. -/
def L2Line.enc (x : L2Line) : LineEnc :=
  if x.poison then .none
  else if x.data.all (· == 0) then .zero
  else if deltasFit 4 8 (lineVals 4 32 x.data) then .b4d1
  else if deltasFit 8 16 (lineVals 8 16 x.data) then .b8d2
  else if deltasFit 8 24 (lineVals 8 16 x.data) then .b8d3
  else .none

/-- The line of a context in its home slice. -/
def State.l2Find (s : State) (ctx line : Nat) : Option L2Line := s.l2.find? (fun x => x.ctx == ctx && x.line == line)

/-- The line has the key. -/
def L2Line.at_ (x : L2Line) (ctx line : Nat) : Bool := x.ctx == ctx && x.line == line

/-- Put a line in place of the one with its key, or beside the others. The list of lines is in the order of their last use,
latest first. -/
def State.l2Put (s : State) (x : L2Line) : State :=
  if (s.l2Find x.ctx x.line).isSome then { s with l2 := lmod (·.at_ x.ctx x.line) (fun _ => x) s.l2 }
  else { s with l2 := x :: s.l2 }

/-- A hit makes a line the latest used. -/
def State.l2Use (s : State) (x : L2Line) : State :=
  { s with l2 := x :: s.l2.filter (fun y => !y.at_ x.ctx x.line) }

/-- Insert a filled line: with NT as the least recently used (R333). -/
def State.l2Insert (s : State) (x : L2Line) : State :=
  { s with l2 := if x.leaf.nt then s.l2 ++ [x] else x :: s.l2 }

/-- The partition of a context. -/
def State.partOf (s : State) (ctx : Nat) : Nat := ((mget s.ctxs ctx).map Ctx.part).getD 0

/-- A die's lease state. -/
def State.die (s : State) (d : Nat) : Die := s.dies.toArray.getD d .reset

/-- Change a die's lease state. -/
def State.modDie (s : State) (d : Nat) (f : Die → Die) : State :=
  { s with dies := Vector.ofFn (fun i : Fin 4 => if i.val = d then f (s.dies.get i) else s.dies.get i) }

/-- Fetch a line from its channel for an access of the given kind (R337): checked against the leaf bits. For a write of the
whole line no DRAM read is made. -/
def State.l2Fill (s : State) (req : Dword) (ctx line : Nat) (k : Acc) (whole : Bool) : State × Except MemErr L2Line :=
  let (s, r) := s.translate req ctx line
  match r with
  | .error e => (s, .error e)
  | .ok (phys, leaf) =>
      if leaf.allows k then
        let d := s.homeDie ctx line
        let (s, data, poison) := if whole then (s, List.replicate 128 0, false)
          else s.channelRead req (s.partOf ctx) (s.dramOf ctx line phys) phys leaf
        (s, .ok ⟨ctx, line, d, s.sliceOf ctx line, phys, data, false, poison, leaf, (s.die d).erts, false⟩)
      else (s, .error .permission)

/-- Drop a clean line; ERTS keeps the latest lease end of the lines that left (R342). -/
def State.l2Drop (s : State) (x : L2Line) : State :=
  let s := s.modDie x.die (fun d => { d with erts := max d.erts x.rts })
  { s with l2 := s.l2.filter (fun y => !y.at_ x.ctx x.line) }

/-- A line that is hit, with an uncorrectable SRAM error mended (R347): a clean line is dropped, to be fetched again, and a
dirty one is an uncorrectable line. A write of the whole line replaces it as it is. -/
def State.l2Mend (s : State) (req : Dword) (x : L2Line) (whole : Bool) : State × Option L2Line :=
  if !x.upset || whole then (s, some x)
  else if !x.dirty then (s.l2Drop x, none)
  else
    let part := s.partOf x.ctx
    let chan := s.dramOf x.ctx x.line x.phys
    if x.poison then let y := { x with upset := false }; (s.l2Put y, some y)
    else if x.leaf.tol then
      let y := { x with upset := false, data := substLine x.leaf.subst }
      ((s.substitute req part chan x.phys).l2Put y, some y)
    else
      let y := { x with upset := false, poison := true }
      ((s.poisonLine req part chan x.phys).l2Put y, some y)

/-- The line in its home slice, if it is there and can be used. -/
def State.l2Hit (s : State) (req : Dword) (ctx line : Nat) (whole : Bool) : State × Option L2Line :=
  match s.l2Find ctx line with
  | some x => s.l2Mend req x whole
  | none => (s, none)

/-- Bring a line to its home slice for an access (R337); `whole`: a write of all 128 bytes, which also takes a poisoned
line (R347). -/
def State.homeLine (s : State) (req : Dword) (ctx line : Nat) (k : Acc) (whole : Bool) : State × Except MemErr L2Line :=
  match s.l2Hit req ctx line whole with
  | (s, some x) =>
      if !x.leaf.allows k then (s, .error .permission)
      else if x.poison && !whole then (s, .error .poisoned)
      else (s.l2Use x, .ok x)
  | (s, none) =>
      let (s, r) := s.l2Fill req ctx line k whole
      match r with
      | .error e => (s, .error e)
      | .ok x =>
          let s := s.l2Insert x
          if x.poison && !whole then (s, .error .poisoned) else (s, .ok x)

/-- A line for an access that is served at the home channel and allocates nothing (R339): a copy in the home slice is used,
since it is the coherence point (R260; log 68). -/
def State.chanLine (s : State) (req : Dword) (ctx line : Nat) (k : Acc) : State × Except MemErr L2Line :=
  if (s.l2Find ctx line).isSome then s.homeLine req ctx line k false
  else
    let (s, r) := s.l2Fill req ctx line k false
    match r with
    | .error e => (s, .error e)
    | .ok x => if x.poison then (s, .error .poisoned) else (s, .ok x)

/-! ## Leases (R342) -/

/-- Apply one notice on a die. -/
def State.applyNotice (s : State) (n : Notice) : State :=
  s.modDie n.die (fun d => { d with view := Vector.ofFn (fun i : Fin 4 =>
    if i.val = n.home then max (d.view.get i) n.time else d.view.get i) })

/-- Apply every notice sent: what performing a write at `.device` waits for. -/
def State.applyNotices (s : State) : State := { s.notices.foldl State.applyNotice s with notices := [] }

/-- An acquire at `.device` or wider on a die, and the device's own step every 1 µs: take the view and drop the copies
whose lease has ended. -/
def State.snapshot (s : State) (d : Nat) : State :=
  let s := s.modDie d (fun x => { x with snap := x.view, snapAt := s.time })
  { s with rdc := s.rdc.filter (fun x => !(x.die == d && x.till < (s.die d).snap.toArray.getD x.home 0)) }

/-- The order has an acquire part. -/
def acquires (o : Ord) : Bool := o == .acq || o == .ar
/-- The order has a release part. -/
def releases (o : Ord) : Bool := o == .rel || o == .ar

/-- The scope reaches the device. -/
def Scope.wide : Scope → Bool
  | .wave | .group => false
  | .device | .domain | .system => true

/-- The wider of a scope that may be there and another. -/
def widest : Option Scope → Scope → Option Scope
  | none, c => some c
  | some d, c => some (if d.code < c.code then c else d)

/-- An acquire at a scope by a party on a die (R269): at `.device` or wider the die discards its expired leases. Hosts and other
packages do not wait for the notices of what they write here: at `.domain` and `.system` those are applied first (R261,
R421; log 51). -/
def State.acquireOn (s : State) (c : Scope) (d : Nat) : State :=
  match c with
  | .wave | .group => s
  | .device => s.snapshot d
  | .domain | .system => s.applyNotices.snapshot d

/-- A write to a line whose lease has not ended moves its home's logical time and sends notices. -/
def State.breakLease (s : State) (x : L2Line) : State :=
  if (s.die x.die).lt ≤ x.rts then
    let t := x.rts + 1
    let s := s.modDie x.die (fun d => { d with lt := t })
    { s with notices := s.notices ++
        ((List.range 4).filter (· != x.die)).map (fun d => ⟨x.die, d, t, s.time + 16000⟩) }
  else s

/-! ## Lines for a requester -/

/-- Read a line for a party on a die (`none`: at the home slice, R339): from L2, or from the die's remote-data cache
under a lease. -/
def State.readLine (s : State) (req : Dword) (die : Option Nat) (ctx line : Nat) (k : Acc) :
    State × Except MemErr (List Byte) :=
  let h := s.homeDie ctx line
  match die with
  | none =>
      let (s, r) := s.homeLine req ctx line k false
      (s, r.map L2Line.data)
  | some d =>
      if d = h then
        let (s, r) := s.homeLine req ctx line k false
        (s, r.map L2Line.data)
      else
        match s.rdc.find? (fun x => x.die == d && x.ctx == ctx && x.line == line &&
            (s.die d).snap.toArray.getD h 0 ≤ x.till) with
        | some x =>
            if !x.leaf.allows k then (s, .error .permission)
            else if x.poison then (s, .error .poisoned)
            else (s, .ok x.data)
        | none =>
            let (s, r) := s.homeLine req ctx line k false
            match r with
            | .error e => (s, .error e)
            | .ok x =>
                let e := (s.die h).lt + (s.die h).lease
                let s := s.l2Put { x with rts := max x.rts e }
                let copy : RLine := ⟨d, s.rsliceOf ctx line, h, ctx, line, x.data, false, x.leaf, e⟩
                let same (y : RLine) : Bool := y.die == d && y.ctx == ctx && y.line == line
                if s.rdc.any (fun y => same y && e < y.till) then (s, .ok x.data)
                else ({ s with rdc := copy :: s.rdc.filter (fun y => !same y) }, .ok x.data)

/-- Replace n bytes of a line from an offset. -/
def splice (data : List Byte) (off : Nat) (b : List Byte) : List Byte :=
  data.take off ++ b ++ data.drop (off + b.length)

/-- A write from another die first drops that die's copy of the line (R339). -/
def State.dropCopy (s : State) (die : Option Nat) (ctx line : Nat) : State :=
  match die with
  | some d =>
      if d = s.homeDie ctx line then s
      else { s with rdc := s.rdc.filter (fun y => !(y.die == d && y.ctx == ctx && y.line == line)) }
  | none => s

/-- A read that is served at the home for a party on a die leaves no older copy there for the party's later reads (R265). -/
def State.dropCopies (s : State) (die : Option Nat) (ctx : Nat) (lines : List Nat) : State :=
  lines.foldl (fun s l => s.dropCopy die ctx l) s

/-- Write bytes of one line for a party on a die (R339): the die's own copy is dropped first; `nt` writes allocate
nothing. `k` is a write, or a read-modify-write for the write of an atomic. -/
def State.storeLine (s : State) (req : Dword) (die : Option Nat) (ctx line off : Nat) (b : List Byte) (nt : Bool)
    (k : Acc) : State × Except MemErr Unit :=
  let s := s.dropCopy die ctx line
  let whole := b.length == 128
  if nt && (s.l2Find ctx line).isNone then
    let (s, r) := s.l2Fill req ctx line k whole
    match r with
    | .error e => (s, .error e)
    | .ok x =>
        if x.poison && !whole then (s, .error .poisoned)
        else ((s.channelWrite (s.dramOf ctx line x.phys) x.phys (splice x.data off b) false).breakLease x, .ok ())
  else
    let (s, r) := s.homeLine req ctx line k whole
    match r with
    | .error e => (s, .error e)
    | .ok x =>
        ((s.l2Put { x with data := splice x.data off b, dirty := true, poison := false, upset := false }).breakLease x, .ok ())

/-- The fragment waits at a WAITADDR on a word of the line, in its context's own memory (R204). -/
def Slot.awaits (f : Slot) (line : Nat) : Bool :=
  f.valid && (match f.park with
    | .waitaddr a _ _ _ _ _ _ => a.extractLsb' 62 2 == 0 && a.toNat / 128 == line
    | _ => false)

/-- The waits of a wave at WAITADDRs on a line. -/
def Wave.awaiting (w : Wave) (line : Nat) : List (Nat × Nat) :=
  (if w.slot0.awaits line then [(w.name, 0)] else []) ++ (if w.slot1.awaits line then [(w.name, 1)] else [])

/-- A line has been written: the WAITADDRs on it are due for an evaluation (R204). -/
def State.wrote (s : State) (ctx line : Nat) : State :=
  let near := if s.grp.ctx = ctx then s.wave.awaiting line else []
  let far := s.waves.flatMap (fun p =>
    match mget s.groups p.2.group with
    | some g => if g.ctx = ctx then p.2.awaiting line else []
    | none => if s.grp.name = p.2.group && s.grp.ctx = ctx then p.2.awaiting line else [])
  match near ++ far with
  | [] => s
  | l => { s with evals := s.evals ++ l.filter (fun x => !s.evals.contains x) }

/-- Write bytes of a line, by a requester on a die or at the home; the WAITADDRs on the line are evaluated again. -/
def State.writeLine (s : State) (req : Dword) (die : Option Nat) (ctx line off : Nat) (b : List Byte) (nt : Bool)
    (k : Acc) : State × Except MemErr Unit :=
  match s.storeLine req die ctx line off b nt k with
  | (t, .ok ()) => (t.wrote ctx line, .ok ())
  | r => r

/-! ## Byte ranges -/

/-- The pieces of n bytes at a virtual address, as (line, offset, length); fuel bounds the number of lines. -/
def chunks : Nat → Nat → Nat → List (Nat × Nat × Nat)
  | 0, _, _ => []
  | f + 1, va, n =>
      if n = 0 then []
      else
        let k := min n (128 - va % 128)
        (va / 128 % 2 ^ 46, va % 128, k) :: chunks f (va + k) (n - k)

/-- The pieces of n bytes at a virtual address. -/
def pieces (va n : Nat) : List (Nat × Nat × Nat) := chunks (n / 128 + 2) va n

/-- The page that holds a virtual address. -/
def pageOf (va : Nat) : Nat := va / 8192 * 8192

/-- A failure with the virtual address at which it was found. -/
structure MemFail where
  err : MemErr
  va  : Nat
deriving DecidableEq, Repr

/-- Read the pieces in order. -/
def State.readPieces (s : State) (req : Dword) (die : Option Nat) (ctx : Nat) (k : Acc) :
    List (Nat × Nat × Nat) → State × Except MemFail (List Byte)
  | [] => (s, .ok [])
  | (line, off, n) :: ps =>
      let (s, r) := s.readLine req die ctx line k
      match r with
      | .error e => (s, .error ⟨e, line * 128 + off⟩)
      | .ok d =>
          let (s, r) := s.readPieces req die ctx k ps
          (s, r.map (fun rest => (d.drop off).take n ++ rest))

/-- Read n bytes of a context's global space for a party on a die. -/
def State.gread (s : State) (req : Dword) (die : Option Nat) (ctx va n : Nat) : State × Except MemFail (List Byte) :=
  s.readPieces req die ctx .rd (pieces va n)

/-- Write the pieces in order. -/
def State.writePieces (s : State) (req : Dword) (die : Option Nat) (ctx : Nat) (nt : Bool) (k : Acc) :
    List (Nat × Nat × Nat) → List Byte → State × Except MemFail Unit
  | [], _ => (s, .ok ())
  | (line, off, n) :: ps, b =>
      let (s, r) := s.writeLine req die ctx line off (b.take n) nt k
      match r with
      | .error e => (s, .error ⟨e, line * 128 + off⟩)
      | .ok () => s.writePieces req die ctx nt k ps (b.drop n)

/-- A write of the whole line differs from a write of its parts: the line is not in its home slice, whose DRAM read it spares
(R337), or it is uncorrectable or poisoned there (R347). -/
def State.wantsWhole (s : State) (ctx line : Nat) : Bool :=
  match s.l2Find ctx line with
  | some x => x.poison || (x.upset && x.dirty)
  | none => true

/-- Write bytes of a context's global space for a party on a die; `k` is `.ewr` for an engine. -/
def State.gwrite (s : State) (req : Dword) (die : Option Nat) (ctx va : Nat) (b : List Byte) (nt : Bool)
    (k : Acc := .wr) : State × Except MemFail Unit :=
  s.writePieces req die ctx nt k (pieces va b.length) b

/-- An atomic read-modify-write of n bytes in one line at the home slice; needs RD and WR (R202, R335). `k` is `.ermw` for an
engine. -/
def State.gatomic (s : State) (req : Dword) (die : Option Nat) (ctx va n : Nat) (f : List Byte → List Byte)
    (k : Acc := .rmw) : State × Except MemFail (List Byte) :=
  let line := va / 128
  let (s, r) := s.homeLine req ctx line k false
  match r with
  | .error e => (s, .error ⟨e, va⟩)
  | .ok x =>
      let old := (x.data.drop (va % 128)).take n
      let (s, r) := s.writeLine req die ctx line (va % 128) (f old) false k
      match r with
      | .error e => (s, .error ⟨e, va⟩)
      | .ok () => (s, .ok old)

/-- Whether every byte of a range may be written now, as its present translations stand (R285, R291). -/
def State.writable (s : State) (ctx va n : Nat) : Bool :=
  (pieces va n).all (fun p =>
    match s.l2Find ctx p.1 with
    | some x => x.leaf.wr && !x.poison
    | none =>
        match (s.l2Fill 0 ctx p.1 .wr false).2 with
        | .ok x => !x.poison
        | .error _ => false)

end Sys2Proof.Machine
end

