-- ==== Sys2Proof/Machine/Number.lean ====
section
/-!
DEFINITION. Sys2Proof/Machine/Number.lean: the number formats, roundings, conversions, float arithmetic and selections of
spec/03 (R75 to R98) and the rattle generator (R90, R91). A finite value is exact: sign, natural significand, exponent.
-/

namespace Sys2Proof.Machine

/-! ## Flags (R29, R98) -/

/-- No flag. -/
def fNone : BitVec 6 := 0
def fNX : BitVec 6 := 1
def fUF : BitVec 6 := 2
def fOF : BitVec 6 := 4
def fDZ : BitVec 6 := 8
def fNV : BitVec 6 := 16
def fSAT : BitVec 6 := 32

/-! ## Formats (R75) -/

/-- The floating-point formats. -/
inductive FF where
  | fp32 | fp16 | bf16 | e4m3 | e5m2 | e2m1
deriving DecidableEq, Repr

/-- Bits of the format. -/
def FF.width : FF → Nat
  | .fp32 => 32
  | .fp16 | .bf16 => 16
  | .e4m3 | .e5m2 => 8
  | .e2m1 => 4

/-- Bits of the fraction field F. -/
def FF.frac : FF → Nat
  | .fp32 => 23
  | .fp16 => 10
  | .bf16 => 7
  | .e4m3 => 3
  | .e5m2 => 2
  | .e2m1 => 1

/-- Bits of the exponent field E. -/
def FF.exp : FF → Nat
  | .fp32 | .bf16 => 8
  | .fp16 | .e5m2 => 5
  | .e4m3 => 4
  | .e2m1 => 2

/-- The bias. -/
def FF.bias : FF → Int
  | .fp32 | .bf16 => 127
  | .fp16 | .e5m2 => 15
  | .e4m3 => 7
  | .e2m1 => 1

/-- The format has infinities. -/
def FF.hasInf : FF → Bool
  | .e4m3 | .e2m1 => false
  | _ => true

/-- The maximum finite magnitude, as its encoding. -/
def FF.maxBits : FF → Nat
  | .fp32 => 0x7F7FFFFF
  | .fp16 => 0x7BFF
  | .bf16 => 0x7F7F
  | .e4m3 => 0x7E
  | .e5m2 => 0x7B
  | .e2m1 => 0x7

/-- The positive infinity (formats that have one). -/
def FF.infBits : FF → Nat
  | .fp32 => 0x7F800000
  | .fp16 => 0x7C00
  | .bf16 => 0x7F80
  | .e5m2 => 0x7C
  | .e4m3 => 0x7F
  | .e2m1 => 0x7

/-- The canonical NaN (R75, R76); E2M1 has none. -/
def FF.nanBits : FF → Nat
  | .fp32 => 0x7FC00000
  | .fp16 => 0x7E00
  | .bf16 => 0x7FC0
  | .e4m3 => 0x7F
  | .e5m2 => 0x7E
  | .e2m1 => 0

/-- The exponent of the minimum subnormal. -/
def FF.qmin (f : FF) : Int := 1 - f.bias - f.frac

/-- The bits of a sign. -/
def FF.sign (f : FF) (neg : Bool) : Nat := if neg then 2 ^ (f.width - 1) else 0

/-- A number: NaN, an infinity, or the exact value (-1)^neg * m * 2^e (a zero keeps its sign). -/
inductive Num where
  | nan
  | inf (neg : Bool)
  | fin (neg : Bool) (m : Nat) (e : Int)
deriving DecidableEq, Repr

/-- The value of an encoding (R75). -/
def FF.value (f : FF) (b : Nat) : Num :=
  let neg := b / 2 ^ (f.width - 1) % 2 == 1
  let E := b / 2 ^ f.frac % 2 ^ f.exp
  let F := b % 2 ^ f.frac
  let top := 2 ^ f.exp - 1
  if E = 0 then .fin neg F f.qmin
  else if f.hasInf && E == top then (if F = 0 then .inf neg else .nan)
  else if f == .e4m3 && E == top && F == 7 then .nan
  else .fin neg (2 ^ f.frac + F) (f.qmin + (E - 1 : Nat))

/-- A result with the flags it raises. -/
structure Res where
  bits  : Nat
  flags : BitVec 6
deriving DecidableEq, Repr

/-! ## Rounding (R81, R83, R91) -/

/-- Whether the truncated significand t moves away from zero; r of 2^k is the part cut off, x the rattle draw. -/
def roundUp (rm : RMode) (neg : Bool) (x : Word) (t r k : Nat) : Bool :=
  match rm with
  | .rne => decide (2 ^ k < 2 * r) || (2 * r == 2 ^ k && t % 2 == 1)
  | .rtz => false
  | .rup => !neg && r != 0
  | .rdn => neg && r != 0
  | .rna => decide (2 ^ k ≤ 2 * r)
  | .rto => r != 0 && t % 2 == 0
  | .rst => decide (x.toNat < r * 2 ^ 32 / 2 ^ k)

/-- Round m * 2^e (m not 0) to a multiple of 2^q: the multiple and whether it is inexact. -/
def roundAt (rm : RMode) (neg : Bool) (x : Word) (m : Nat) (e q : Int) : Nat × Bool :=
  if q ≤ e then (m * 2 ^ (e - q).toNat, false)
  else
    let k := (q - e).toNat
    let t := m / 2 ^ k
    let r := m % 2 ^ k
    (if roundUp rm neg x t r k then t + 1 else t, r != 0)

/-- The quantum of a format at m * 2^e: its precision, down to the minimum subnormal. -/
def FF.quantum (f : FF) (m : Nat) (e : Int) : Int := max ((Nat.log2 m : Int) + e - f.frac) f.qmin

/-- The result of an overflow (R83), for every chain too that passes through the format (R88; log 65). -/
def FF.overflow (f : FF) (rm : RMode) (sat neg : Bool) : Res :=
  let big := f.sign neg + f.maxBits
  let inf := f.sign neg + f.infBits
  if sat then ⟨big, fOF ||| fNX ||| fSAT⟩
  else match f with
    | .e4m3 => ⟨f.nanBits, fOF ||| fNX⟩
    | .e2m1 => ⟨big, fOF ||| fNX⟩
    | _ =>
      match rm with
      | .rne | .rna | .rst => ⟨inf, fOF ||| fNX⟩
      | .rtz | .rto => ⟨big, fOF ||| fNX⟩
      | .rup => ⟨if neg then big else inf, fOF ||| fNX⟩
      | .rdn => ⟨if neg then inf else big, fOF ||| fNX⟩

/-- Round a finite value to a format (R81, R83), with the flags of R98. -/
def FF.round (f : FF) (rm : RMode) (sat : Bool) (x : Word) (neg : Bool) (m : Nat) (e : Int) : Res :=
  if m = 0 then ⟨f.sign neg, fNone⟩
  else
    let q := f.quantum m e
    let (t, inexact) := roundAt rm neg x m e q
    let enc := (q - f.qmin).toNat * 2 ^ f.frac + t
    if f.maxBits < enc then f.overflow rm sat neg
    else
      let tiny := decide ((Nat.log2 m : Int) + e < f.qmin + f.frac)
      ⟨f.sign neg + enc, if inexact then (if tiny then fUF ||| fNX else fNX) else fNone⟩

/-! ## Conversions (R84 to R86) -/

/-- Convert a number to a floating-point format (R84). -/
def FF.convert (f : FF) (rm : RMode) (sat : Bool) (x : Word) : Num → Res
  | .nan => if f == .e2m1 then ⟨0, fNV⟩ else ⟨f.nanBits, fNone⟩
  | .inf neg =>
      if sat then ⟨f.sign neg + f.maxBits, fSAT⟩
      else match f with
        | .e4m3 => ⟨f.nanBits, fNV⟩
        | .e2m1 => ⟨f.sign neg + f.maxBits, fOF⟩
        | _ => ⟨f.sign neg + f.infBits, fNone⟩
  | .fin neg m e => f.round rm sat x neg m e

/-- An integer type: width and signedness. -/
structure IntTy where
  width  : Nat
  signed : Bool
deriving DecidableEq, Repr

/-- The least value of an integer type (R78). -/
def IntTy.min (t : IntTy) : Int := if t.signed then -(2 ^ (t.width - 1)) else 0
/-- The greatest value of an integer type (R78). -/
def IntTy.max (t : IntTy) : Int := if t.signed then 2 ^ (t.width - 1) - 1 else 2 ^ t.width - 1
/-- The value of the low bits of a register element (R79). -/
def IntTy.value (t : IntTy) (w : Word) : Int :=
  let n := w.toNat % 2 ^ t.width
  if t.signed then sint t.width n else n
/-- A value placed in a register element: sign- or zero-extended (R79). -/
def IntTy.place (_t : IntTy) (v : Int) : Word := BitVec.ofInt 32 v
/-- The low bits of a value, read in the type and extended (R86). -/
def IntTy.wrap (t : IntTy) (v : Int) : Word :=
  let n := uint t.width v
  t.place (if t.signed then sint t.width n else n)
/-- Clamp to the range. -/
def IntTy.clamp (t : IntTy) (v : Int) : Int := if v < t.min then t.min else if t.max < v then t.max else v

/-- Convert a number to an integer type (R85). -/
def IntTy.ofNum (t : IntTy) (rm : RMode) (x : Word) : Num → Res
  | .nan => ⟨0, fNV⟩
  | .inf neg => ⟨(t.place (if neg then t.min else t.max)).toNat, fNV ||| fSAT⟩
  | .fin neg m e =>
      if m = 0 then ⟨0, fNone⟩
      else
        let (n, inexact) := roundAt rm neg x m e 0
        let v : Int := if neg then -n else n
        if v < t.min || t.max < v then ⟨(t.place (t.clamp v)).toNat, fNV ||| fSAT⟩
        else ⟨(t.place v).toNat, if inexact then fNX else fNone⟩

/-- Convert between integer types (R86): exact when the value fits, else its low bits, or the clamp with `.sat`. -/
def IntTy.ofInt (t : IntTy) (sat : Bool) (v : Int) : Res :=
  if t.min ≤ v && v ≤ t.max then ⟨(t.place v).toNat, fNone⟩
  else if sat then ⟨(t.place (t.clamp v)).toNat, fSAT⟩
  else ⟨(t.wrap v).toNat, fNone⟩

/-- An integer as a number; zero is +0 (R86). -/
def Num.ofInt (v : Int) : Num := .fin (decide (v < 0)) v.natAbs 0

/-- A conversion type as a format or an integer type (R48). -/
def cvtKind : CvtTy → FF ⊕ IntTy
  | .s32 => .inr ⟨32, true⟩
  | .n32 => .inr ⟨32, false⟩
  | .s16 => .inr ⟨16, true⟩
  | .n16 => .inr ⟨16, false⟩
  | .s8 => .inr ⟨8, true⟩
  | .n8 => .inr ⟨8, false⟩
  | .f32 => .inl .fp32
  | .f16 => .inl .fp16
  | .bf16 => .inl .bf16
  | .e4m3 => .inl .e4m3
  | .e5m2 => .inl .e5m2
  | .e2m1 => .inl .e2m1

/-- VCVT of one element (R79, R84 to R86, R89): x is the rattle draw of `.rst`. A widening is exact, whatever `.sat` says. -/
def convert (td ts : CvtTy) (rm : RMode) (sat : Bool) (x : Word) (a : Word) : Res :=
  match cvtKind ts, cvtKind td with
  | .inl fs, .inl fd => fd.convert rm (sat && fd.width ≤ fs.width) x (fs.value (a.toNat % 2 ^ fs.width))
  | .inl fs, .inr t => t.ofNum rm x (fs.value (a.toNat % 2 ^ fs.width))
  | .inr t, .inl fd => fd.convert rm sat x (.ofInt (t.value a))
  | .inr t, .inr t' => t'.ofInt sat (t.value a)

/-! ## Arithmetic (R154, R82, R98) -/

/-- The signed significand of a finite value at a lower exponent. -/
def atExp (neg : Bool) (m : Nat) (e e0 : Int) : Int :=
  let n : Int := m * 2 ^ (e - e0).toNat
  if neg then -n else n

/-- The exact sum of two finite values; an exact zero sum of opposite signs is +0. -/
def addFin (n1 : Bool) (m1 : Nat) (e1 : Int) (n2 : Bool) (m2 : Nat) (e2 : Int) : Num :=
  let e := min e1 e2
  let v := atExp n1 m1 e1 e + atExp n2 m2 e2 e
  if v = 0 then .fin (n1 && n2) 0 e else .fin (decide (v < 0)) v.natAbs e

/-- The exact sum of two numbers, with NV for infinities of opposite signs. -/
def Num.add : Num → Num → Num × BitVec 6
  | .nan, _ => (.nan, fNone)
  | _, .nan => (.nan, fNone)
  | .inf a, .inf b => if a == b then (.inf a, fNone) else (.nan, fNV)
  | .inf a, .fin _ _ _ => (.inf a, fNone)
  | .fin _ _ _, .inf b => (.inf b, fNone)
  | .fin n1 m1 e1, .fin n2 m2 e2 => (addFin n1 m1 e1 n2 m2 e2, fNone)

/-- The exact product of two numbers, with NV for a zero times an infinity. -/
def Num.mul : Num → Num → Num × BitVec 6
  | .nan, _ => (.nan, fNone)
  | _, .nan => (.nan, fNone)
  | .inf a, .inf b => (.inf (a != b), fNone)
  | .inf a, .fin b m _ => if m = 0 then (.nan, fNV) else (.inf (a != b), fNone)
  | .fin a m _, .inf b => if m = 0 then (.nan, fNV) else (.inf (a != b), fNone)
  | .fin n1 m1 e1, .fin n2 m2 e2 => (.fin (n1 != n2) (m1 * m2) (e1 + e2), fNone)

/-- The negation of a number. -/
def Num.neg : Num → Num
  | .nan => .nan
  | .inf a => .inf (!a)
  | .fin n m e => .fin (!n) m e

/-- The result of an arithmetic instruction: one rounding to nearest even, flags joined. -/
def FF.deliver (f : FF) (p : Num × BitVec 6) : Res :=
  let r := f.convert .rne false 0 p.1
  ⟨r.bits, r.flags ||| p.2⟩

/-- The format of a float lane operation. -/
def fmtOf : FTy → FF
  | .f32 => .fp32
  | .f16 => .fp16
  | .bf16 => .bf16

/-- The number in the low bits of an element (R155). -/
def FF.get (f : FF) (w : Word) : Num := f.value (w.toNat % 2 ^ f.width)

/-- a + b. -/
def FF.add (f : FF) (a b : Word) : Res := f.deliver ((f.get a).add (f.get b))
/-- a - b. -/
def FF.sub (f : FF) (a b : Word) : Res := f.deliver ((f.get a).add (f.get b).neg)
/-- a * b. -/
def FF.mul (f : FF) (a b : Word) : Res := f.deliver ((f.get a).mul (f.get b))
/-- a * b + c from the exact value (R82, R154). -/
def FF.fma (f : FF) (a b c : Word) : Res :=
  let p := (f.get a).mul (f.get b)
  let s := p.1.add (f.get c)
  f.deliver (s.1, p.2 ||| s.2)

/-! ## Selections and comparisons (R96, R97, R156) -/

/-- Ordering of two numbers, with -0 below +0 (R96); NaN is not ordered. -/
def Num.lt : Num → Num → Bool
  | .nan, _ => false
  | _, .nan => false
  | .inf a, .inf b => a && !b
  | .inf a, .fin _ _ _ => a
  | .fin _ _ _, .inf b => !b
  | .fin n1 m1 e1, .fin n2 m2 e2 =>
      let e := min e1 e2
      let x := atExp n1 m1 e1 e
      let y := atExp n2 m2 e2 e
      decide (x < y) || (x == y && x == 0 && n1 && !n2)

/-- A number is NaN. -/
def Num.isNan : Num → Bool
  | .nan => true
  | _ => false

/-- Minimum (or maximum) under R96: a number wins over a NaN, and two NaNs give the canonical NaN. -/
def FF.select (f : FF) (max : Bool) (a b : Word) : Word :=
  let x := f.get a
  let y := f.get b
  let low (w : Word) : Word := BitVec.ofNat 32 (w.toNat % 2 ^ f.width)
  if x.isNan && y.isNan then BitVec.ofNat 32 f.nanBits
  else if x.isNan then low b
  else if y.isNan then low a
  else if max then (if x.lt y then low b else low a)
  else (if y.lt x then low b else low a)

/-- The comparison of VCMP `.f32` (R156): -0 equals +0, NaN is unordered. -/
def cmpF (c : CC) (a b : Word) : Bool :=
  let x := FF.fp32.get a
  let y := FF.fp32.get b
  let un := x.isNan || y.isNan
  let zero (n : Num) : Bool := match n with | .fin _ 0 _ => true | _ => false
  let bothZero := zero x && zero y
  let lt := x.lt y && !bothZero
  let gt := y.lt x && !bothZero
  match c with
  | .eq => !un && !lt && !gt
  | .ne => un || lt || gt
  | .lt => !un && lt
  | .le => !un && !gt
  | .gt => !un && gt
  | .ge => !un && !lt
  | .uo => un
  | .ord => !un

/-- Integer comparisons (R107, R156, R204). -/
def cmpI (c : CC) (signed : Bool) (a b : Word) : Bool :=
  let lt (x y : Word) : Bool := if signed then x.slt y else x.ult y
  match c with
  | .eq => a == b
  | .ne => a != b
  | .lt => lt a b
  | .le => !lt b a
  | .gt => lt b a
  | .ge => !lt a b
  | .uo => false
  | .ord => true

/-! ## The rattle generator (R90) -/

/-- A draw from the launch's seed, the launch and group ids, the logical thread index and the lane's count. -/
def rattle (seed : Dword) (lid gid thread count : Word) : Word :=
  let x := mix (loWord seed ^^^ lid)
  let x := mix (x ^^^ gid)
  let x := mix (x ^^^ thread ^^^ hiWord seed)
  mix (x ^^^ count)

end Sys2Proof.Machine
end

