-- ==== Sys2Proof/Machine/Flags.lean ====
section
/-!
DEFINITION. Sys2Proof/Machine/Flags.lean: the sticky flags (R22, R29, R98) and the results of a lane operation with the
flags they raise.
-/

namespace Sys2Proof.Machine

/-- Set sticky flags of the wave (R22): a flag that is set stays set. -/
def State.raiseFlags (s : State) (f : BitVec 6) : State := { s with wave := { s.wave with flags := s.wave.flags ||| f } }

/-- The flags that the active lanes raise together. -/
def joinFlags (m : Dword) (f : Nat → BitVec 6) : BitVec 6 := (lanesOf m).foldl (fun a i => a ||| f i) 0

/-- A signed sum or difference clamped to 32 bits, and whether it was clamped (R103, R149). -/
def satS (v : Int) : Word × Bool :=
  if v < -(2 ^ 31) then (0x80000000#32, true)
  else if 2 ^ 31 - 1 < v then (0x7FFFFFFF#32, true) else (BitVec.ofInt 32 v, false)

/-- An unsigned sum or difference clamped to 32 bits, and whether it was clamped (R103, R149). -/
def satN (v : Int) : Word × Bool :=
  if v < 0 then (0, true) else if 2 ^ 32 - 1 < v then (0xFFFFFFFF#32, true) else (BitVec.ofInt 32 v, false)

/-- Addition in one of the three kinds: the result and whether SAT is raised. -/
def addK (k : SatKind) (a b : Word) : Word × Bool :=
  match k with
  | .wrap => (a + b, false)
  | .s32sat => satS (a.toInt + b.toInt)
  | .n32sat => satN ((a.toNat : Int) + b.toNat)

/-- Subtraction in one of the three kinds. -/
def subK (k : SatKind) (a b : Word) : Word × Bool :=
  match k with
  | .wrap => (a - b, false)
  | .s32sat => satS (a.toInt - b.toInt)
  | .n32sat => satN ((a.toNat : Int) - b.toNat)

/-- SAT when a result was clamped. -/
def satFlag (c : Bool) : BitVec 6 := if c then fSAT else fNone

/-- A result word with no flag. -/
def plain (w : Word) : Word × BitVec 6 := (w, fNone)

/-- A rounded result as a register element: narrow formats are zero-extended (R79). -/
def Res.word (r : Res) : Word × BitVec 6 := (BitVec.ofNat 32 r.bits, r.flags)

end Sys2Proof.Machine
end

