-- ==== Sys2Proof/Machine/Operands.lean ====
section
/-!
DEFINITION. Sys2Proof/Machine/Operands.lean: the fragment that issues, its registers, every operand form (R11 to R18, R41
to R46), the writes under a mask (R16, R101, R144) and the register sets of an instruction (R52).
-/

namespace Sys2Proof.Machine

/-! ## The fragment that issues -/

/-- A slot of a wave. -/
def Wave.slotAt (w : Wave) (k : Nat) : Slot := if k = 0 then w.slot0 else w.slot1
/-- Change a slot of a wave. -/
def Wave.setSlotAt (w : Wave) (k : Nat) (x : Slot) : Wave :=
  if k = 0 then { w with slot0 := x } else { w with slot1 := x }
/-- The slot that issues (R128). -/
def Wave.slot (w : Wave) : Slot := w.slotAt w.cur
/-- The slot that issues. -/
def State.slot (s : State) : Slot := s.wave.slot
/-- Change the slot that issues. -/
def State.setSlot (s : State) (x : Slot) : State := { s with wave := s.wave.setSlotAt s.wave.cur x }
/-- `exec` of the issuing fragment. -/
def State.exec (s : State) : Dword := s.slot.mask
/-- The program counter of the issuing fragment. -/
def State.pc (s : State) : Word := s.slot.pc
/-- Set the program counter of the issuing fragment. -/
def State.setPc (s : State) (pc : Word) : State := s.setSlot { s.slot with pc := pc }

/-! ## Frames (R17, R19) -/

/-- The key of the frame at a depth of a slot: slot 1's own frames lie above the split (R19, R294). -/
def Wave.frameKey (w : Wave) (k depth : Nat) : Nat := if k = 1 && w.top.sdepth < depth then 64 + depth else depth
/-- The key of a slot's current frame. -/
def Wave.curKey (w : Wave) (k : Nat) : Nat := w.frameKey k (w.slotAt k).depth
/-- The key of the issuing fragment's frame. -/
def State.frameKey (s : State) : Nat := s.wave.curKey s.wave.cur
/-- No frame. -/
def Frame.off : Frame := ⟨0, 0, [], false, []⟩
/-- A frame of the wave. -/
def Wave.frame (w : Wave) (key : Nat) : Frame := mgetD w.frames key .off
/-- The issuing fragment's frame. -/
def State.frame (s : State) : Frame := s.wave.frame s.frameKey

/-! ## Vector registers (R17, R18, R44) -/

/-- Read a vector register in the frame with the given key. -/
def Wave.vget (w : Wave) (key : Nat) : VReg → Lanes
  | .v n => (w.frame key).regs.getD n (Lanes.fill 0)
  | .a n => w.aregs.toArray.getD n (Lanes.fill 0)

/-- Write all lanes of a vector register in the frame with the given key. -/
def Wave.vset (w : Wave) (key : Nat) (r : VReg) (x : Lanes) : Wave :=
  match r with
  | .v n => { w with frames := mmod w.frames key (fun f => { f with regs := f.regs.set n x }) }
  | .a n => { w with aregs := Vector.ofFn (fun i : Fin 7 => if i.val = n then x else w.aregs.get i) }

/-- Read a vector register. -/
def State.vget (s : State) (r : VReg) : Lanes := s.wave.vget s.frameKey r

/-- Write the lanes of a mask in a vector register (R144). -/
def State.vput (s : State) (m : Dword) (r : VReg) (x : Lanes) : State :=
  { s with wave := s.wave.vset s.frameKey r (merge m x (s.vget r)) }

/-- Write the active lanes of a vector register (R144). -/
def State.vset (s : State) (r : VReg) (x : Lanes) : State := s.vput s.exec r x

/-- The register k places after a register of its file. -/
def vplus (r : VReg) (k : Nat) : VReg :=
  match r with
  | .v n => .v (n + k)
  | .a n => .a (n + k)

/-- The value of a single vector source (R42, R44). -/
def State.vsrc (s : State) : VSrc → Lanes
  | .reg r => s.vget r
  | .lit x => Lanes.fill x

/-! ## Scalar registers (R11 to R14) -/

/-- s58 (R13). -/
def State.s58 (s : State) : Word := BitVec.ofNat 32 ((s.grp.waves - 1) % 256 * 256 + s.wave.index % 256)
/-- s61 (R14). -/
def State.s61 (s : State) : Word := BitVec.ofNat 32 (s.hub.config.device % 65536 * 65536 + s.wave.core % 512)

/-- Read a scalar register (R11). -/
def State.sget (s : State) (n : SReg) : Word :=
  if n < 56 then s.wave.sregs.toArray.getD n 0
  else if n = 56 then loWord s.exec
  else if n = 57 then hiWord s.exec
  else if n = 58 then s.s58
  else if n = 59 then s.grp.gid
  else if n = 60 then s.grp.lid
  else if n = 61 then s.s61
  else 0

/-- Replace the mask of the issuing fragment. -/
def State.setMask (s : State) (m : Dword) : State := s.setSlot { s.slot with mask := m }

/-- Write `exec`: ANDed with the lanes that entered the level (R16, R101). -/
def State.setExec (s : State) (x : Dword) : State := s.setMask (x &&& s.slot.level)

/-- Write a scalar register (R12, R101). -/
def State.sset (s : State) (n : SReg) (x : Word) : State :=
  if n < 56 then
    { s with wave :=
      { s.wave with sregs := Vector.ofFn (fun i : Fin 56 => if i.val = n then x else s.wave.sregs.get i) } }
  else if n = 56 then s.setMask (pairOf (x &&& loWord s.slot.level) (hiWord s.exec))
  else if n = 57 then s.setMask (pairOf (loWord s.exec) (x &&& hiWord s.slot.level))
  else s

/-- Read a pair (R45). -/
def State.pget (s : State) (p : SPair) : Dword := pairOf (s.sget p) (s.sget (p + 1))

/-- Write a pair (R45, R101). -/
def State.pset (s : State) (p : SPair) (x : Dword) : State :=
  if p = 56 then s.setExec x else (s.sset p (loWord x)).sset (p + 1) (hiWord x)

/-- The value of a scalar source (R42). -/
def State.ssrc (s : State) : SSrc → Word
  | .reg n => s.sget n
  | .lit x => x

/-! ## Register sets (R17, R52) -/

/-- The names of a range of vector registers in the frame with the given key. -/
def rangeNames (key : Nat) (r : VReg) (k : Nat) : List RegName :=
  (List.range k).map (fun i => match vplus r i with | .v n => .v key n | .a n => .a n)

/-- The names of scalar registers that can be written. -/
def scalarNames (l : List SReg) : List RegName := (l.filter (· < 58)).map .s

/-- The name list of a pair. -/
def pairRegs (p : SPair) : List SReg := [p, p + 1]

/-- Operands that are sources of a lane set instruction: it also reads `exec` (R100). -/
def laneSet (i : Instr) : Bool :=
  match encodeWord i with
  | some w => decide (w < 2 ^ 31)
  | none => false

/-- Registers that an instruction writes: the result of R52. -/
def opResults (o : Operands) (key : Nat) : List RegName :=
  o.vd.flatMap (fun p => rangeNames key p.1 p.2) ++ (o.acc.map (fun r => rangeNames key r 64)).getD [] ++
  scalarNames o.sd ++ scalarNames (o.pd.flatMap pairRegs)

/-- Registers that an instruction reads. -/
def opSources (o : Operands) (key : Nat) : List RegName :=
  o.vr.flatMap (fun p => rangeNames key p.1 p.2) ++
  o.vs.flatMap (fun x => match x with | .reg r => rangeNames key r 1 | .lit _ => []) ++
  scalarNames (o.ss.flatMap (fun x => match x with | .reg n => [n] | .lit _ => [])) ++
  scalarNames (o.ps.flatMap pairRegs)

/-- The instruction reads the issuing fragment's mask: the lane set, MSETX, and what acts on the active lanes (R100, R121,
R123, R126). -/
def readsExec (i : Instr) : Bool :=
  laneSet i || (match i with
    | .msetx _ _ | .brd _ _ _ | .brdn _ _ _ | .join | .exit => true
    | _ => false)

/-- The instruction accesses memory: what an acquire before it holds back (R262, R269). -/
def accesses : Instr → Bool
  | .lds _ _ _ _ _ _ | .sts _ _ _ _ _ _ | .ldw _ _ _ _ _ _ | .stw _ _ _ _ _ _ | .ldsu _ _ _ _ _ _ | .ldres _ _ _ _ _
  | .stcond _ _ _ _ _ | .ats _ _ _ _ _ _ | .atw _ _ _ _ _ _ | .sld _ _ _ | .sst _ _ _ | .bcopy _ _ _ | .bcopyp _ _ _
  | .gather _ _ _ | .scatter _ _ _ _ | .gatom _ _ _ _ _ _ _ | .gchunk _ _ | .coll _ _ _ | .mloadw _ _ _ | .mstream _ _ _ _ _
  | .mstreamc _ _ _ _ _ | .waitaddr _ _ _ _ _ | .barinit _ _ | .bararr _ _ _ | .bararw _ _ _ | .barwait _ _ _ | .semacq _ _ _
  | .semtry _ _ _ | .sempost _ _ _ | .enq _ _ _ | .enqn _ _ _ | .launch _ _ _ | .chimechk _ _ => true
  | _ => false

/-- Registers that an instruction reads or writes, `exec` among them. -/
def touched (i : Instr) (key : Nat) : List RegName :=
  let o := i.operands
  let ex := readsExec i
  opResults o key ++ opSources o key ++ (if ex then [.s 56, .s 57] else [])

/-- Every vector register of the current frame that the operands name lies in it (R17). -/
def opInFrame (o : Operands) (blocks : Nat) : Bool :=
  let ok (r : VReg) (k : Nat) : Bool := match r with | .v n => n + k ≤ 8 * blocks | .a _ => true
  o.vd.all (fun p => ok p.1 p.2) && o.vr.all (fun p => ok p.1 p.2) && o.acc.all (fun r => ok r 64) &&
  o.vs.all (fun x => match x with | .reg r => ok r 1 | .lit _ => true)

/-- The lookahead field L of an instruction (R52). -/
def lookahead : Instr → Nat
  | .vrcp _ _ _ l | .vrsq _ _ _ l | .vsqrt _ _ _ l | .vlog2 _ _ _ l | .vsin _ _ _ l | .vcos _ _ _ l
  | .vtanh _ _ _ l | .vexp2s _ _ _ l | .vredadd _ _ _ l | .vredmin _ _ _ l | .vredmax _ _ _ l
  | .vargmin _ _ _ l | .vargmax _ _ _ l | .vscan _ _ _ _ l | .vcompress _ _ _ l | .vexpand _ _ _ l
  | .lds _ _ _ _ _ l | .ldw _ _ _ _ _ l | .ldsu _ _ _ _ _ l | .ldres _ _ _ _ l | .ats _ _ _ _ _ l
  | .atw _ _ _ _ _ l | .mstream _ _ _ _ l | .mstreamc _ _ _ _ l | .mzeroacc _ l => l.toNat
  | _ => 0

end Sys2Proof.Machine
end

