-- ==== Sys2Proof/Machine/Records.lean ====
section
/-!
DEFINITION. Sys2Proof/Machine/Records.lean: the machine's focus, notifications (R371, R372), fault records and the fault
queue (R283 to R285).
-/

namespace Sys2Proof.Machine

/-! ## The focus

An instruction acts on `wave` and `grp`; device events act on a state in which every wave and group is in its map. -/

/-- Put the wave and group in focus back among the others. -/
def State.unfocus (s : State) : State :=
  if s.wave.name = 0 then s
  else { s with
    waves := mset s.waves s.wave.name s.wave, groups := mset s.groups s.grp.name s.grp, wave := .off, grp := .off }

/-- Take a wave and its group into focus. -/
def State.focus (s : State) (w : Nat) : State :=
  match mget s.waves w with
  | none => s
  | some x =>
      match mget s.groups x.group with
      | none => s
      | some g => { s with wave := x, grp := g, waves := mdel s.waves w, groups := mdel s.groups x.group }

/-- Do something to the device as a whole, and come back to the wave in focus. -/
def State.device (s : State) (f : State → State) : State := (f s.unfocus).focus s.wave.name

/-- All waves, the one in focus among them. -/
def State.allWaves (s : State) : List Wave := (if s.wave.name = 0 then [] else [s.wave]) ++ s.waves.map Prod.snd
/-- All groups, the one in focus among them. -/
def State.allGroups (s : State) : List Group := (if s.wave.name = 0 then [] else [s.grp]) ++ s.groups.map Prod.snd
/-- Change every wave. -/
def State.mapWaves (s : State) (f : Wave → Wave) : State :=
  { s with wave := if s.wave.name = 0 then s.wave else f s.wave, waves := s.waves.map (fun p => (p.1, f p.2)) }
/-- A wave by its name. -/
def State.waveAt (s : State) (n : Nat) : Option Wave :=
  if s.wave.name = n && n != 0 then some s.wave else mget s.waves n
/-- A group by its name. -/
def State.groupAt (s : State) (n : Nat) : Option Group :=
  if s.grp.name = n && n != 0 then some s.grp else mget s.groups n
/-- Change a wave. -/
def State.modWave (s : State) (n : Nat) (f : Wave → Wave) : State :=
  if s.wave.name = n && n != 0 then { s with wave := f s.wave } else { s with waves := mmod s.waves n f }
/-- Change a group. -/
def State.modGroup (s : State) (n : Nat) (f : Group → Group) : State :=
  if s.grp.name = n && n != 0 then { s with grp := f s.grp } else { s with groups := mmod s.groups n f }
/-- Change a context. -/
def State.modCtx (s : State) (n : Nat) (f : Ctx → Ctx) : State := { s with ctxs := mmod s.ctxs n f }
/-- A new name (the model's own). -/
def State.fresh (s : State) : State := { s with names := s.names + 1 }

/-! ## Room for a group's image (R291, R292) -/

/-- The cores that a group occupies, in CORE order. -/
def Group.cores (g : Group) : List Nat := if g.cluster then (List.range 4).map (g.core0 / 4 * 4 + ·) else [g.core0]

/-- The waves of a group, in logical order. -/
def State.groupWaves (s : State) (g : Nat) : List Wave :=
  let ws := s.allWaves.filter (fun w => w.group == g)
  (List.range 192).flatMap (fun i => ws.filter (fun w => w.index == i))

/-- Bytes of a wave record with what follows it. -/
def Wave.imageBytes (w : Wave) : Nat :=
  3584 + 64 * (w.slot0.stk.length + w.slot1.stk.length) + 2048 * (w.frames.map (fun p => p.2.blocks)).sum

/-- Bytes of a core section. -/
def Group.coreBytes (g : Group) : Nat := g.spadSize + 512 + if g.matrix then 34880 else 0

/-- The most bytes that the image of a group can take now. -/
def State.imageRoom (s : State) (g : Group) : Nat :=
  64 + ((s.groupWaves g.name).map Wave.imageBytes).sum + g.cores.length * g.coreBytes +
    (s.ops.map (fun o => if o.group != g.name then 0 else match o.cls with
      | .bcopy => 192
      | .gather => 1920
      | _ => 0)).sum

/-- A range of a save area is free. -/
def roomAt (used : List (Nat × Nat)) (total len off : Nat) : Bool :=
  off + len ≤ total && used.all (fun u => off + len ≤ u.1 || u.1 + u.2 ≤ off)

/-- An offset at which an image fits into a save area: the launcher's choice (log 10), if any fits. -/
def pickRoom (choice total len : Nat) (used : List (Nat × Nat)) : Option Nat :=
  let up (n : Nat) : Nat := (n + 63) / 64 * 64
  ((choice / 64 * 64) :: 0 :: used.map (fun u => up (u.1 + u.2))).find? (roomAt used total len)

/-- Reserve room for a group's image in its context's save area: the group then names it. -/
def State.takeRoom (s : State) (g : Group) : State × Bool :=
  match mget s.ctxs g.ctx with
  | none => (s, false)
  | some c =>
      let len := s.imageRoom g
      let total := c.saveKib * 1024
      match pickRoom (Config.imageOffset s.oracle total len) total len c.saveUsed with
      | none => (s, false)
      | some off =>
          let s := s.modCtx c.id (fun c => { c with saveUsed := (off, len) :: c.saveUsed })
          let s := s.modGroup g.name (fun g => { g with image := c.saveBase + BitVec.ofNat 64 off, imageLen := len })
          ({ s with oracle := s.oracle + 1 }, true)

/-- Free the room of a group's image. -/
def State.freeRoom (s : State) (g : Group) : State :=
  let s := s.modCtx g.ctx (fun c =>
    { c with saveUsed := c.saveUsed.filter (fun u => c.saveBase + BitVec.ofNat 64 u.1 != g.image), noVictim := false })
  s.modGroup g.name (fun g => { g with image := 0, imageLen := 0 })

/-! ## The fault queue's control block (R285) -/

/-- Read the control block of a context's fault queue; `none` when it cannot be read. -/
def State.fqBlock (s : State) (c : Ctx) : State × Option Nat :=
  let (s, r) := s.gread 0 none c.id c.fqBase.toNat 64
  match r with
  | .ok b => (s, some (leNat b))
  | .error _ => (s, none)

/-- Add 1 to a word that may be written, though it may not be read (R285). -/
def State.bumpWord (s : State) (ctx va : Nat) : State :=
  match s.homeLine 0 ctx (va / 128) .wr false with
  | (s, .ok x) =>
      (s.writeLine 0 none ctx (va / 128) (va % 128) (leBytes 4 (leNat ((x.data.drop (va % 128)).take 4) + 1)) false .wr).1
  | (s, .error _) => s

/-- Add 1 to DROPPED (R285, R371): also where the control block cannot be read, if it can be written. -/
def State.fqDrop (s : State) (ctx : Nat) : State :=
  match mget s.ctxs ctx with
  | none => s
  | some c => s.bumpWord ctx (c.fqBase.toNat + 8)

/-! ## Notifications (R371, R372) -/

/-- A queue pair's key. -/
def qpKey (part qp : Nat) : Nat := part * 256 + qp

/-- The 32 bytes of a notification. -/
def noteBytes (time : Nat) (causal : Dword) (id part ctx kind : Nat) : List Byte :=
  leBytes 32 (time % 2 ^ 64 * 2 ^ 192 + causal.toNat * 2 ^ 128 + id % 2 ^ 32 * 2 ^ 96 + part * 2 ^ 44 + ctx * 2 ^ 32 + kind)

/-- An RDMA operation counts against MAX_RD: a read or a fetch-add. -/
def HostOp.reads (o : HostOp) : Bool := o.kind == 1 || o.kind == 2

/-- The first operation of a queue pair that is not posted yet, if it may be: reads and atomics outstanding stay within
MAX_RD, and operations are posted in order (R398). -/
def State.postable (s : State) (q : QpRef) : Option HostOp :=
  let mine := s.hostOps.filter (fun o => o.qp == q)
  let busy := (mine.filter (fun o => o.out && o.reads)).length
  match mget s.qps (qpKey q.part q.qp), mine.find? (fun o => !o.out) with
  | some p, some o => if p.state != .ready || p.rnrTill.isSome || (o.reads && p.maxRd ≤ busy) then none else some o
  | _, _ => none

/-- Post what may be posted on a queue pair. -/
def State.postQp : Nat → State → QpRef → State
  | 0, s, _ => s
  | n + 1, s, q =>
      match s.postable q with
      | none => s
      | some o =>
          let o' := { o with out := true, sent := s.time }
          State.postQp n { s with
            hostOps := lmod (fun x => x.name == o.name) (fun _ => o') s.hostOps
            outbox := s.outbox ++ [.rdma o'] } q

/-- Send an RDMA operation of the device. -/
def State.hostSend (s : State) (u : HostUse) (part qp kind : Nat) (va : Dword) (rkey : Word) (len : Nat)
    (data : List Byte) (imm : Word) : State :=
  let o : HostOp := ⟨s.names, u, ⟨part, qp⟩, kind, va, rkey, len, data, imm, s.time, false⟩
  let s := { s.fresh with hostOps := s.hostOps ++ [o] }
  s.postQp s.hostOps.length ⟨part, qp⟩

/-- Write a notification record into the host's ring. -/
def State.notePut (s : State) (c : Ctx) (ring : Dword) (log2 qp : Nat) (b : List Byte) : State :=
  let s := s.hostSend (.notification c.id) c.part qp 3 (ring + BitVec.ofNat 64 (32 * (c.notified % 2 ^ log2))) 0 32 b
    (BitVec.ofNat 32 (c.notified + 1))
  s.modCtx c.id (fun c => { c with notified := c.notified + 1 })

/-- Send a notification of a context: written, or CONSUMED is read first when the ring looks full, or dropped. One
that comes while CONSUMED is being read goes behind it. -/
def State.notify (s : State) (ctx kind id : Nat) (causal : Dword) : State :=
  match mget s.ctxs ctx with
  | none => s
  | some c =>
      match c.notify with
      | none => s.fqDrop ctx
      | some (ring, log2, qp) =>
          let b := noteBytes s.time causal id c.part ctx kind
          if (mget s.qps (qpKey c.part qp)).map Qp.state != some .ready then s.fqDrop ctx
          else if 2 ^ log2 ≤ (c.notified + 2 ^ 32 - c.consumed) % 2 ^ 32 || s.hostOps.any (fun o => o.use == .consumed ctx) then
            s.hostSend (.consumed ctx) c.part qp 1 (ring + BitVec.ofNat 64 (32 * 2 ^ log2)) 0 4 b 0
          else s.notePut c ring log2 qp b

/-! ## Fault records (R283, R284) -/

/-- A fault record: the common fields and bits [511:256]. -/
structure FaultRec where
  kind    : Nat
  ctx     : Nat
  part    : Nat
  grp     : Word
  precise : Bool
  parked  : Bool
  caught  : Bool
  slot    : Nat
  wave    : Nat
  code    : Nat
  pc      : Word
  causal  : Dword
  time    : Nat
  hi      : Nat
  /-- the parent of CAUSAL, for the event (R375) -/
  parent  : Dword
deriving DecidableEq, Repr

/-- 1 or 0. -/
def b2n (b : Bool) : Nat := if b then 1 else 0

/-- The 64 bytes of a fault record. -/
def FaultRec.bytes (r : FaultRec) : List Byte :=
  leBytes 64 (r.time % 2 ^ 64 + r.causal.toNat * 2 ^ 64 + r.pc.toNat * 2 ^ 128 + r.code * 2 ^ 160 + r.wave * 2 ^ 176 +
    r.slot * 2 ^ 184 + b2n r.caught * 2 ^ 185 + b2n r.parked * 2 ^ 186 + b2n r.precise * 2 ^ 187 + r.part * 2 ^ 188 +
    r.ctx * 2 ^ 192 + r.kind * 2 ^ 204 + r.grp.toNat * 2 ^ 224 + r.hi * 2 ^ 256)

/-- Bits [511:256] of KIND 0, 1 and 3. -/
def hiFault (maskA maskB addr : Dword) (lid : Word) (info : Nat) : Nat :=
  maskA.toNat + maskB.toNat * 2 ^ 64 + addr.toNat * 2 ^ 128 + lid.toNat * 2 ^ 192 + info % 2 ^ 16 * 2 ^ 224

/-- Bits [511:256] of KIND 2: the record's header bits [63:0], its first payload bytes, position and node. -/
def hiTask (headerLo : Dword) (payload : Nat) (position node : Nat) : Nat :=
  headerLo.toNat + payload % 2 ^ 128 * 2 ^ 64 + position % 2 ^ 32 * 2 ^ 192 + node % 2 ^ 16 * 2 ^ 224

/-- Write a fault record to its context's queue (R285); `unit` raises the 0x0305 event. The writes never park. -/
def State.faultWrite (s : State) (unit : Nat) (r : FaultRec) : State :=
  match mget s.ctxs r.ctx with
  | none => s
  | some c =>
      let event (s : State) (dropped : Bool) : State :=
        s.emitN r.part unit 0x0305 r.causal r.parent (r.code + b2n dropped * 65536)
      let (s, q) := s.fqBlock c
      match q with
      | none => event (s.fqDrop r.ctx) true
      | some cb =>
          let base := c.fqBase.toNat
          let tail := bits cb 31 0
          let log2 := bits cb 103 96
          let full := (tail + 2 ^ 32 - bits cb 63 32) % 2 ^ 32 == 2 ^ log2
          -- a reserved field that is not zero makes the queue unusable (R4; log 70)
          if log2 = 0 || 16 < log2 || cb / 2 ^ 104 % 2 ^ 408 != 0 || full then event (s.fqDrop r.ctx) true
          else
            let (s, w) := s.gwrite r.causal none r.ctx (base + 64 + 64 * (tail % 2 ^ log2)) r.bytes false
            match w with
            | .error _ => event (s.fqDrop r.ctx) true
            | .ok () =>
                let (s, w) := s.gwrite r.causal none r.ctx base (leBytes 4 (tail + 1)) false
                match w with
                | .error _ => event s true
                | .ok () => (event s.applyNotices false).notify r.ctx 3 ((tail + 1) % 2 ^ 32) r.causal

end Sys2Proof.Machine
end

