-- ==== Sys2Proof/Machine/Ops.lean ====
section
/-!
DEFINITION. Sys2Proof/Machine/Ops.lean: the shared operations of instructions: reservations, waits, unwinding (R139), taking
a trap (R276 to R281, R287) and the issue of an instruction with its checks (R52, R53, R59, R278).
-/

namespace Sys2Proof.Machine

/-! ## Reservations (R181) -/

/-- Clear every reservation on the 64-byte granules of the scratchpad bytes [a, a + n). -/
def Wave.breakResv (a n : Nat) (w : Wave) : Wave :=
  if w.resv.toList.all (· == none) then w
  else { w with resv := vmap (fun r => match r with
    | some g => if a / 64 ≤ g && g ≤ (a + n - 1) / 64 then none else some g
    | none => none) w.resv }

/-- Clear all reservations of a wave. -/
def Wave.clearResv (w : Wave) : Wave := { w with resv := Vector.replicate 64 none }

/-- The address of a scratchpad byte over the package: core and offset. -/
def spadAddr (core off : Nat) : Nat := core * 2 ^ 20 + off

/-- Read scratchpad bytes. -/
def State.spadGet (s : State) (a n : Nat) : List Byte := cread 0 s.spad a n

/-- Write scratchpad bytes: every reservation on their granules is cleared (R181). -/
def State.spadPut (s : State) (a : Nat) (b : List Byte) : State :=
  { s.mapWaves (Wave.breakResv a b.length) with spad := cwrite 0 s.spad a b }

/-! ## Waits -/

/-- The issue stage's unit of the wave in focus. -/
def State.issueUnit (s : State) : Nat := unitCore s.wave.core 0

/-- Begin a wait of R257: its identifier and start (R375, R386). -/
def State.beginWait (s : State) : State :=
  let s := s.setSlot { s.slot with since := s.time, waitId := s.nextId s.issueUnit }
  s.bumpId s.issueUnit

/-- A fragment may issue: it is valid and not parked. -/
def Slot.ready (f : Slot) : Bool := f.valid && f.park == .no

/-- The wave can issue nothing until something wakes it: it is halted or over, or every fragment is parked. -/
def Wave.blocked (w : Wave) : Bool :=
  match w.life with
  | .waiting => false
  | .running => w.halted || !(w.slot0.ready || w.slot1.ready)
  | .stopped | .done => true

/-- A switch point of ordered mode on the core of the wave in focus, which is current there: the lowest logical wave of the group
on that core that is not parked becomes current, and none when all are parked (R321). -/
def State.switchPoint (s : State) : State :=
  if s.grp.ordered && mget s.grp.current s.wave.core == some s.wave.index then
    let ws := (s.allWaves.filter (fun w => w.group == s.grp.name && w.core == s.wave.core && !w.blocked)).map Wave.index
    let cur := match ws with
      | [] => mdel s.grp.current s.wave.core
      | i :: is => mset s.grp.current s.wave.core (is.foldl min i)
    { s with grp := { s.grp with current := cur } }
  else s

/-- The parks that are switch points (R321). -/
def Park.switches : Park → Bool
  | .frame _ | .barrier _ _ _ | .sem _ _ _ _ | .waitaddr _ _ _ _ _ _ _ | .halt => true
  | .no | .topJoin | .count _ _ _ | .sleep _ => false

/-- Start the straggler watch of the frame wait that the issuing fragment begins (R326, R390). -/
def State.frameWatch (s : State) : State :=
  let us := ((mget s.ctxs s.grp.ctx).map (fun c => c.watchFrm.toNat)).getD 0
  { s with watches := s.watches ++
    [⟨4, s.wave.name, s.wave.cur, s.grp.ctx, s.time + 16000 * us, s.slot.waitId, s.grp.start, false, [], [], false⟩] }

/-- The straggler watch of a frame wait. -/
def Watch.onFrame (x : Watch) (wave slot : Nat) : Bool := x.kind == 4 && x.subject == wave && x.sub2 == slot

/-- Assign an identifier that an instruction took as it issued, if that has not been done. -/
def State.claimId (s : State) (id : Dword) : State := if s.nextId s.issueUnit = id then s.bumpId s.issueUnit else s

/-- Park the issuing fragment under the identifier that its instruction took as it issued. -/
def State.parkAs (s : State) (p : Park) (id : Dword) : State :=
  let s := (s.claimId id).setSlot { s.slot with park := p, resAge := 16, since := s.time, waitId := id }
  if p.switches then s.switchPoint else s

/-- Park the issuing fragment (R128); every park but SLEEPC's is a wait of R257. A park ends the deferral of a pre-emption
(R182). -/
def State.park (s : State) (p : Park) : State :=
  let s := s.setSlot { s.slot with park := p, resAge := 16 }
  let s := match p with
    | .sleep _ => s
    | .frame _ => s.beginWait.frameWatch
    | _ => s.beginWait
  if p.switches then s.switchPoint else s

/-- The instruction does not issue yet; waits for an engine or the matrix queue are waits of R257. -/
def State.stallOn (s : State) (w : Stall) : State :=
  if s.slot.stall = w then s
  else
    let s := s.setSlot { s.slot with stall := w }
    match w with
    | .engine _ | .matrixQueue => s.beginWait
    | .no | .result | .order | .page _ | .refetch _ | .remote _ | .got _ _ _ => s

/-! ## Operations in flight -/

/-- Registers that an operation will still write (R52, R202, R203, R221): those of a GATOM, a GCHUNK or a chime check are
written as it completes in class order, those of a matrix instruction as it ends its work. -/
def EngineOp.pending (o : EngineOp) : List RegName :=
  match o.kind with
  | .gatom g =>
      if g.ret then rangeNames g.frame g.reg ((if g.op == .cas then 2 else 1) * (if g.w64 then 2 else 1)) else []
  | .gchunk g => scalarNames (pairRegs g.sd)
  | .chime c => scalarNames [c.sd]
  | .mat m => if m.kind == 0 || o.state == .done then [] else rangeNames m.frame (.v m.vd) 64
  | _ => []

/-- The register that a parked fragment's wait will write. -/
def Park.pending : Park → List RegName
  | .barrier _ _ sd | .sem _ _ _ sd | .waitaddr _ _ _ _ sd _ _ => if sd < 56 then [.s sd] else []
  | _ => []

/-- The registers with a write pending, as the issuing fragment names them: `exec` is its own. -/
def State.pendingRegs (s : State) : List RegName :=
  s.wave.slot0.park.pending ++ s.wave.slot1.park.pending ++
  s.ops.flatMap (fun o =>
    if o.wave = s.wave.name then
      o.pending.filter (fun r => match r with
        | .s n => n < 56 || o.slot == s.wave.cur
        | _ => true)
    else [])

/-- A write to a frame of the wave with a key in the list is pending. -/
def State.framePending (s : State) (keys : List Nat) : Bool :=
  s.ops.any (fun o => o.wave == s.wave.name && o.pending.any (fun r => match r with
    | .v k _ => keys.contains k
    | _ => false))

/-! ## Unwinding (R139) -/

/-- Write a scalar register for a fragment of a wave: `exec` is that fragment's own (R12, R101). -/
def Wave.sput (w : Wave) (k n : Nat) (x : Word) : Wave :=
  let f := w.slotAt k
  if n < 56 then { w with sregs := Vector.ofFn (fun i : Fin 56 => if i.val = n then x else w.sregs.get i) }
  else if n = 56 then w.setSlotAt k { f with mask := pairOf (x &&& loWord f.level) (hiWord f.mask) }
  else if n = 57 then w.setSlotAt k { f with mask := pairOf (loWord f.mask) (x &&& hiWord f.level) }
  else w

/-- End the park of a fragment: it goes on after its word. -/
def Wave.wake (w : Wave) (k : Nat) : Wave :=
  let f := w.slotAt k
  w.setSlotAt k { f with park := .no, pc := f.after, rewait := none }

/-- The head acquirers that a count serves, with what each leaves (R243). -/
def serveQueue : Nat → List SemWait → Nat × List (SemWait × Nat) × List SemWait
  | c, [] => (c, [], [])
  | c, w :: ws =>
      if w.n ≤ c then
        let (c', sv, r) := serveQueue (c - w.n) ws
        (c', (w, c - w.n) :: sv, r)
      else (c, [], w :: ws)

/-- `serve` of a semaphore (R243). -/
def State.serve (s : State) (core k : Nat) : State :=
  match mget s.cores core with
  | none => s
  | some c =>
      match mget c.sems k with
      | none => s
      | some (n, q) =>
          let (n, served, rest) := serveQueue n q
          let s := { s with cores := mset s.cores core { c with sems := mset c.sems k (n, rest) } }
          served.foldl (fun s p => s.modWave p.1.wave (fun w =>
            (w.sput p.1.slot p.1.sd (BitVec.ofNat 32 p.2)).wake p.1.slot)) s

/-- Take a fragment out of the queues of its core's semaphores, which then serve again (R244), and end the watch of its
frame wait. -/
def State.dropWaiter (s : State) (wave slot : Nat) : State :=
  let s := { s with watches := s.watches.filter (fun x => !x.onFrame wave slot) }
  match s.waveAt wave with
  | none => s
  | some w =>
      match mget s.cores w.core with
      | none => s
      | some c =>
          let mine (x : SemWait) : Bool := x.wave == wave && x.slot == slot
          let hit := c.sems.filter (fun p => p.2.2.any mine)
          let c' := { c with sems := c.sems.map (fun p => (p.1, p.2.1, p.2.2.filter (fun x => !mine x))) }
          let s := { s with cores := mset s.cores w.core c' }
          hit.foldl (fun s p => s.serve w.core p.1) s

/-- Depths above the mark, up to d. -/
def depthsAbove (m d : Nat) : List Nat := (List.range (d + 1)).filter (m < ·)

/-- Slot 0's entries below the top split, and the fragment's entries above it. -/
def Wave.stkParts (w : Wave) (k : Nat) : List StkEntry × List StkEntry :=
  if w.top.pending then
    if k = 0 then (w.slot0.stk.take w.top.hbase, w.slot0.stk.drop w.top.hbase)
    else (w.slot0.stk.take w.top.hbase, w.slot1.stk)
  else ((w.slotAt k).stk, [])

/-- The top split is among the splits that an unwind to the mark discards. -/
def Wave.topUnwound (w : Wave) : Bool := w.top.pending && w.mark < w.top.sdepth

/-- EXPECT and OUTER of the outermost split that an unwind discards. -/
def Wave.outermost (w : Wave) (k : Nat) : Option (Dword × Dword) :=
  let (base, upper) := w.stkParts k
  let first (l : List StkEntry) := (l.find? (fun e => w.mark < e.fdepth)).map (fun e => (e.expect, e.outer))
  match first base with
  | some x => some x
  | none => if w.topUnwound then some (w.top.expect, w.top.outer) else first upper

/-- Keys of the frames that an unwind of slot k frees: above the mark, of the fragment, and of both fragments when the
top split is discarded. -/
def Wave.unwoundKeys (w : Wave) (k : Nat) : List Nat :=
  if w.topUnwound then
    depthsAbove w.mark 63 ++ (depthsAbove w.mark 63).map (64 + ·)
  else (depthsAbove w.mark (w.slotAt k).depth).map (w.frameKey k)

/-- Return from every frame above the mark (R139). -/
def Wave.unwind (w : Wave) (k : Nat) : Wave :=
  let f := w.slotAt k
  let (base, upper) := w.stkParts k
  let keep (l : List StkEntry) := l.filter (fun e => e.fdepth ≤ w.mark)
  let f := match w.outermost k with
    | none => f
    | some (expect, outer) => { f with mask := f.mask ||| (expect &&& w.live), level := outer &&& w.live }
  let f := { f with pc := (w.frame (w.frameKey k (w.mark + 1))).ret, depth := w.mark, park := .no, stall := .no, rewait := none }
  let frames := w.frames.filter (fun p => !(w.unwoundKeys k).contains p.1)
  if w.topUnwound then
    { w with slot0 := { f with stk := keep base, sbase := 0 }, slot1 := .off, top := .off, cur := 0, frames := frames }
  else
    { w.setSlotAt k { f with stk := (if k = 1 then keep upper else keep base ++ keep upper) } with frames := frames }

/-- Park the issuing fragment for a restore when the frame it now addresses is spilled (R324). -/
def State.needFrame (s : State) : State := if s.frame.spilled then s.park (.frame .restore) else s

/-- No frame has this key: where a result goes whose frame has been freed. -/
def noFrame : Nat := 128

/-- An operation of the wave after the wave's split table has changed: results for a freed frame have no place, and
after a release slot 0 stands for both fragments. -/
def EngineOp.rebind (o : EngineOp) (old new : Wave) : EngineOp :=
  if o.wave = new.name then
    let keep (k : Nat) : Nat := if (mget new.frames k).isSome then k else noFrame
    let o := if old.top.pending && !new.top.pending then { o with slot := 0 } else o
    match o.kind with
    | .gatom g => { o with kind := .gatom { g with frame := keep g.frame } }
    | .mat m => { o with kind := .mat { m with frame := keep m.frame } }
    | _ => o
  else o

/-- Put a wave whose split table has changed in focus; `needFrame` when a fragment now addresses a spilled frame. -/
def State.reshape (s : State) (w : Wave) : State :=
  let s := { s with wave := w, ops := s.ops.map (fun o => o.rebind s.wave w) }
  if w.slot.ready then s.needFrame else s

/-- Unwind the issuing fragment. What it waited for ends, and so does what the other fragment waited for when the top
split goes. -/
def State.unwind (s : State) : State :=
  let w := s.wave
  let s := s.dropWaiter w.name w.cur
  let s := if w.topUnwound then s.dropWaiter w.name (1 - w.cur) else s
  s.reshape (w.unwind w.cur)

/-! ## Traps (R276 to R281, R287) -/

/-- What raises a trap: its code, address, lane masks and INFO (R277, R284). -/
structure Raise where
  code  : Nat
  addr  : Dword := 0
  maskA : Dword := 0
  maskB : Dword := 0
  info  : Nat := 0
deriving DecidableEq, Repr

/-- The fault record of a trap of the wave in focus (R283, R284). -/
def State.trapRecord (s : State) (t : DelTrap) (caught : Bool) (addr maskB : Dword) : FaultRec where
  kind := t.kind
  ctx := s.grp.ctx
  part := s.grp.part
  grp := s.grp.gid
  precise := t.precise
  parked := false
  caught := caught
  slot := t.slot
  wave := s.wave.index
  code := t.code
  pc := t.pc
  causal := t.causal
  time := t.time
  parent := s.grp.start
  hi := if t.kind == 4 then t.digest else hiFault t.maskA maskB addr s.grp.lid t.info

/-- The code can be caught: class 1 to 7, and of class 6 only TRAP (R279). -/
def catchable (code : Nat) : Bool := 1 ≤ code / 256 && code / 256 ≤ 7 && (code / 256 != 6 || code == 0x0601)

/-- The trap is caught: its class bit is set, it can be caught and the fragment's depth is above the mark (R279). -/
def State.caught (s : State) (code : Nat) : Bool :=
  catchable code && s.wave.mark < s.slot.depth &&
    (match mget s.ctxs s.grp.ctx with
     | some c => c.catchMask.getLsbD (code / 256 - 1)
     | none => false)

/-- A copy serves a line by an ordinary fill (R198, R199). -/
def EngineOp.plainLine (line : Nat) (o : EngineOp) : EngineOp :=
  match o.kind with
  | .copy c => { o with kind := .copy { c with asked := c.asked.filter (· != line), plain := line :: c.plain } }
  | _ => o

/-- The enrolment with which a BCOPYP was issued has ended: its lines come by ordinary fills from now on (R198). -/
def EngineOp.leave (e : Enrol) (o : EngineOp) : EngineOp :=
  match o.kind with
  | .copy c =>
      if c.peal == some e.peal && o.core == e.core && o.group == e.group then { o with kind := .copy { c with left := true } } else o
  | _ => o

/-- A hold without a core that has left: its requests are dropped. -/
def Hold.without (h : Hold) (core : Nat) : Hold :=
  { h with expect := h.expect.filter (· != core), asked := h.asked.filter (fun a => a.core != core) }

/-- End one enrolment (R198): the core leaves the expected sets, its requests are dropped, the group's copies there go on by
ordinary fills, and late records of which no core is enrolled any more end. A hold whose remaining ringers have all asked is then due. -/
def State.endEnrol (s : State) (e : Enrol) : State :=
  let hit (h : Hold) : Bool := h.ctx == e.ctx && h.peal == e.peal
  let drops := (s.holds.filter hit).flatMap (fun h =>
    (h.asked.filter (fun a => a.core == e.core)).map (fun a => (a.op, h.line)))
  let enrols := s.enrols.filter (· != e)
  let inPeal (c : Nat) : Bool := enrols.any (fun x => x.ctx == e.ctx && x.peal == e.peal && x.core == c)
  { s with
    enrols := enrols
    holds := ((lmod hit (fun h => h.without e.core) s.holds)).filter (fun h => !(h.expect.isEmpty && h.asked.isEmpty))
    lates := s.lates.filter (fun l => !(l.ctx == e.ctx && l.peal == e.peal) || l.cores.any inPeal)
    ops := s.ops.map (fun o => drops.foldl (fun o d => if d.1 == o.name then o.plainLine d.2 else o) (o.leave e)) }

/-- End the group's enrolments in peals (R198). -/
def State.endEnrols (s : State) (group : Nat) : State :=
  (s.enrols.filter (fun e => e.group == group)).foldl State.endEnrol s

/-- A caught trap (R280): the record, reservations and enrolments, the unwinding, and a6 in the lanes of the mask. -/
def State.catchTrap (s : State) (t : DelTrap) : State :=
  let s := s.emitN s.grp.part s.issueUnit 0x0107 t.causal s.grp.start (t.code + 2 ^ 16)
  let s := if t.recorded then s else s.device (fun d => d.faultWrite s.issueUnit (s.trapRecord t true t.addr t.maskB))
  let s := { s with wave := s.wave.clearResv }
  let s := s.endEnrols s.grp.name
  let s := s.unwind
  s.vset (.a 6) (Lanes.fill (BitVec.ofNat 32 (2 ^ 31 + t.code)))

/-- A parked wait whose word issues again when its group goes on (R293). -/
def Slot.reissue (f : Slot) : Slot :=
  match f.park with
  | .count _ _ _ | .barrier _ _ _ | .sem _ _ _ _ | .waitaddr _ _ _ _ _ _ _ => { f with park := .no, stall := .no }
  | _ => f

/-- A fragment that traps while it waits leaves the queue it stands in (R244), and its word issues again. -/
def State.leaveWait (s : State) (k : Nat) : State :=
  let f := s.wave.slotAt k
  let s := match f.park with
    | .sem _ _ _ _ => s.dropWaiter s.wave.name k
    | _ => s
  { s with wave := s.wave.setSlotAt k (s.wave.slotAt k).reissue }

/-- A held trap (R281): room is reserved (R291) and the group begins its drain; the image, the records, the freeze and the
notification follow when the drain ends (PREEMPT_DRAIN_COMPLETE). -/
def State.holdTrap (s : State) (t : DelTrap) : State :=
  let s := s.emitN s.grp.part s.issueUnit 0x0107 t.causal s.grp.start (t.code + 2 ^ 17)
  let reason := if t.code = 0x0801 then 2 else 1
  let (s, st) : State × GState := match s.grp.state with
    | .draining r c room => (s, if r = 0 then .draining reason t.code room else .draining r c room)
    | .running | .ending =>
        let (s, room) := s.takeRoom s.grp
        (s, .draining reason t.code room)
    | st => (s, st)
  let s := s.leaveWait t.slot
  { s with
    wave := s.wave.clearResv
    grp := { s.grp with
      state := st
      heldAt := if s.grp.trapped.isEmpty then some s.cycles.toNat else s.grp.heldAt
      trapped := s.grp.trapped ++ [(s.wave.index, t)] } }

/-- Take a trap in the issuing fragment (R276). A trap that is caught waits for the pending writes to the frames that it
frees (R139). -/
def State.takeTrap (s : State) (t : DelTrap) : State :=
  if s.caught t.code then
    if s.framePending (s.wave.unwoundKeys s.wave.cur) then s.stallOn .result else s.catchTrap t
  else s.holdTrap t

/-- Words of the instruction at the program counter. -/
def sizeWord (i : Instr) : Word := BitVec.ofNat 32 i.words

/-- The trap that an instruction of an identifier raises, precisely (R60). -/
def State.trapOf (s : State) (words : Nat) (r : Raise) (id : Dword) : DelTrap :=
  let info := if r.code / 256 = 4 then s.grp.node else r.info
  let kind := if r.code / 256 = 7 then 1 else 0
  ⟨r.code, s.wave.cur, s.pc, id, kind, r.addr, r.maskA, r.maskB, info, true, words, 0, false, s.time⟩

/-- The trap of an instruction under the identifier that it took as it issued. -/
def State.raiseAs (s : State) (words : Nat) (r : Raise) (id : Dword) : State := (s.claimId id).takeTrap (s.trapOf words r id)

/-- The trap that an instruction raises, precisely, with a new identifier (R60, R375). -/
def State.raise (s : State) (words : Nat) (r : Raise) : State :=
  let t := s.trapOf words r (s.nextId s.issueUnit)
  if s.caught r.code && s.framePending (s.wave.unwoundKeys s.wave.cur) then s.stallOn .result
  else (s.bumpId s.issueUnit).takeTrap t

/-! ## Issue (R52, R53, R59, R278) -/

/-- The feature that an instruction belongs to is absent (R8). -/
def State.featureAbsent (s : State) : Instr → Bool
  | .pealjoin _ _ | .pealleave _ _ | .pealq _ _ | .bcopyp _ _ _ => !s.feature 0
  | _ => false

/-- The class 0x01 causes that the operands alone show: feature absent, out-of-frame register (R59). -/
def State.staticCause (s : State) (i : Instr) : Option Nat :=
  if s.featureAbsent i then some 0x0106
  else if !opInFrame i.operands s.frame.blocks then some 0x0107
  else none

/-- The results of the open windows of the issuing fragment. -/
def State.windowRegs (s : State) : List RegName := s.slot.windows.flatMap Window.regs

/-- One more instruction of the fragment has issued: windows close by count, and a wait for issue is over. -/
def Slot.ticked (f : Slot) : Slot :=
  { f with
    windows := (f.windows.map (fun w => { w with left := w.left - 1 })).filter (fun w => 0 < w.left)
    stall := .no
    resAge := min (f.resAge + 1) 16 }

/-- The issuing fragment has issued one more instruction. -/
def State.tick (s : State) : State := s.setSlot s.slot.ticked

/-- Open the window of an instruction with L > 0 (R52). -/
def State.openWindow (s : State) (i : Instr) (key : Nat) : State :=
  if lookahead i = 0 then s
  else s.setSlot { s.slot with windows := s.slot.windows ++ [⟨lookahead i, opResults i.operands key⟩] }

/-- Go to the next instruction in sequence (R41). -/
def State.nextPc (s : State) (i : Instr) : State := s.setPc (s.pc + sizeWord i)

/-- What issue finds before an instruction is performed. -/
inductive Check where
  | go
  | trap (r : Raise)
  | wait (w : Stall)
deriving DecidableEq, Repr

/-- An acquire of the wave that has not been performed, a GATOM's, holds back its later accesses (R269); that of a GATOM that fails
at a lane is performed as it completes. -/
def State.heldBack (s : State) (i : Instr) : Bool :=
  accesses i && s.ops.any (fun o => o.wave == s.wave.name && (match o.kind, o.state with
    | .gatom g, .going | .gatom g, .parked _ | .gatom g, .failed _ _ _ => acquires g.ord
    | _, _ => false))

/-- The checks of R59 and R278 in order. `c1`: the instruction's own class 0x01 causes; `c3`: its class 0x03 and 0x04
causes. A pending result outside the windows is waited for before register values are used. An instruction inside a window
traps on the window's registers also when their result has been written by then: latencies are not modelled, and the window
alone decides (R52; log 72). `free`: registers that need not wait (R221). -/
def State.check (s : State) (i : Instr) (c1 : State → Option Nat) (c3 : State → Option Raise) (free : List RegName) :
    Check :=
  match s.staticCause i with
  | some c => .trap { code := c }
  | none =>
      let regs := touched i s.frameKey
      let open_ := s.windowRegs
      if s.pendingRegs.any (fun r => regs.contains r && !open_.contains r && !free.contains r) then .wait .result
      else match c1 s with
        | some c => .trap { code := c }
        | none =>
            if open_.any (fun r => regs.contains r && !free.contains r) then .trap { code := 0x0201 }
            else match c3 s with
              | some r => .trap r
              | none => if s.heldBack i then .wait .order else .go

/-- Issue an instruction: check it, wait while `hold` says so, count it, and do `run`, which also sets the program
counter. -/
def State.issueHold (s : State) (i : Instr) (c1 : State → Option Nat) (c3 : State → Option Raise)
    (free : List RegName) (hold : State → Option Stall) (run : State → State) : State :=
  match s.check i c1 c3 free with
  | .trap r => s.raise i.words r
  | .wait w => s.stallOn w
  | .go =>
      match hold s with
      | some w => s.stallOn w
      | none => (run s.tick).openWindow i s.frameKey

/-- Issue an instruction that nothing else holds back. -/
def State.issueWith (s : State) (i : Instr) (c1 : State → Option Nat) (c3 : State → Option Raise)
    (free : List RegName) (run : State → State) : State :=
  s.issueHold i c1 c3 free (fun _ => none) run

/-- Issue an instruction without checks of its own and go on to the next (R41). -/
def State.issue (s : State) (i : Instr) (run : State → State) : State :=
  s.issueWith i (fun _ => none) (fun _ => none) [] (fun s => (run s).nextPc i)

/-- The outcome of an operation that always has a next state. -/
abbrev Out := Host.Outcome State Fault Refusal

/-- A device event: it happens when its condition holds. -/
def gate (name : String) (ready : Bool) (s : State) : Out :=
  if ready then .next s else .refused (.notEnabled name)

end Sys2Proof.Machine
end

