-- ==== Sys2Proof/Machine/Scratch.lean ====
section
/-!
DEFINITION. Sys2Proof/Machine/Scratch.lean: scratchpad addresses (R32), their bounds (R33, R172) and the shared forms of
scratchpad access (R177, R178).
-/

namespace Sys2Proof.Machine

/-- The group holds its place on the core: it has been placed and not saved (R25, R288); a group that ends is removed. -/
def Group.resident (g : Group) : Bool :=
  match g.state with
  | .saved => false
  | _ => true

/-- The group occupies the core (R10, R317). -/
def Group.onCore (g : Group) (core : Nat) : Bool := if g.cluster then core / 4 == g.core0 / 4 else core == g.core0

/-- A byte of a core's scratchpad lies in an allocation of the context (R33). -/
def State.allotted (s : State) (ctx core off : Nat) : Bool :=
  s.allGroups.any (fun g => g.resident && g.ctx == ctx && g.onCore core && g.spadBase ≤ off &&
    off < g.spadBase + g.spadSize)

/-- The place that a scratchpad address names for a core, bounds aside (R32). -/
def rawSpad (core : Nat) (a : Word) : Nat :=
  let off := (a.extractLsb' 0 20).toNat
  spadAddr (if a.getLsbD 22 then core / 4 * 4 + (a.extractLsb' 20 2).toNat else core) off

/-- The scratchpad bytes that an address names (R32), when it is in bounds (R33, R172). `w`: the W bit that the
instruction requires, if any. -/
def State.spadResolve (s : State) (w : Option Bool) (a : Word) (n : Nat) : Option Nat :=
  let W := a.getLsbD 22
  let core := (a.extractLsb' 20 2).toNat
  let off := (a.extractLsb' 0 20).toNat
  let target := if W then s.wave.core / 4 * 4 + core else s.wave.core
  let shape := (a.extractLsb' 23 9 == 0) && (W || core == 0) && (w.isNone || w == some W)
  if shape && (List.range n).all (fun k => s.allotted s.grp.ctx target (off + k)) then some (spadAddr target off)
  else none

/-- The address is a multiple of the access size (R172). -/
def aligned (a : Word) (n : Nat) : Bool := a.toNat % n == 0

/-- The checks of a lane form (R172): the lanes that fail bounds and alignment. -/
def State.laneRaise (s : State) (w : Option Bool) (addr : Lanes) (n : Nat) : Option Raise :=
  let badB := maskOf (fun i => bit s.exec i && (s.spadResolve w (lane addr i) n).isNone)
  let badA := maskOf (fun i => bit s.exec i && !aligned (lane addr i) n)
  let first (m : Dword) : Dword := ((lowest m).map (fun i => (lane addr i).setWidth 64)).getD 0
  if badB ≠ 0 then some { code := 0x0301, addr := first badB, maskA := badB, maskB := badA }
  else if badA ≠ 0 then some { code := 0x0302, addr := first badA, maskB := badA }
  else none

/-- The checks of a scalar form (R110). -/
def State.scalarRaise (s : State) (a : Word) (n : Nat) : Option Raise :=
  if (s.spadResolve none a n).isNone then some { code := 0x0301, addr := a.setWidth 64 }
  else if !aligned a n then some { code := 0x0302, addr := a.setWidth 64 }
  else none

/-- Read n bytes at an address in bounds. -/
def State.spadLoad (s : State) (a : Word) (n : Nat) : List Byte :=
  match s.spadResolve none a n with
  | some x => s.spadGet x n
  | none => List.replicate n 0

/-- Write bytes at an address in bounds. -/
def State.spadStore (s : State) (a : Word) (b : List Byte) : State :=
  match s.spadResolve none a b.length with
  | some x => s.spadPut x b
  | none => s

/-- An accessed value of 1 or 2 bytes, extended (R177, R79). -/
def extend (z : MSize) (b : List Byte) : Word :=
  let n := leNat b
  match z with
  | .s8 => BitVec.ofInt 32 (sint 8 n)
  | .s16 => BitVec.ofInt 32 (sint 16 n)
  | _ => BitVec.ofNat 32 n

/-- Register k of a loaded value (R177). -/
def loadWord (z : MSize) (b : List Byte) (k : Nat) : Word := extend z ((b.drop (4 * k)).take 4)

/-- The bytes that a lane stores: the low bytes of its data words (R177). -/
def storeBytes (z : MSize) (words : List Word) : List Byte :=
  (words.flatMap (fun w => leBytes 4 w.toNat)).take z.bytes

end Sys2Proof.Machine
end

