-- ==== Sys2Proof/Machine/Uniform.lean ====
section
/-!
DEFINITION. Sys2Proof/Machine/Uniform.lean: the uniform instructions of spec/04 (R99 to R116).
-/

namespace Sys2Proof.Machine

/-! ## Arithmetic, logic and shifts (R103) -/

/-- A uniform instruction that writes one scalar register. -/
def State.uni (s : State) (i : Instr) (d : SReg) (f : State → Word) : State := s.issue i (fun s => s.sset d (f s))

/-- Left shift; 0 when the amount is 32 or more. -/
def shl (a n : Word) : Word := if n.toNat < 32 then a <<< n.toNat else 0
/-- Logical right shift; 0 when the amount is 32 or more. -/
def shr (a n : Word) : Word := if n.toNat < 32 then a >>> n.toNat else 0
/-- Arithmetic right shift; the sign when the amount is 32 or more. -/
def sra (a n : Word) : Word := a.sshiftRight (min n.toNat 32)
/-- Bits [63:32] of the product. -/
def mulHigh (t : Sgn) (a b : Word) : Word :=
  match t with
  | .s => BitVec.ofInt 32 (a.toInt * b.toInt / 2 ^ 32)
  | .n => BitVec.ofNat 32 (a.toNat * b.toNat / 2 ^ 32)
/-- The smaller of two words. -/
def minW (t : Sgn) (a b : Word) : Word := if cmpI .lt (t == .s) b a then b else a
/-- The larger of two words. -/
def maxW (t : Sgn) (a b : Word) : Word := if cmpI .lt (t == .s) a b then b else a
/-- The number of leading zero bits, 0 to 32. -/
def clzW (a : Word) : Word := if a = 0 then 32 else BitVec.ofNat 32 (31 - Nat.log2 a.toNat)
/-- The number of set bits. -/
def popW (a : Word) : Word := BitVec.ofNat 32 ((List.range 32).filter (fun i => a.getLsbD i)).length

/-- SADD (R103): SAT when clamped (R102). -/
def execSadd (k : SatKind) (d : SReg) (a b : SSrc) (s : State) : Out :=
  .next (s.issue (.sadd k d a b) (fun s =>
    let r := addK k (s.ssrc a) (s.ssrc b)
    (s.sset d r.1).raiseFlags (satFlag r.2)))

/-- SSUB (R103): SAT when clamped (R102). -/
def execSsub (k : SatKind) (d : SReg) (a b : SSrc) (s : State) : Out :=
  .next (s.issue (.ssub k d a b) (fun s =>
    let r := subK k (s.ssrc a) (s.ssrc b)
    (s.sset d r.1).raiseFlags (satFlag r.2)))

/-- SMUL (R103). -/
def execSmul (d : SReg) (a b : SSrc) (s : State) : Out :=
  .next (s.uni (.smul d a b) d (fun s => s.ssrc a * s.ssrc b))

/-- SMULH (R103). -/
def execSmulh (t : Sgn) (d : SReg) (a b : SSrc) (s : State) : Out :=
  .next (s.uni (.smulh t d a b) d (fun s => mulHigh t (s.ssrc a) (s.ssrc b)))

/-- SMAD (R103): SD is read and written. -/
def execSmad (d : SReg) (a b : SSrc) (s : State) : Out :=
  .next (s.uni (.smad d a b) d (fun s => s.sget d + s.ssrc a * s.ssrc b))

/-- SAND (R103). -/
def execSand (d : SReg) (a b : SSrc) (s : State) : Out :=
  .next (s.uni (.sand d a b) d (fun s => s.ssrc a &&& s.ssrc b))

/-- SOR (R103). -/
def execSor (d : SReg) (a b : SSrc) (s : State) : Out :=
  .next (s.uni (.sor d a b) d (fun s => s.ssrc a ||| s.ssrc b))

/-- SXOR (R103). -/
def execSxor (d : SReg) (a b : SSrc) (s : State) : Out :=
  .next (s.uni (.sxor d a b) d (fun s => s.ssrc a ^^^ s.ssrc b))

/-- SSHL (R103). -/
def execSshl (d : SReg) (a b : SSrc) (s : State) : Out :=
  .next (s.uni (.sshl d a b) d (fun s => shl (s.ssrc a) (s.ssrc b)))

/-- SSHR (R103). -/
def execSshr (d : SReg) (a b : SSrc) (s : State) : Out :=
  .next (s.uni (.sshr d a b) d (fun s => shr (s.ssrc a) (s.ssrc b)))

/-- SSRA (R103). -/
def execSsra (d : SReg) (a b : SSrc) (s : State) : Out :=
  .next (s.uni (.ssra d a b) d (fun s => sra (s.ssrc a) (s.ssrc b)))

/-- SMIN (R103). -/
def execSmin (t : Sgn) (d : SReg) (a b : SSrc) (s : State) : Out :=
  .next (s.uni (.smin t d a b) d (fun s => minW t (s.ssrc a) (s.ssrc b)))

/-- SMAX (R103). -/
def execSmax (t : Sgn) (d : SReg) (a b : SSrc) (s : State) : Out :=
  .next (s.uni (.smax t d a b) d (fun s => maxW t (s.ssrc a) (s.ssrc b)))

/-- SMOV (R103). -/
def execSmov (d : SReg) (a : SSrc) (s : State) : Out := .next (s.uni (.smov d a) d (fun s => s.ssrc a))

/-- SCLZ (R103). -/
def execSclz (d : SReg) (a : SSrc) (s : State) : Out := .next (s.uni (.sclz d a) d (fun s => clzW (s.ssrc a)))

/-- SPOP (R103). -/
def execSpop (d : SReg) (a : SSrc) (s : State) : Out := .next (s.uni (.spop d a) d (fun s => popW (s.ssrc a)))

/-- SLIT (R104). -/
def execSlit (d : SReg) (imm : BitVec 19) (s : State) : Out :=
  .next (s.uni (.slit d imm) d (fun _ => imm.signExtend 32))

/-! ## Pairs and address formation (R105, R106) -/

/-- A uniform instruction that writes a pair. -/
def State.uniPair (s : State) (i : Instr) (d : SPair) (f : State → Dword) : State := s.issue i (fun s => s.pset d (f s))

/-- SADDC (R105). -/
def execSaddc (d a b : SPair) (s : State) : Out :=
  .next (s.uniPair (.saddc d a b) d (fun s => s.pget a + s.pget b))

/-- SB extended to 64 bits (R106). -/
def extDword (t : Sgn) (w : Word) : Dword :=
  match t with
  | .s => w.signExtend 64
  | .n => w.zeroExtend 64

/-- SLEA (R106). -/
def execSlea (t : Sgn) (sh : BitVec 3) (d a : SPair) (b : SSrc) (s : State) : Out :=
  .next (s.uniPair (.slea t sh d a b) d (fun s => s.pget a + (extDword t (s.ssrc b) <<< sh.toNat)))

/-! ## Comparison and selection (R107, R108) -/

/-- All ones or zero. -/
def ofBool64 (b : Bool) : Dword := if b then allLanes else 0

/-- SCMP (R107). -/
def execScmp (c : CC) (t : Sgn) (d : SPair) (a b : SSrc) (s : State) : Out :=
  .next (s.uniPair (.scmp c t d a b) d (fun s => ofBool64 (cmpI c (t == .s) (s.ssrc a) (s.ssrc b))))

/-- SSEL (R108). -/
def execSsel (d : SReg) (a b c : SSrc) (s : State) : Out :=
  .next (s.uni (.ssel d a b c) d (fun s => if s.ssrc c ≠ 0 then s.ssrc a else s.ssrc b))

/-! ## Bit fields (R109) -/

/-- The field of SBFE: the bits from POS up to min(POS + WIDTH, 32), a bit past 31 reading 0. -/
def bfe (t : Sgn) (a : Word) (pos width : Nat) : Word :=
  let f := bits a.toNat (min (pos + width) 32 - 1) pos
  if width = 0 then 0
  else if t == .s then BitVec.ofInt 32 (sint width f) else BitVec.ofNat 32 f

/-- The mask of WIDTH bits from POS, within 32 bits. -/
def fieldMask (pos width : Nat) : Word := BitVec.ofNat 32 ((2 ^ width - 1) * 2 ^ pos)

/-- Insert the low WIDTH bits of a at POS, keeping the others. -/
def bfi (old a : Word) (pos width : Nat) : Word :=
  (old &&& ~~~(fieldMask pos width)) ||| ((a <<< pos) &&& fieldMask pos width)

/-- SBFE (R109). -/
def execSbfe (t : Sgn) (w : Nat) (p : BitVec 5) (d : SReg) (a : SSrc) (s : State) : Out :=
  .next (s.uni (.sbfe t w p d a) d (fun s => bfe t (s.ssrc a) p.toNat w))

/-- SBFI (R109): SD is read and written. -/
def execSbfi (w : Nat) (p : BitVec 5) (d : SReg) (a : SSrc) (s : State) : Out :=
  .next (s.uni (.sbfi w p d a) d (fun s => bfi (s.sget d) (s.ssrc a) p.toNat w))

/-! ## Scalar scratchpad access (R110, R111) -/

/-- The address of SLD and SST. -/
def State.scalarAddr (s : State) (a : SSrc) (imm : BitVec 13) : Word := s.ssrc a + (imm.signExtend 32 <<< 2)

/-- SLD (R110). -/
def execSld (d : SReg) (a : SSrc) (imm : BitVec 13) (s : State) : Out :=
  .next (s.issueWith (.sld d a imm) (fun _ => none) (fun s => s.scalarRaise (s.scalarAddr a imm) 4) [] (fun s =>
    (s.sset d (leWord (s.spadLoad (s.scalarAddr a imm) 4))).nextPc (.sld d a imm)))

/-- SST (R110, R111): the reservations on the word's granule are cleared. -/
def execSst (d : SSrc) (a : SSrc) (imm : BitVec 13) (s : State) : Out :=
  .next (s.issueWith (.sst d a imm) (fun _ => none) (fun s => s.scalarRaise (s.scalarAddr a imm) 4) [] (fun s =>
    (s.spadStore (s.scalarAddr a imm) (leBytes 4 (s.ssrc d).toNat)).nextPc (.sst d a imm)))

/-! ## System registers (R28 to R31, R112, R113) -/

/-- The numbers of R29 and R30. -/
def sysAssigned (n : Nat) : Bool :=
  n ≤ 7 || (0x100 ≤ n && n ≤ 0x104) || (0x108 ≤ n && n ≤ 0x10B) || (0x110 ≤ n && n ≤ 0x112) || n == 0x120

/-- A core's own state. -/
def State.core (s : State) (c : Nat) : Core := mgetD s.cores c .reset

/-- An MLOADW of the core is in flight (R30). -/
def State.shadowBusy (s : State) (core : Nat) : Bool :=
  s.ops.any (fun o => o.core == core && o.state != .done && (match o.kind with
    | .mat m => m.kind == 0
    | _ => false))

/-- An engine counter of the wave (R21). -/
def Wave.count (w : Wave) (k : Nat) : Nat := w.ecnt.toArray.getD k 0

/-- The value that a system register reads (R29, R30). -/
def State.sysRead (s : State) (n : Nat) : Word :=
  let w := s.wave
  let ofN (x : Nat) : Word := BitVec.ofNat 32 x
  match n with
  | 0x000 => w.flags.setWidth 32
  | 0x001 => ofN (s.frame.blocks * 2 ^ 16 + w.mark * 2 ^ 8 + s.slot.depth)
  | 0x002 => ofN (min s.slot.stk.length 31 * 2 ^ 8 + w.cur * 4 + b2n w.slot1.valid * 2 + b2n w.slot0.valid)
  | 0x003 => ofN (w.count 1 * 2 ^ 16 + w.count 0)
  | 0x004 => ofN (w.count 3 * 2 ^ 16 + w.count 2)
  | 0x005 => ofN (w.count 4)
  | 0x006 => if s.feature 4 then w.window.setWidth 32 else 0
  | 0x007 =>
      ofN (b2n (((mget s.ctxs s.grp.ctx).map Ctx.promise).getD false) * 2 + b2n s.grp.ordered)
  | 0x100 => ofN (b2n (s.shadowBusy w.core) * 2 + b2n (s.core w.core).active)
  | 0x101 => (s.core w.core).msc.get 0
  | 0x102 => (s.core w.core).msc.get 1
  | 0x103 => (s.core w.core).msc.get 2
  | 0x104 => (s.core w.core).msc.get 3
  | 0x108 => loWord s.cycles
  | 0x109 => w.cycleHi.getD 0
  | 0x10A => ofN s.time
  | 0x10B => w.timeHi.getD 0
  | 0x110 => ofN s.grp.spadBase
  | 0x111 => ofN s.grp.spadSize
  | 0x112 => ofN (s.grp.semCount * 2 ^ 8 + s.grp.semBase)
  | 0x120 => ofN (s.grp.part * 2 ^ 12 + s.grp.ctx)
  | _ => 0

/-- Reading a LO register latches the upper half of the sample (R31). -/
def State.sysLatch (s : State) (n : Nat) : State :=
  if n = 0x108 then { s with wave := { s.wave with cycleHi := some (hiWord s.cycles) } }
  else if n = 0x10A then { s with wave := { s.wave with timeHi := some (hiWord (BitVec.ofNat 64 s.time)) } }
  else s

/-- The unassigned-system-register cause (R28). -/
def sysCause (n : BitVec 12) : Option Nat := if sysAssigned n.toNat then none else some 0x0108

/-- SGET (R112). -/
def execSget (d : SReg) (n : BitVec 12) (s : State) : Out :=
  .next (s.issueWith (.sget d n) (fun _ => sysCause n) (fun _ => none) [] (fun s =>
    ((s.sysLatch n.toNat).sset d (s.sysRead n.toNat)).nextPc (.sget d n)))

/-- SSET (R112): FLAGS is written; every other register is read-only, and the write is ignored. -/
def execSset (a : SSrc) (n : BitVec 12) (s : State) : Out :=
  .next (s.issueWith (.sset a n) (fun _ => sysCause n) (fun _ => none) [] (fun s =>
    let s := if n.toNat = 0 then { s with wave := { s.wave with flags := (s.ssrc a).setWidth 6 } } else s
    s.nextPc (.sset a n)))

/-- SREADL (R114). -/
def execSreadl (d : SReg) (a : VSrc) (b : SSrc) (s : State) : Out :=
  .next (s.uni (.sreadl d a b) d (fun s => lane (s.vsrc a) ((s.ssrc b).toNat % 64)))

/-! ## Mask operations (R115, R116) -/

/-- MAND (R115). -/
def execMand (d a b : SPair) (s : State) : Out := .next (s.uniPair (.mand d a b) d (fun s => s.pget a &&& s.pget b))
/-- MOR (R115). -/
def execMor (d a b : SPair) (s : State) : Out := .next (s.uniPair (.mor d a b) d (fun s => s.pget a ||| s.pget b))
/-- MXOR (R115). -/
def execMxor (d a b : SPair) (s : State) : Out := .next (s.uniPair (.mxor d a b) d (fun s => s.pget a ^^^ s.pget b))
/-- MANDN (R115). -/
def execMandn (d a b : SPair) (s : State) : Out :=
  .next (s.uniPair (.mandn d a b) d (fun s => s.pget a &&& ~~~(s.pget b)))
/-- MNOT (R115). -/
def execMnot (d a : SPair) (s : State) : Out := .next (s.uniPair (.mnot d a) d (fun s => ~~~(s.pget a)))
/-- MPOP (R115). -/
def execMpop (d : SReg) (a : SPair) (s : State) : Out :=
  .next (s.uni (.mpop d a) d (fun s => BitVec.ofNat 32 (popcount (s.pget a))))
/-- MFIRST (R115). -/
def execMfirst (d : SReg) (a : SPair) (s : State) : Out :=
  .next (s.uni (.mfirst d a) d (fun s => match lowest (s.pget a) with
    | some i => BitVec.ofNat 32 i
    | none => 0xFFFFFFFF#32))
/-- MSETX (R116): SD receives the old `exec`, and `exec` receives SA under R101. -/
def execMsetx (d a : SPair) (s : State) : Out :=
  .next (s.issue (.msetx d a) (fun s =>
    let old := s.exec
    let new := s.pget a
    (s.pset d old).setExec new))

end Sys2Proof.Machine
end

