-- ==== Sys2Proof/Machine/LaneInt.lean ====
section
/-!
DEFINITION. Sys2Proof/Machine/LaneInt.lean: lane arithmetic on integers, logic, bit fields, comparison, selection, moves across
lanes and packing (R149 to R153, R156 to R159).
-/

namespace Sys2Proof.Machine

/-- An elementwise lane instruction: the element of each active lane and the flags it raises (R144). -/
def State.lanewise (s : State) (i : Instr) (d : VReg) (f : State → Nat → Word × BitVec 6) : State :=
  s.issue i (fun s =>
    (s.vset d (lanesFn (fun k => (f s k).1))).raiseFlags (joinFlags s.exec (fun k => (f s k).2)))

/-- An elementwise operation of two sources that raises no flag. -/
def State.lane2 (s : State) (i : Instr) (d : VReg) (a b : VSrc) (f : Word → Word → Word) : State :=
  s.lanewise i d (fun s k => plain (f (lane (s.vsrc a) k) (lane (s.vsrc b) k)))

/-- An elementwise operation of one source that raises no flag. -/
def State.lane1 (s : State) (i : Instr) (d : VReg) (a : VSrc) (f : Word → Word) : State :=
  s.lanewise i d (fun s k => plain (f (lane (s.vsrc a) k)))

/-- A destructive operation: the old element of VD comes first (R150). -/
def State.lane3 (s : State) (i : Instr) (d : VReg) (a b : VSrc) (f : Word → Word → Word → Word) : State :=
  s.lanewise i d (fun s k => plain (f (lane (s.vget d) k) (lane (s.vsrc a) k) (lane (s.vsrc b) k)))

/-! ## Integer arithmetic and logic (R149) -/

/-- VADD (R149): SAT in each lane that clamps. -/
def execVadd (k : SatKind) (d : VReg) (a b : VSrc) (h : BitVec 2) (s : State) : Out :=
  .next (s.lanewise (.vadd k d a b h) d (fun s i =>
    let r := addK k (lane (s.vsrc a) i) (lane (s.vsrc b) i)
    (r.1, satFlag r.2)))

/-- VSUB (R149): SAT in each lane that clamps. -/
def execVsub (k : SatKind) (d : VReg) (a b : VSrc) (h : BitVec 2) (s : State) : Out :=
  .next (s.lanewise (.vsub k d a b h) d (fun s i =>
    let r := subK k (lane (s.vsrc a) i) (lane (s.vsrc b) i)
    (r.1, satFlag r.2)))

/-- VMUL (R149). -/
def execVmul (d : VReg) (a b : VSrc) (h : BitVec 2) (s : State) : Out :=
  .next (s.lane2 (.vmul d a b h) d a b (· * ·))

/-- VMULH (R149). -/
def execVmulh (t : Sgn) (d : VReg) (a b : VSrc) (h : BitVec 2) (s : State) : Out :=
  .next (s.lane2 (.vmulh t d a b h) d a b (mulHigh t))

/-- VMAD (R149): VD is read and written. -/
def execVmad (d : VReg) (a b : VSrc) (h : BitVec 2) (s : State) : Out :=
  .next (s.lane3 (.vmad d a b h) d a b (fun v x y => v + x * y))

/-- VMIN (R149). -/
def execVmin (t : Sgn) (d : VReg) (a b : VSrc) (h : BitVec 2) (s : State) : Out :=
  .next (s.lane2 (.vmin t d a b h) d a b (minW t))

/-- VMAX (R149). -/
def execVmax (t : Sgn) (d : VReg) (a b : VSrc) (h : BitVec 2) (s : State) : Out :=
  .next (s.lane2 (.vmax t d a b h) d a b (maxW t))

/-- VAND (R149). -/
def execVand (d : VReg) (a b : VSrc) (h : BitVec 2) (s : State) : Out :=
  .next (s.lane2 (.vand d a b h) d a b (· &&& ·))

/-- VOR (R149). -/
def execVor (d : VReg) (a b : VSrc) (h : BitVec 2) (s : State) : Out :=
  .next (s.lane2 (.vor d a b h) d a b (· ||| ·))

/-- VXOR (R149). -/
def execVxor (d : VReg) (a b : VSrc) (h : BitVec 2) (s : State) : Out :=
  .next (s.lane2 (.vxor d a b h) d a b (· ^^^ ·))

/-- VSHL (R149). -/
def execVshl (d : VReg) (a b : VSrc) (h : BitVec 2) (s : State) : Out :=
  .next (s.lane2 (.vshl d a b h) d a b shl)

/-- VSHR (R149). -/
def execVshr (d : VReg) (a b : VSrc) (h : BitVec 2) (s : State) : Out :=
  .next (s.lane2 (.vshr d a b h) d a b shr)

/-- VSRA (R149). -/
def execVsra (d : VReg) (a b : VSrc) (h : BitVec 2) (s : State) : Out :=
  .next (s.lane2 (.vsra d a b h) d a b sra)

/-- VNOT (R149). -/
def execVnot (d : VReg) (a : VSrc) (h : BitVec 2) (s : State) : Out :=
  .next (s.lane1 (.vnot d a h) d a (~~~ ·))

/-- VPOP (R149). -/
def execVpop (d : VReg) (a : VSrc) (h : BitVec 2) (s : State) : Out :=
  .next (s.lane1 (.vpop d a h) d a popW)

/-- VCLZ (R149). -/
def execVclz (d : VReg) (a : VSrc) (h : BitVec 2) (s : State) : Out :=
  .next (s.lane1 (.vclz d a h) d a clzW)

/-- VMOV (R149). -/
def execVmov (d : VReg) (a : VSrc) (h : BitVec 2) (s : State) : Out :=
  .next (s.lane1 (.vmov d a h) d a id)

/-- VABS of an element: `.s32` modulo 2^32 (R149), or `.f32` clearing the sign of all but a NaN (R155). -/
def vabsW (float : Bool) (a : Word) : Word :=
  if float then (if (FF.fp32.get a).isNan then 0x7FC00000#32 else a &&& 0x7FFFFFFF#32)
  else if a.slt 0 then -a else a

/-- VNEG of an element (R149, R155). -/
def vnegW (float : Bool) (a : Word) : Word :=
  if float then (if (FF.fp32.get a).isNan then 0x7FC00000#32 else a ^^^ 0x80000000#32) else -a

/-- VABS (R149, R155). -/
def execVabs (float : Bool) (d : VReg) (a : VSrc) (h : BitVec 2) (s : State) : Out :=
  .next (s.lane1 (.vabs float d a h) d a (vabsW float))

/-- VNEG (R149, R155). -/
def execVneg (float : Bool) (d : VReg) (a : VSrc) (h : BitVec 2) (s : State) : Out :=
  .next (s.lane1 (.vneg float d a h) d a (vnegW float))

/-! ## Bit fields, clamp and byte dot product (R151 to R153) -/

/-- POS of a field source. -/
def fieldPos (b : Word) : Nat := (b.extractLsb' 0 5).toNat
/-- WIDTH of a field source; above 32 it is taken as 32. -/
def fieldWidth (b : Word) : Nat := min (b.extractLsb' 5 6).toNat 32

/-- VBFE (R151). -/
def execVbfe (t : Sgn) (d : VReg) (a b : VSrc) (h : BitVec 2) (s : State) : Out :=
  .next (s.lane2 (.vbfe t d a b h) d a b (fun x y => bfe t x (fieldPos y) (fieldWidth y)))

/-- VBFI (R151): VD is read and written. -/
def execVbfi (d : VReg) (a b : VSrc) (h : BitVec 2) (s : State) : Out :=
  .next (s.lane3 (.vbfi d a b h) d a b (fun v x y => bfi v x (fieldPos y) (fieldWidth y)))

/-- min(max(v, a), b) in the comparison named (R152). -/
def clampW (t : CmpTy) (v a b : Word) : Word :=
  match t with
  | .s32 => minW .s (maxW .s v a) b
  | .n32 => minW .n (maxW .n v a) b
  | .f32 => FF.fp32.select false (FF.fp32.select true v a) b

/-- VCLAMP (R152). -/
def execVclamp (t : CmpTy) (d : VReg) (a b : VSrc) (h : BitVec 2) (s : State) : Out :=
  .next (s.lane3 (.vclamp t d a b h) d a b (clampW t))

/-- Byte k of a word, extended. -/
def byteExt (t : Sgn) (w : Word) (k : Nat) : Int :=
  let n := bits w.toNat (8 * k + 7) (8 * k)
  if t == .s then sint 8 n else n

/-- The four-way byte dot product added to v (R153). -/
def dot4 (t : Sgn) (v a b : Word) : Word :=
  v + BitVec.ofInt 32 (((List.range 4).map (fun k => byteExt t a k * byteExt t b k)).sum)

/-- VDOT4 (R153). -/
def execVdot4 (t : Sgn) (d : VReg) (a b : VSrc) (h : BitVec 2) (s : State) : Out :=
  .next (s.lane3 (.vdot4 t d a b h) d a b (dot4 t))

/-! ## Comparison and selection (R156, R157) -/

/-- A comparison of elements (R156). -/
def cmpLane (c : CC) (t : CmpTy) (a b : Word) : Bool :=
  match t with
  | .s32 => cmpI c true a b
  | .n32 => cmpI c false a b
  | .f32 => cmpF c a b

/-- VCMP (R156): the pair receives the lanes that are active and hold the condition. -/
def execVcmp (c : CC) (t : CmpTy) (p : SPair) (a b : VSrc) (s : State) : Out :=
  .next (s.issue (.vcmp c t p a b) (fun s =>
    s.pset p (maskOf (fun i => bit s.exec i && cmpLane c t (lane (s.vsrc a) i) (lane (s.vsrc b) i)))))

/-- VSEL (R157). -/
def execVsel (d : VReg) (a : VSrc) (p : SPair) (h : BitVec 2) (s : State) : Out :=
  .next (s.issue (.vsel d a p h) (fun s => s.vput (s.exec &&& s.pget p) d (s.vsrc a)))

/-- VMOVS (R157). -/
def execVmovs (d : VReg) (b : SSrc) (h : BitVec 2) (s : State) : Out :=
  .next (s.issue (.vmovs d b h) (fun s => s.vset d (Lanes.fill (s.ssrc b))))

/-! ## Moves across lanes (R145, R157, R158) -/

/-- A lane instruction whose element i comes from a place computed from the whole state. -/
def State.crossLane (s : State) (i : Instr) (d : VReg) (f : State → Nat → Word) : State :=
  s.issue i (fun s => s.vset d (lanesFn (f s)))

/-- VLANE (R157). -/
def execVlane (d : VReg) (a : VSrc) (b : SSrc) (h : BitVec 2) (s : State) : Out :=
  .next (s.crossLane (.vlane d a b h) d (fun s _ => lane (s.vsrc a) ((s.ssrc b).toNat % 64)))

/-- VLROT (R157). -/
def execVlrot (d : VReg) (a : VSrc) (b : SSrc) (h : BitVec 2) (s : State) : Out :=
  .next (s.crossLane (.vlrot d a b h) d (fun s i => lane (s.vsrc a) ((i + (s.ssrc b).toNat % 64) % 64)))

/-- VPERM (R158). -/
def execVperm (d : VReg) (a b : VSrc) (h : BitVec 2) (s : State) : Out :=
  .next (s.crossLane (.vperm d a b h) d (fun s i => lane (s.vsrc a) ((lane (s.vsrc b) i).toNat % 64)))

/-- VSHUF (R158): VD holds the indices. -/
def execVshuf (d : VReg) (a b : VSrc) (h : BitVec 2) (s : State) : Out :=
  .next (s.crossLane (.vshuf d a b h) d (fun s i =>
    let x := lane (s.vget d) i
    lane (s.vsrc (if x.getLsbD 6 then b else a)) (x.toNat % 64)))

/-! ## Packing (R159) -/

/-- VPACK of two elements. -/
def packW (bytes : Bool) (a b : Word) : Word :=
  if bytes then b.extractLsb' 16 8 ++ b.extractLsb' 0 8 ++ a.extractLsb' 16 8 ++ a.extractLsb' 0 8
  else b.extractLsb' 0 16 ++ a.extractLsb' 0 16

/-- VUNPACK of an element: half h = b[0], extended. -/
def unpackW (t : Sgn) (a b : Word) : Word :=
  let x : BitVec 16 := if b.getLsbD 0 then a.extractLsb' 16 16 else a.extractLsb' 0 16
  if t == .s then x.signExtend 32 else x.zeroExtend 32

/-- VPACK (R159). -/
def execVpack (bytes : Bool) (d : VReg) (a b : VSrc) (h : BitVec 2) (s : State) : Out :=
  .next (s.lane2 (.vpack bytes d a b h) d a b (packW bytes))

/-- VUNPACK (R159). -/
def execVunpack (t : Sgn) (d : VReg) (a b : VSrc) (h : BitVec 2) (s : State) : Out :=
  .next (s.lane2 (.vunpack t d a b h) d a b (unpackW t))

end Sys2Proof.Machine
end

