-- ==== Sys2Proof/Machine/Special.lean ====
section
/-!
DEFINITION. Sys2Proof/Machine/Special.lean: the special functions (R163 to R166). R165 fixes their exact and special results
and bounds the others, which are free values within the bound: the proposal of `Config.special` is taken when it lies within
it, and else the nearest value (log 11). Exact values are enclosed by integers at a scale 2^-P.
-/

namespace Sys2Proof.Machine

/-! ## Enclosures -/

/-- The integer square root, from the top bit down; `n` bounds the bits of the root. -/
def sqrtFrom (x : Nat) : Nat → Nat → Nat
  | 0, r => r
  | n + 1, r =>
      let t := r + 2 ^ n
      sqrtFrom x n (if t * t ≤ x then t else r)

/-- The integer square root. -/
def isqrt (x : Nat) : Nat := sqrtFrom x (Nat.log2 x / 2 + 1) 0

/-- A real number enclosed by [lo, hi] * 2^-p; it never equals the end of greater magnitude. -/
structure Enc where
  p  : Nat
  lo : Int
  hi : Int
deriving DecidableEq, Repr

/-- π * 2^320, rounded down. -/
def piBits : Nat := 0x3243f6a8885a308d313198a2e03707344a4093822299f31d0082efa98ec4e6c89452821e638d01377

/-- ln 2 * 2^560, rounded down. -/
def ln2Bits : Nat :=
  0xb17217f7d1cf79abc9e3b39803f2f6af40f343267298b62d8a0d175b8baafa2be7b876206debac98559552fb4afa1b10ed2eae35c138214427573b291169b8253e96ca16224a

/-- A finite value as an integer at the scale 2^-p; p is large enough for every format. -/
def atScale (p : Nat) (neg : Bool) (m : Nat) (e : Int) : Int := atExp neg m e (-(p : Int))

/-- The sum of x^k/k! for k from `k` on, given the term before: Taylor's series of e^x - 1 at the scale 2^-p. -/
def expTerms (p : Nat) (x : Int) : Nat → Nat → Int → Int → Int
  | 0, _, _, acc => acc
  | n + 1, k, t, acc =>
      let t := t * x / (2 ^ p * (k : Int))
      expTerms p x n (k + 1) t (acc + t)

/-- e^x - 1 at the scale 2^-p. -/
def expm1 (p n : Nat) (x : Int) : Int := expTerms p x n 1 (2 ^ p) 0

/-- The terms of the series of the sine and cosine: signs alternate and two factors join at each step. -/
def trigTerms (p : Nat) (x2 : Int) : Nat → Nat → Int → Int → Int
  | 0, _, _, acc => acc
  | n + 1, k, t, acc =>
      let t := -(t * x2 / (2 ^ p * ((k * (k + 1) : Nat) : Int)))
      trigTerms p x2 n (k + 2) t (acc + t)

/-- The fraction bits of a base-2 logarithm, by repeated squaring of x in [1, 2) at the scale 2^-p. -/
def log2Bits (p : Nat) : Nat → Nat → Nat → Nat
  | 0, _, acc => acc
  | n + 1, x, acc =>
      let y := x * x / 2 ^ p
      if 2 ^ (p + 1) ≤ y then log2Bits p n (y / 2) (2 * acc + 1) else log2Bits p n y (2 * acc)

/-- log2 (m * 2^e), m not 0. -/
def encLog2 (m : Nat) (e : Int) : Enc :=
  let k := Nat.log2 m
  let x := m * 2 ^ (192 - k)
  let f : Int := log2Bits 192 100 x 0
  let v : Int := (((k : Int) + e) * 2 ^ 100 + f) * 2 ^ 20
  ⟨120, v - 1, v + 2 ^ 21⟩

/-- What lies just below a magnitude x at the scale 2^-320: an odd function with f(x) = x - c x^3, c below 1, at an x below
2^-64. -/
def encBelow (neg : Bool) (x : Int) : Enc :=
  let y := x - x / 2 ^ 100 - 1
  if neg then ⟨320, -x, -y⟩ else ⟨320, y, x⟩

/-- sin or cos of m * 2^e with its sign, the argument reduced modulo 2π. -/
def encTrig (cos neg : Bool) (m : Nat) (e : Int) : Enc :=
  let x := atScale 320 false m e
  if !cos && decide (x < 2 ^ 256) then encBelow neg x else
  let r := x % (2 * (piBits : Int))
  let r2 := r * r / 2 ^ 320
  let v := if cos then trigTerms 320 r2 40 1 (2 ^ 320) (2 ^ 320) else trigTerms 320 r2 40 2 r r
  let v := if neg && !cos then -v else v
  ⟨320, v - 2 ^ 180, v + 2 ^ 180⟩

/-- tanh of m * 2^e with its sign. -/
def encTanh (neg : Bool) (m : Nat) (e : Int) : Enc :=
  let x := atScale 320 false m e
  if x < 2 ^ 256 then encBelow neg x
  else if 16 * 2 ^ 320 < x then
    if neg then ⟨320, -(2 ^ 320), -(2 ^ 320) + 2 ^ 280⟩ else ⟨320, 2 ^ 320 - 2 ^ 280, 2 ^ 320⟩
  else
    let E := expm1 320 160 (2 * x)
    let v := E * 2 ^ 320 / (E + 2 ^ 321)
    let slack := 2 ^ 16 + v / 2 ^ 100
    if neg then ⟨320, -(v + slack), -(v - slack)⟩ else ⟨320, v - slack, v + slack⟩

/-- 2^q at the scale of an enclosure. -/
def Enc.pow (x : Enc) (q : Int) : Int := 2 ^ (q + x.p).toNat

/-- A unit in the last place of a format at the enclosed value: that of the end of smaller magnitude, which a power of two as the
other end exceeds. -/
def Enc.ulp (x : Enc) (f : FF) : Int := x.pow (f.quantum (min x.lo.natAbs x.hi.natAbs) (-(x.p : Int)))

/-- A finite value lies within a distance of everything enclosed. -/
def Enc.within (x : Enc) (b : Int) : Num → Bool
  | .fin neg m e =>
      let y := atScale x.p neg m e
      decide (y - x.lo ≤ b) && decide (x.lo - y ≤ b) && decide (y - x.hi ≤ b) && decide (x.hi - y ≤ b)
  | _ => false

/-- The nearest value of a format to what is enclosed. -/
def Enc.nearest (x : Enc) (f : FF) : Nat :=
  let v := (x.lo + x.hi) / 2
  (f.round .rne false 0 (decide (v < 0)) v.natAbs (-(x.p : Int))).bits

/-! ## The functions (R163 to R165) -/

/-- The special functions in the order of FN. -/
inductive SFn where
  | rcp | rsq | sqrt | log2 | sin | cos | tanh
deriving DecidableEq, Repr

/-- The index of a function in `Config.special`. -/
def SFn.index : SFn → Nat
  | .rcp => 0
  | .rsq => 1
  | .log2 => 2
  | .sin => 3
  | .cos => 4
  | .tanh => 5
  | .sqrt => 6

/-- The result of a computed function before narrowing: an exact value, or an FP32 value that is not exact. -/
inductive SRes where
  | exact (n : Num) (flags : BitVec 6)
  | approx (bits : Nat) (x : Enc)
  | over (neg : Bool)
deriving DecidableEq, Repr

/-- One of the two FP32 values next to q / d * 2^e (not exact), as the unit proposes; d is not 0. -/
def neighbour (prop : Word) (neg : Bool) (num den : Nat) (e : Int) : Nat :=
  let big := num * 2 ^ 64
  let k : Int := (Nat.log2 (big / den) : Int) + e - 64
  let q := max (k - 23) FF.fp32.qmin
  let sh := q - e
  let t := if 0 ≤ sh then num / (den * 2 ^ sh.toNat) else num * 2 ^ (-sh).toNat / den
  FF.fp32.sign neg + (q - FF.fp32.qmin).toNat * 2 ^ 23 + t + (if prop.getLsbD 0 then 1 else 0)

/-- The odd part of a number and the power of two taken out. -/
def oddPart : Nat → Nat → Nat × Nat
  | 0, m => (m, 0)
  | n + 1, m => if m % 2 = 0 then let r := oddPart n (m / 2); (r.1, r.2 + 1) else (m, 0)

/-- VRCP of a finite value that is not 0. -/
def rcpFin (prop : Word) (neg : Bool) (m : Nat) (e : Int) : SRes :=
  let (o, k) := oddPart 32 m
  let e := e + k
  if o = 1 then
    if -e ≤ 127 then .exact (.fin neg 1 (-e)) fNone else .over neg
  else
    -- the exact value passes the maximum when 2^(-e) / o > (2^24 - 1) * 2^104
    let big := if 0 ≤ -e - 104 then decide ((2 ^ 24 - 1) * o < 2 ^ (-e - 104).toNat) else false
    if big then .over neg
    else
      let v : Int := 2 ^ (320 - e).toNat / (o : Int)
      .approx (neighbour prop neg 1 o (-e)) (if neg then ⟨320, -v - 1, -v⟩ else ⟨320, v, v + 1⟩)

/-- VRSQ of a positive finite value. -/
def rsqFin (prop : Word) (m : Nat) (e : Int) : SRes :=
  let (o, k) := oddPart 32 m
  let e := e + k
  if o = 1 && e % 2 == 0 then .exact (.fin false 1 (-(e / 2))) fNone
  else
    let (m, e) := if e % 2 = 0 then (o, e) else (2 * o, e - 1)
    -- 2^p / sqrt m, rounded down
    let v := isqrt (2 ^ 400 / m)
    let h : Int := -(e / 2) - 200
    .approx (neighbour prop false v 1 h) ⟨320, atExp false v h (-320), atExp false (v + 1) h (-320)⟩

/-- VSQRT of a positive finite value: correctly rounded. -/
def sqrtFin (m : Nat) (e : Int) : Res :=
  let (m, e) := if e % 2 = 0 then (m, e) else (2 * m, e - 1)
  let x := m * 2 ^ 80
  let r := isqrt x
  FF.fp32.round .rne false 0 false (2 * r + (if r * r = x then 0 else 1)) (e / 2 - 41)

/-- A bounded function: the proposal when it is a finite FP32 value within the bound, else the nearest value. -/
def bounded (prop : Word) (x : Enc) (b : Int) : SRes :=
  let y := FF.fp32.value prop.toNat
  .approx (if x.within b y then prop.toNat else x.nearest .fp32) x

/-- The FP32-accurate result for a finite value that is not 0 and lies in the function's domain. -/
def SFn.fin (fn : SFn) (prop : Word) (neg : Bool) (m : Nat) (e : Int) : SRes :=
  match fn with
  | .rcp => rcpFin prop neg m e
  | .rsq => rsqFin prop m e
  | .sqrt => let r := sqrtFin m e; .exact (FF.fp32.value r.bits) r.flags
  | .log2 =>
      let (o, k) := oddPart 32 m
      if o = 1 then .exact (.ofInt (e + k)) fNone
      else
        let x := encLog2 m e
        let l := (Nat.log2 m : Int) + e
        bounded prop x (if l = 0 || l = -1 then x.pow (-22) else x.ulp .fp32)
  | .sin => let x := encTrig false neg m e; bounded prop x (x.pow (-22))
  | .cos => let x := encTrig true neg m e; bounded prop x (x.pow (-22))
  | .tanh => let x := encTanh neg m e; bounded prop x (2 * x.ulp .fp32)

/-- Deliver a result in the type: FP32 as it is; the narrow forms rounded once more, within one unit in the last place
(R89, R163, R165). NX marks every result that is not the exact value. -/
def SRes.deliver (f : FF) : SRes → Res
  | .over neg => ⟨f.sign neg + f.infBits, fOF ||| fNX⟩
  | .exact n fl =>
      let r := f.convert .rne false 0 n
      ⟨r.bits, r.flags ||| fl⟩
  | .approx b x =>
      let tiny := decide (max x.lo.natAbs x.hi.natAbs ≤ (x.pow (f.qmin + f.frac)).natAbs)
      let fl := if tiny then fUF ||| fNX else fNX
      if f == .fp32 then ⟨b, fl⟩
      else
        let r := f.convert .rne false 0 (FF.fp32.value b)
        if r.bits % 2 ^ (f.width - 1) = f.infBits then ⟨r.bits, r.flags ||| fl⟩
        else ⟨if x.within (x.ulp f) (f.value r.bits) then r.bits else x.nearest f, fl⟩

/-- A special function of an element (R164, R165): `ty` is the type's code. -/
def SFn.apply (fn : SFn) (f : FF) (ty : Nat) (a : Word) : Res :=
  let nan : Res := ⟨f.nanBits, fNone⟩
  let bad : Res := ⟨f.nanBits, fNV⟩
  let inf (neg : Bool) (fl : BitVec 6) : Res := ⟨f.sign neg + f.infBits, fl⟩
  let zero (neg : Bool) : Res := ⟨f.sign neg, fNone⟩
  let one (neg : Bool) : Res := f.convert .rne false 0 (.fin neg 1 0)
  let src := a.toNat % 2 ^ f.width
  match f.value src with
  | .nan => nan
  | .inf neg =>
      match fn with
      | .rcp => zero neg
      | .rsq => if neg then bad else zero false
      | .sqrt | .log2 => if neg then bad else inf false fNone
      | .sin | .cos => bad
      | .tanh => one neg
  | .fin neg m e =>
      if m = 0 then
        match fn with
        | .rcp | .rsq => inf neg fDZ
        | .sqrt | .sin | .tanh => zero neg
        | .log2 => inf true fDZ
        | .cos => one false
      else
        match fn with
        | .rsq | .sqrt | .log2 =>
            if neg then bad else (fn.fin (Config.special fn.index ty (BitVec.ofNat 32 src)) neg m e).deliver f
        | _ => (fn.fin (Config.special fn.index ty (BitVec.ofNat 32 src)) neg m e).deliver f

/-! ## VEXP2S (R166) -/

/-- 2^t for an exact t = m * 2^e with its sign, rounded once. -/
def exp2Fin (neg : Bool) (m : Nat) (e : Int) : Res :=
  let p := 560
  -- t at the scale 2^-560; t is at least 2^-298 in magnitude
  let t : Int := atScale p neg m e
  let n := t / 2 ^ p
  if 200 < n then FF.fp32.overflow .rne false false
  else if n < -200 then FF.fp32.round .rne false 0 false 1 (-200)
  else
    let f := t % 2 ^ p
    if f = 0 then FF.fp32.round .rne false 0 false 1 n
    else
      let y := expm1 p 120 (f * ln2Bits / 2 ^ p)
      FF.fp32.round .rne false 0 false ((2 ^ p + y.natAbs) * 2 + 1) (n - p - 1)

/-- VEXP2S of one element. -/
def exp2s (x m c : Word) : Res :=
  if (FF.fp32.get x).isNan || (FF.fp32.get m).isNan || (FF.fp32.get c).isNan then ⟨FF.fp32.nanBits, fNone⟩ else
  let d := (FF.fp32.get x).add (FF.fp32.get m).neg
  let t := d.1.mul (FF.fp32.get c)
  match t.1 with
  | .nan => ⟨FF.fp32.nanBits, d.2 ||| t.2⟩
  | .inf neg => ⟨if neg then 0 else FF.fp32.infBits, fNone⟩
  | .fin neg m e => if m = 0 then ⟨0x3F800000, fNone⟩ else exp2Fin neg m e

end Sys2Proof.Machine
end

