-- ==== Sys2Proof/Machine/LaneFloat.lean ====
section
/-!
DEFINITION. Sys2Proof/Machine/LaneFloat.lean: float lane arithmetic, conversions, random draws, special functions, reductions,
scans, compress and expand (R154, R155, R160 to R171).
-/

namespace Sys2Proof.Machine

/-! ## Floating-point arithmetic (R154, R155) -/

/-- An elementwise float operation of two sources. -/
def State.floatOp (s : State) (i : Instr) (d : VReg) (a b : VSrc) (f : Word → Word → Res) : State :=
  s.lanewise i d (fun s k => (f (lane (s.vsrc a) k) (lane (s.vsrc b) k)).word)

/-- VADD float (R154). -/
def execVaddF (t : FTy) (d : VReg) (a b : VSrc) (h : BitVec 2) (s : State) : Out :=
  .next (s.floatOp (.vaddF t d a b h) d a b (fmtOf t).add)

/-- VSUB float (R154). -/
def execVsubF (t : FTy) (d : VReg) (a b : VSrc) (h : BitVec 2) (s : State) : Out :=
  .next (s.floatOp (.vsubF t d a b h) d a b (fmtOf t).sub)

/-- VMUL float (R154). -/
def execVmulF (t : FTy) (d : VReg) (a b : VSrc) (h : BitVec 2) (s : State) : Out :=
  .next (s.floatOp (.vmulF t d a b h) d a b (fmtOf t).mul)

/-- VFMA (R154): VD is the addend. -/
def execVfma (t : FTy) (d : VReg) (a b : VSrc) (h : BitVec 2) (s : State) : Out :=
  .next (s.lanewise (.vfma t d a b h) d (fun s k =>
    ((fmtOf t).fma (lane (s.vsrc a) k) (lane (s.vsrc b) k) (lane (s.vget d) k)).word))

/-- VMIN float (R96, R154). -/
def execVminF (t : FTy) (d : VReg) (a b : VSrc) (h : BitVec 2) (s : State) : Out :=
  .next (s.lane2 (.vminF t d a b h) d a b ((fmtOf t).select false))

/-- VMAX float (R96, R154). -/
def execVmaxF (t : FTy) (d : VReg) (a b : VSrc) (h : BitVec 2) (s : State) : Out :=
  .next (s.lane2 (.vmaxF t d a b h) d a b ((fmtOf t).select true))

/-! ## Draws (R23, R87, R90, R162) -/

/-- The draw that a lane makes next (R90). -/
def State.drawAt (s : State) (i : Nat) : Word :=
  rattle s.grp.seed s.grp.lid s.grp.gid (BitVec.ofNat 32 (s.wave.index * 64 + i)) (lane s.wave.draws i)

/-- Each active lane has drawn once (R23). -/
def State.countDraws (s : State) : State :=
  { s with wave := { s.wave with draws := merge s.exec (lanesFn (fun i => lane s.wave.draws i + 1)) s.wave.draws } }

/-- VRAND (R162). -/
def execVrand (float : Bool) (d : VReg) (h : BitVec 2) (s : State) : Out :=
  .next (s.issue (.vrand float d h) (fun s =>
    let draw (i : Nat) : Word :=
      let x := s.drawAt i
      if float then BitVec.ofNat 32 (FF.fp32.round .rne false 0 false (x >>> 8).toNat (-24)).bits else x
    (s.vset d (lanesFn draw)).countDraws))

/-! ## Conversions (R160, R161) -/

/-- A conversion of each active lane; `.rst` draws in each (R87). -/
def State.convertLanes (s : State) (i : Instr) (td ts : CvtTy) (rm : RMode) (sat : Bool) (d : VReg) (a : State → Lanes) :
    State :=
  s.issue i (fun s =>
    let r (k : Nat) := convert td ts rm sat (s.drawAt k) (lane (a s) k)
    let t := (s.vset d (lanesFn (fun k => BitVec.ofNat 32 (r k).bits))).raiseFlags (joinFlags s.exec (fun k => (r k).flags))
    if rm == .rst then t.countDraws else t)

/-- VCVT (R160). -/
def execVcvt (td ts : CvtTy) (rm : RMode) (d : VReg) (a : VSrc) (s : State) : Out :=
  .next (s.convertLanes (.vcvt td ts rm d a) td ts rm false d (fun s => s.vsrc a))

/-- VCVT `.sat` (R160). -/
def execVcvtSat (td ts : CvtTy) (rm : RMode) (d : VReg) (a : VSrc) (s : State) : Out :=
  .next (s.convertLanes (.vcvtSat td ts rm d a) td ts rm true d (fun s => s.vsrc a))

/-- VCVTS (R161). -/
def execVcvts (td ts : CvtTy) (rm : RMode) (sat : Bool) (d : VReg) (a : SSrc) (s : State) : Out :=
  .next (s.convertLanes (.vcvts td ts rm sat d a) td ts rm sat d (fun s => Lanes.fill (s.ssrc a)))

/-! ## Special functions (R163 to R166) -/

/-- A special function of each active lane. -/
def State.special (s : State) (i : Instr) (fn : SFn) (t : FTy) (d : VReg) (a : VSrc) : State :=
  s.lanewise i d (fun s k => (fn.apply (fmtOf t) t.code (lane (s.vsrc a) k)).word)

/-- VRCP (R163 to R165). -/
def execVrcp (t : FTy) (d : VReg) (a : VSrc) (l : BitVec 4) (s : State) : Out :=
  .next (s.special (.vrcp t d a l) .rcp t d a)

/-- VRSQ (R163 to R165). -/
def execVrsq (t : FTy) (d : VReg) (a : VSrc) (l : BitVec 4) (s : State) : Out :=
  .next (s.special (.vrsq t d a l) .rsq t d a)

/-- VSQRT (R163 to R165). -/
def execVsqrt (t : FTy) (d : VReg) (a : VSrc) (l : BitVec 4) (s : State) : Out :=
  .next (s.special (.vsqrt t d a l) .sqrt t d a)

/-- VLOG2 (R163 to R165). -/
def execVlog2 (t : FTy) (d : VReg) (a : VSrc) (l : BitVec 4) (s : State) : Out :=
  .next (s.special (.vlog2 t d a l) .log2 t d a)

/-- VSIN (R163 to R165). -/
def execVsin (t : FTy) (d : VReg) (a : VSrc) (l : BitVec 4) (s : State) : Out :=
  .next (s.special (.vsin t d a l) .sin t d a)

/-- VCOS (R163 to R165). -/
def execVcos (t : FTy) (d : VReg) (a : VSrc) (l : BitVec 4) (s : State) : Out :=
  .next (s.special (.vcos t d a l) .cos t d a)

/-- VTANH (R163 to R165). -/
def execVtanh (t : FTy) (d : VReg) (a : VSrc) (l : BitVec 4) (s : State) : Out :=
  .next (s.special (.vtanh t d a l) .tanh t d a)

/-- VEXP2S (R166): VD is x. -/
def execVexp2s (d : VReg) (m : XSrc) (c : SSrc) (l : BitVec 4) (s : State) : Out :=
  .next (s.lanewise (.vexp2s d m c l) d (fun s k =>
    let mv := match m with
      | .vec v => lane (s.vsrc v) k
      | .sca x => s.ssrc x
    (exp2s (lane (s.vget d) k) mv (s.ssrc c)).word))

/-! ## Reductions (R94, R97, R167, R168) -/

/-- The identity of an operation (R94). -/
def identAdd : CmpTy → Word
  | .f32 => 0x80000000#32
  | _ => 0

/-- The identity of a minimum (R94). -/
def identMin : CmpTy → Word
  | .f32 => 0x7F800000#32
  | .s32 => 0x7FFFFFFF#32
  | .n32 => 0xFFFFFFFF#32

/-- The identity of a maximum (R94). -/
def identMax : CmpTy → Word
  | .f32 => 0xFF800000#32
  | .s32 => 0x80000000#32
  | .n32 => 0

/-- Addition in a reduction or scan, with its flags. -/
def redAdd (t : CmpTy) (a b : Word) : Word × BitVec 6 :=
  match t with
  | .f32 => (FF.fp32.add a b).word
  | _ => plain (a + b)

/-- Minimum (or maximum) in a reduction or scan. -/
def redSel (max : Bool) (t : CmpTy) (a b : Word) : Word × BitVec 6 :=
  plain (match t with
    | .f32 => FF.fp32.select max a b
    | .s32 => if max then maxW .s a b else minW .s a b
    | .n32 => if max then maxW .n a b else minW .n a b)

/-- One level of the tree: neighbours are combined, the lower lane on the left, flags joined. -/
def treeLevel (op : Word → Word → Word × BitVec 6) : List (Word × BitVec 6) → List (Word × BitVec 6)
  | a :: b :: rest =>
      let r := op a.1 b.1
      (r.1, a.2 ||| b.2 ||| r.2) :: treeLevel op rest
  | l => l

/-- The six levels of R94. -/
def reduceTree (op : Word → Word → Word × BitVec 6) (l : List (Word × BitVec 6)) : Word × BitVec 6 :=
  let step := treeLevel op
  ((step (step (step (step (step (step l)))))).head?).getD (0, 0)

/-- The elements of a source with the identity in inactive lanes. -/
def State.masked (s : State) (a : VSrc) (ident : Word) : List (Word × BitVec 6) :=
  (List.range 64).map (fun i => (if bit s.exec i then lane (s.vsrc a) i else ident, fNone))

/-- A reduction into a scalar. -/
def State.reduce (s : State) (i : Instr) (d : SReg) (a : VSrc) (ident : Word) (op : Word → Word → Word × BitVec 6) :
    State :=
  s.issue i (fun s =>
    let r := reduceTree op (s.masked a ident)
    (s.sset d r.1).raiseFlags r.2)

/-- VREDADD (R167). -/
def execVredadd (t : CmpTy) (d : SReg) (a : VSrc) (l : BitVec 4) (s : State) : Out :=
  .next (s.reduce (.vredadd t d a l) d a (identAdd t) (redAdd t))

/-- VREDMIN (R167). -/
def execVredmin (t : CmpTy) (d : SReg) (a : VSrc) (l : BitVec 4) (s : State) : Out :=
  .next (s.reduce (.vredmin t d a l) d a (identMin t) (redSel false t))

/-- VREDMAX (R167). -/
def execVredmax (t : CmpTy) (d : SReg) (a : VSrc) (l : BitVec 4) (s : State) : Out :=
  .next (s.reduce (.vredmax t d a l) d a (identMax t) (redSel true t))

/-- a orders before b (R96, R97). -/
def orderLt (t : CmpTy) (a b : Word) : Bool :=
  match t with
  | .f32 => (FF.fp32.get a).lt (FF.fp32.get b)
  | .s32 => a.slt b
  | .n32 => a.ult b

/-- The lane of the extreme element (R97): NaN elements are skipped, the lowest lane of equals wins, the lowest active
lane when all are NaN, and all ones when no lane is active. -/
def argExtreme (max : Bool) (t : CmpTy) (v : Lanes) (m : Dword) : Word :=
  let lanes := lanesOf m
  let good := lanes.filter (fun i => !(t == .f32 && (FF.fp32.get (lane v i)).isNan))
  let better (x y : Nat) : Bool := if max then orderLt t (lane v y) (lane v x) else orderLt t (lane v x) (lane v y)
  match good with
  | i :: rest => BitVec.ofNat 32 (rest.foldl (fun best x => if better x best then x else best) i)
  | [] =>
      match lanes with
      | i :: _ => BitVec.ofNat 32 i
      | [] => 0xFFFFFFFF#32

/-- VARGMIN (R168). -/
def execVargmin (t : CmpTy) (d : SReg) (a : VSrc) (l : BitVec 4) (s : State) : Out :=
  .next (s.uni (.vargmin t d a l) d (fun s => argExtreme false t (s.vsrc a) s.exec))

/-- VARGMAX (R168). -/
def execVargmax (t : CmpTy) (d : SReg) (a : VSrc) (l : BitVec 4) (s : State) : Out :=
  .next (s.uni (.vargmax t d a l) d (fun s => argExtreme true t (s.vsrc a) s.exec))

/-! ## Scans (R95, R169) -/

/-- The operation of a scan. -/
def scanOp (f : ScanFn) (t : CmpTy) : Word → Word → Word × BitVec 6 :=
  match f with
  | .add | .addx => redAdd t
  | .min => redSel false t
  | .max => redSel true t

/-- The identity of a scan. -/
def scanIdent (f : ScanFn) (t : CmpTy) : Word :=
  match f with
  | .add | .addx => identAdd t
  | .min => identMin t
  | .max => identMax t

/-- One step of a scan at distance k: a value keeps the flags of the additions that lead to it (R169). -/
def scanStep (op : Word → Word → Word × BitVec 6) (y : List (Word × BitVec 6)) (k : Nat) : List (Word × BitVec 6) :=
  y.take k ++ (List.zip y (y.drop k)).map (fun p =>
    let r := op p.1.1 p.2.1
    (r.1, p.1.2 ||| p.2.2 ||| r.2))

/-- The scan value of each lane, with the flags that it carries. -/
def scanAll (f : ScanFn) (t : CmpTy) (y : List (Word × BitVec 6)) : List (Word × BitVec 6) :=
  let r := [1, 2, 4, 8, 16, 32].foldl (scanStep (scanOp f t)) y
  if f == .addx then (scanIdent f t, fNone) :: r.take 63 else r

/-- VSCAN (R169). -/
def execVscan (f : ScanFn) (t : CmpTy) (d : VReg) (a : VSrc) (l : BitVec 4) (s : State) : Out :=
  .next (s.issue (.vscan f t d a l) (fun s =>
    let r := scanAll f t (s.masked a (scanIdent f t))
    (s.vset d (lanesFn (fun i => (r.getD i (0, 0)).1))).raiseFlags (joinFlags s.exec (fun i => (r.getD i (0, 0)).2))))

/-! ## Compress and expand (R170, R171) -/

/-- VCOMPRESS (R170): all 64 elements of VD are written. -/
def execVcompress (d : VReg) (a : VSrc) (sd : SReg) (l : BitVec 4) (s : State) : Out :=
  .next (s.issue (.vcompress d a sd l) (fun s =>
    let p := lanesOf s.exec
    (s.vput allLanes d (lanesFn (fun j => match p[j]? with
      | some i => lane (s.vsrc a) i
      | none => 0))).sset sd (BitVec.ofNat 32 p.length)))

/-- VEXPAND (R170). -/
def execVexpand (d : VReg) (a : VSrc) (sd : SReg) (l : BitVec 4) (s : State) : Out :=
  .next (s.issue (.vexpand d a sd l) (fun s =>
    let p := lanesOf s.exec
    (s.vset d (lanesFn (fun i => lane (s.vsrc a) (p.idxOf i)))).sset sd (BitVec.ofNat 32 p.length)))

end Sys2Proof.Machine
end

