-- ==== Sys2Proof/Machine/Local.lean ====
section
/-!
DEFINITION. Sys2Proof/Machine/Local.lean: the scratchpad and cluster window instructions of spec/07 (R172 to R184).
-/

namespace Sys2Proof.Machine

/-! ## Order and scope (R178, R269) -/

/-- The acquire part of an access by the wave: at `.device` or wider, the die discards its expired leases (R269). -/
def State.acquire (s : State) (o : Ord) (c : Scope) : State :=
  if acquires o then s.acquireOn c (dieOf s.wave.core) else s

/-- The release part of an access by the wave: writes already made are performed at the scope (R269). -/
def State.release (s : State) (o : Ord) (c : Scope) : State :=
  if releases o && Scope.wide c then s.applyNotices else s

/-! ## Loads and stores (R176 to R178) -/

/-- Load into the active lanes: register k of the range takes word k of each lane's bytes (R177). -/
def State.loadLanes (s : State) (z : MSize) (d : VReg) (addr : Nat → Word) : State :=
  let data (i : Nat) : List Byte := s.spadLoad (addr i) z.bytes
  (List.range z.regs).foldl (fun t k => t.vset (vplus d k) (lanesFn (fun i => loadWord z (data i) k))) s

/-- A lane load with its checks. -/
def State.laneLoad (s : State) (i : Instr) (w : Bool) (z : MSize) (o : Ord) (c : Scope) (d : VReg) (a : VSrc) : State :=
  s.issueWith i (fun _ => none) (fun s => s.laneRaise (some w) (s.vsrc a) z.bytes) [] (fun s =>
    let addr := s.vsrc a
    ((s.loadLanes z d (lane addr)).acquire o c).nextPc i)

/-- The word of register k of a store's data in a lane. -/
def State.dataWord (s : State) (d : VSrc) (k lane_ : Nat) : Word :=
  match d with
  | .reg r => lane (s.vget (vplus r k)) lane_
  | .lit x => x

/-- Store the active lanes in rising order: the highest lane's byte stays (R178). -/
def State.storeLanes (s : State) (z : MSize) (d a : VSrc) : State :=
  (lanesOf s.exec).foldl (fun t i =>
    t.spadStore (lane (s.vsrc a) i) (storeBytes z ((List.range z.regs).map (fun k => s.dataWord d k i)))) s

/-- A lane store with its checks. -/
def State.laneStore (s : State) (i : Instr) (w : Bool) (z : MSize) (o : Ord) (c : Scope) (d a : VSrc) : State :=
  s.issueWith i (fun _ => none) (fun s => s.laneRaise (some w) (s.vsrc a) z.bytes) [] (fun s =>
    ((s.release o c).storeLanes z d a).nextPc i)

/-- LDS (R172, R177). -/
def execLds (z : MSize) (o : Ord) (c : Scope) (d : VReg) (a : VSrc) (l : BitVec 4) (s : State) : Out :=
  .next (s.laneLoad (.lds z o c d a l) false z o c d a)

/-- STS (R172, R177). -/
def execSts (z : MSize) (o : Ord) (c : Scope) (d : VSrc) (a : VSrc) (h : BitVec 2) (s : State) : Out :=
  .next (s.laneStore (.sts z o c d a h) false z o c d a)

/-- LDW (R172, R177). -/
def execLdw (z : MSize) (o : Ord) (c : Scope) (d : VReg) (a : VSrc) (l : BitVec 4) (s : State) : Out :=
  .next (s.laneLoad (.ldw z o c d a l) true z o c d a)

/-- STW (R172, R177). -/
def execStw (z : MSize) (o : Ord) (c : Scope) (d : VSrc) (a : VSrc) (h : BitVec 2) (s : State) : Out :=
  .next (s.laneStore (.stw z o c d a h) true z o c d a)

/-- The checks of LDSU: the one address is every active lane's (R172). -/
def State.uniformRaise (s : State) (a : Word) (n : Nat) : Option Raise := s.laneRaise none (Lanes.fill a) n

/-- LDSU (R177): one read, written in every active lane. -/
def execLdsu (z : MSize) (o : Ord) (c : Scope) (d : VReg) (a : SSrc) (l : BitVec 4) (s : State) : Out :=
  .next (s.issueWith (.ldsu z o c d a l) (fun _ => none) (fun s => s.uniformRaise (s.ssrc a) z.bytes) [] (fun s =>
    let x := s.ssrc a
    ((s.loadLanes z d (fun _ => x)).acquire o c).nextPc (.ldsu z o c d a l)))

/-! ## Reservations (R179 to R182) -/

/-- Set or clear a lane's reservation. -/
def Wave.setResv (w : Wave) (i : Nat) (g : Option Nat) : Wave :=
  { w with resv := Vector.ofFn (fun k : Fin 64 => if k.val = i then g else w.resv.get k) }

/-- A lane's reservation. -/
def Wave.resvAt (w : Wave) (i : Nat) : Option Nat := w.resv.toArray.getD i none

/-- The granule that an address of the own scratchpad names. -/
def State.granule (s : State) (a : Word) : Option Nat := (s.spadResolve none a 4).map (· / 64)

/-- LDRES (R179): loads a word as LDS does and reserves its granule. -/
def execLdres (o : Ord) (c : Scope) (d : VReg) (a : VSrc) (l : BitVec 4) (s : State) : Out :=
  .next (s.issueWith (.ldres o c d a l) (fun _ => none) (fun s => s.laneRaise (some false) (s.vsrc a) 4) [] (fun s =>
    let addr := s.vsrc a
    let t := s.loadLanes .b32 d (lane addr)
    let t := { t with wave := (lanesOf s.exec).foldl (fun w i => w.setResv i (s.granule (lane addr i))) t.wave }
    let t := t.setSlot { t.slot with resAge := 0 }
    (t.acquire o c).nextPc (.ldres o c d a l)))

/-- One lane of STCOND (R180): a matching reservation writes the word and counts as a success. -/
def State.condLane (s : State) (data addr : Word) (i : Nat) : State × Bool :=
  let hit := match s.wave.resvAt i with
    | some g => s.granule addr == some g
    | none => false
  let t := if hit then s.spadStore addr (leBytes 4 data.toNat) else s
  ({ t with wave := t.wave.setResv i none }, hit)

/-- The lanes of STCOND in rising order, with the mask of successes. -/
def State.condLanes (s : State) (data addr : Nat → Word) : List Nat → State × Dword
  | [] => (s, 0)
  | i :: is =>
      let (t, hit) := s.condLane (data i) (addr i) i
      let (t, m) := t.condLanes data addr is
      (t, if hit then m ||| laneBit i else m)

/-- STCOND (R180): PD receives the lanes that succeeded, also with an empty mask (R172). -/
def execStcond (o : Ord) (c : Scope) (p : SPair) (v : VSrc) (a : VSrc) (s : State) : Out :=
  .next (s.issueWith (.stcond o c p v a) (fun _ => none) (fun s => s.laneRaise (some false) (s.vsrc a) 4) [] (fun s =>
    let (t, m) := (s.release o c).condLanes (lane (s.vsrc v)) (lane (s.vsrc a)) (lanesOf s.exec)
    (t.pset p m).nextPc (.stcond o c p v a)))

/-! ## Atomics (R183) -/

/-- A value as a signed or unsigned integer of 32 or 64 bits. -/
def atomInt (w64 signed : Bool) (x : Dword) : Int :=
  let x := if w64 then x.toNat else (loWord x).toNat
  if signed then sint (if w64 then 64 else 32) x else x

/-- The new value of an atomic and the flags it raises (R183, R202); `c` is the new value of a compare-and-swap. -/
def atomNew (op : AtomOp) (w64 : Bool) (old b c : Dword) : Dword × BitVec 6 :=
  let lt (signed : Bool) (x y : Dword) : Bool := decide (atomInt w64 signed x < atomInt w64 signed y)
  let cut (x : Dword) : Dword := if w64 then x else (loWord x).setWidth 64
  match op with
  | .add => (cut (old + b), fNone)
  | .fadd =>
      let r := (FF.fp32.add (loWord old) (loWord b)).word
      (r.1.setWidth 64, r.2)
  | .smin => (if lt true b old then b else old, fNone)
  | .nmin => (if lt false b old then b else old, fNone)
  | .smax => (if lt true old b then b else old, fNone)
  | .nmax => (if lt false old b then b else old, fNone)
  | .and => (old &&& b, fNone)
  | .or => (old ||| b, fNone)
  | .xor => (old ^^^ b, fNone)
  | .exch => (b, fNone)
  | .cas => (if old = b then c else old, fNone)

/-- The lanes of a scratchpad atomic in rising order: the old values and the flags. -/
def State.atomLanes (s : State) (op : AtomOp) (addr b c : Nat → Word) : List Nat → State × List (Nat × Word) × BitVec 6
  | [] => (s, [], fNone)
  | i :: is =>
      let old := leWord (s.spadLoad (addr i) 4)
      let r := atomNew op false (old.setWidth 64) ((b i).setWidth 64) ((c i).setWidth 64)
      let t := s.spadStore (addr i) (leBytes 4 r.1.toNat)
      let (t, olds, f) := t.atomLanes op addr b c is
      (t, (i, old) :: olds, r.2 ||| f)

/-- A scratchpad atomic with its checks (R172, R183). -/
def State.laneAtomic (s : State) (i : Instr) (w : Bool) (op : AtomOp) (o : Ord) (c : Scope) (b : VReg) (a : VSrc) :
    State :=
  s.issueWith i (fun _ => none) (fun s => s.laneRaise (some w) (s.vsrc a) 4) [] (fun s =>
    let (t, olds, f) := (s.release o c).atomLanes op (lane (s.vsrc a)) (lane (s.vget b)) (lane (s.vget (vplus b 1)))
      (lanesOf s.exec)
    let t := (t.vset b (lanesFn (fun k => mgetD olds k 0))).raiseFlags f
    (t.acquire o c).nextPc i)

/-- ATS (R183). -/
def execAts (op : AtomOp) (o : Ord) (c : Scope) (b : VReg) (a : VSrc) (l : BitVec 4) (s : State) : Out :=
  .next (s.laneAtomic (.ats op o c b a l) false op o c b a)

/-- ATW (R183). -/
def execAtw (op : AtomOp) (o : Ord) (c : Scope) (b : VReg) (a : VSrc) (l : BitVec 4) (s : State) : Out :=
  .next (s.laneAtomic (.atw op o c b a l) true op o c b a)

end Sys2Proof.Machine
end

