-- ==== Sys2Proof/Machine/Control.lean ====
section
/-!
DEFINITION. Sys2Proof/Machine/Control.lean: branches, the split table, joins, exits, rotation, call frames, marks and
unwinding (R117 to R139).
-/

namespace Sys2Proof.Machine

/-! ## Uniform branches (R117, R118) -/

/-- The condition of BRC. -/
def State.brTest (s : State) : BrTest → Bool
  | .z a => s.ssrc a == 0
  | .nz a => s.ssrc a != 0
  | .lt a => (s.ssrc a).slt 0
  | .ge a => !(s.ssrc a).slt 0
  | .le a => (s.ssrc a).sle 0
  | .gt a => !(s.ssrc a).sle 0
  | .any p => s.pget p != 0
  | .none p => s.pget p == 0

/-- BR (R117). -/
def execBr (off : BitVec 25) (s : State) : Out :=
  .next (s.issueWith (.br off) (fun _ => none) (fun _ => none) [] (fun s => s.setPc (s.pc + off.signExtend 32)))

/-- BRC (R117). -/
def execBrc (t : BrTest) (off : BitVec 16) (s : State) : Out :=
  .next (s.issueWith (.brc t off) (fun _ => none) (fun _ => none) [] (fun s =>
    if s.brTest t then s.setPc (s.pc + off.signExtend 32) else s.nextPc (.brc t off)))

/-! ## The split table (R119, R121) -/

/-- A fragment's innermost split. -/
inductive Inner where
  | no
  | own (e : StkEntry)
  | top
deriving DecidableEq, Repr

/-- `innermost` of R121. -/
def Wave.innermost (w : Wave) (k : Nat) : Inner :=
  let f := w.slotAt k
  match (if f.sbase < f.stk.length then f.stk.getLast? else none) with
  | some e => .own e
  | none => if w.top.pending then .top else .no

/-- JPC and frame depth of a split. -/
def Wave.innerAt (w : Wave) : Inner → Option (Word × Nat)
  | .no => none
  | .own e => some (e.jpc, e.fdepth)
  | .top => some (w.top.jpc, w.top.sdepth)

/-- Lanes arrive at a split: `level` arrives, `mask` was active. -/
def Wave.arrive (w : Wave) (k : Nat) (level mask : Dword) : Inner → Wave
  | .no => w
  | .own e =>
      let f := w.slotAt k
      w.setSlotAt k { f with stk := f.stk.dropLast ++
        [{ e with arrived := e.arrived ||| level, resume := e.resume ||| mask }] }
  | .top => { w with top := { w.top with arrived := w.top.arrived ||| level, resume := w.top.resume ||| mask } }

/-- Entries in use by a fragment (R121). -/
def Wave.used (w : Wave) (k : Nat) : Nat := (w.slotAt k).stk.length + (if k = 1 then w.top.hbase else 0)

/-- What a BRD does (R121). -/
inductive BrdCase where
  | fall
  | take
  | leave
  | split
deriving DecidableEq, Repr

/-- The case of a BRD whose branching lanes are t. -/
def Wave.brdCase (w : Wave) (t : Dword) (target jpc : Word) : BrdCase :=
  let f := w.slot
  let n := f.mask &&& ~~~t
  if t = 0 then .fall
  else if n = 0 then .take
  else if target = jpc && w.innerAt (w.innermost w.cur) == some (jpc, f.depth) then .leave
  else .split

/-- The branching lanes are served first: more lanes, and on a tie the lower address (R121). -/
def takenFirst (t n : Dword) (target next : Word) : Bool :=
  popcount n < popcount t || (popcount t == popcount n && target.ult next)

/-- Open the top split (R121, R122). -/
def Wave.openTop (w : Wave) (t : Dword) (target next jpc : Word) : Wave :=
  let f := w.slot
  let n := f.mask &&& ~~~t
  let token := w.tokctr + 1
  { w with
    tokctr := token
    top := ⟨true, jpc, token, f.level, t ||| n, 0, 0, f.stk.length, f.depth⟩
    slot1 := { f with valid := true, pc := target, mask := t, level := t, stk := [], sbase := 0, park := .no }
    slot0 := { f with sbase := f.stk.length, pc := next, mask := n, level := n }
    cur := if takenFirst t n target next then 1 else 0
    ftimer := 0 }

/-- Serialise a split on the fragment's own stack (R121). -/
def Wave.pushSplit (w : Wave) (t : Dword) (target next jpc : Word) : Wave :=
  let f := w.slot
  let n := f.mask &&& ~~~t
  let token := w.tokctr + 1
  let first := takenFirst t n target next
  let (m1, p1, m2, p2) := if first then (t, target, n, next) else (n, next, t, target)
  { w.setSlotAt w.cur { f with
      stk := f.stk ++ [⟨jpc, token, f.depth, f.level, t ||| n, 0, 0, m2, p2⟩], mask := m1, level := m1, pc := p1 }
    with tokctr := token }

/-- The branching lanes of BRD and BRDN. -/
def State.brdLanes (s : State) (neg : Bool) (p : SPair) : Dword :=
  s.exec &&& (if neg then ~~~(s.pget p) else s.pget p)

/-- Raise an event of the wave's own with a new identifier (R375): the instruction is its subject. -/
def State.emitOwn (s : State) (type : Nat) (payload : Nat) : State :=
  let id := s.nextId s.issueUnit
  (s.bumpId s.issueUnit).emitN s.grp.part s.issueUnit type id s.grp.start payload

/-- Split depth (R121, R141). -/
def State.brdCause (s : State) (neg : Bool) (p : SPair) (target jpc : Word) : Option Nat :=
  if s.wave.brdCase (s.brdLanes neg p) target jpc = .split && s.wave.top.pending && s.wave.used s.wave.cur = 32 then
    some 0x010B
  else none

/-- BRD and BRDN (R120, R121). -/
def State.brd (s : State) (i : Instr) (neg : Bool) (p : SPair) (off : BitVec 18) (joff : Word) : State :=
  s.issueWith i (fun s => s.brdCause neg p (s.pc + off.signExtend 32) (s.pc + joff)) (fun _ => none) [] (fun s =>
    let target := s.pc + off.signExtend 32
    let jpc := s.pc + joff
    let t := s.brdLanes neg p
    match s.wave.brdCase t target jpc with
    | .fall => s.nextPc i
    | .take => s.setPc target
    | .leave =>
        let s := { s with wave := s.wave.arrive s.wave.cur t t (s.wave.innermost s.wave.cur) }
        (s.setSlot { s.slot with level := s.slot.level &&& ~~~t, mask := s.slot.mask &&& ~~~t }).nextPc i
    | .split =>
        let s := s.emitOwn 0x0101 (s.wave.tokctr + 1).toNat
        if s.wave.top.pending then { s with wave := s.wave.pushSplit t target (s.pc + 2) jpc }
        else { s with wave := s.wave.openTop t target (s.pc + 2) jpc })

/-- BRD (R120, R121). -/
def execBrd (p : SPair) (off : BitVec 18) (joff : Word) (s : State) : Out := .next (s.brd (.brd p off joff) false p off joff)

/-- BRDN (R120, R121). -/
def execBrdn (p : SPair) (off : BitVec 18) (joff : Word) (s : State) : Out :=
  .next (s.brd (.brdn p off joff) true p off joff)

/-! ## Joins and exits (R123 to R127) -/

/-- `release_top` of R125, up to its last line: the fused fragment in slot 0, when every expected lane has arrived. The fragments
that arrived have parked or ended, so it defers no pre-emption (R182). -/
def Wave.fused (w : Wave) : Option Wave :=
  if w.top.pending && w.top.arrived == w.top.expect then
    some { w with
      slot0 := { w.slot0 with
        valid := true, park := .no, pc := w.top.jpc, mask := w.top.resume &&& w.live, level := w.top.outer &&& w.live,
        stk := w.slot0.stk.take w.top.hbase, sbase := 0, depth := w.top.sdepth, windows := [], stall := .no, resAge := 16 }
      slot1 := .off
      top := .off
      cur := 0
      ftimer := 0 }
  else none

/-- Free a fragment's frames above a depth. -/
def Wave.freeAbove (w : Wave) (k d : Nat) : Wave :=
  let f := w.slotAt k
  let keys := (depthsAbove d f.depth).map (w.frameKey k)
  { w.setSlotAt k { f with depth := min f.depth d } with frames := w.frames.filter (fun p => !keys.contains p.1) }

/-- `arm_end` of R126; fuel bounds the number of levels that end together. -/
def Wave.armEnd : Nat → Wave → Nat → Wave
  | 0, w, _ => w
  | n + 1, w, k =>
      match w.innermost k with
      | .no => w.setSlotAt k { w.slotAt k with valid := false }
      | .top =>
          let w := w.freeAbove k w.top.sdepth
          let w := w.setSlotAt k { w.slotAt k with valid := false, park := .no }
          match w.fused with
          | none => w
          | some w => if w.slot0.level = 0 then Wave.armEnd n w 0 else w
      | .own e =>
          let w := w.freeAbove k e.fdepth
          let f := w.slotAt k
          if e.deferred ≠ 0 then
            w.setSlotAt k { f with
              stk := f.stk.dropLast ++ [{ e with deferred := 0 }], mask := e.deferred, level := e.deferred, pc := e.dpc }
          else
            let w := w.setSlotAt k { f with
              stk := f.stk.dropLast, mask := e.resume &&& w.live, level := e.outer &&& w.live, pc := e.jpc }
            if (w.slotAt k).level = 0 then Wave.armEnd n w k else w

/-- More levels than a wave has: both stacks and the top split. -/
def levels : Nat := 80

/-- `release_top` of R125. -/
def Wave.releaseTop (w : Wave) : Wave :=
  match w.fused with
  | none => w
  | some w => if w.slot0.level = 0 then Wave.armEnd levels w 0 else w

/-- `join` of R123. -/
def Wave.join (w : Wave) : Wave :=
  let k := w.cur
  let f := w.slot
  let e := w.innermost k
  if w.innerAt e ≠ some (f.pc, f.depth) then w.setSlotAt k { f with pc := f.pc + 1 }
  else
    let w := w.arrive k f.level f.mask e
    let f := w.slotAt k
    match w.innermost k with
    | .no => w
    | .top => (w.setSlotAt k { f with park := .topJoin, resAge := 16 }).releaseTop
    | .own e =>
        if e.deferred ≠ 0 then
          w.setSlotAt k { f with
            stk := f.stk.dropLast ++ [{ e with deferred := 0 }], mask := e.deferred, level := e.deferred, pc := e.dpc }
        else
          let w := w.setSlotAt k { f with
            stk := f.stk.dropLast, mask := e.resume &&& w.live, level := e.outer &&& w.live }
          if (w.slotAt k).level = 0 then Wave.armEnd levels w k else w

/-- Remove lanes from a stack entry. -/
def StkEntry.without (e : StkEntry) (x : Dword) : StkEntry :=
  { e with
    outer := e.outer &&& ~~~x, expect := e.expect &&& ~~~x, arrived := e.arrived &&& ~~~x
    resume := e.resume &&& ~~~x, deferred := e.deferred &&& ~~~x }

/-- Remove lanes from a slot. -/
def Slot.without (f : Slot) (x : Dword) : Slot :=
  { f with mask := f.mask &&& ~~~x, level := f.level &&& ~~~x, stk := f.stk.map (fun e => e.without x) }

/-- Remove lanes from the top split. -/
def TopSplit.without (t : TopSplit) (x : Dword) : TopSplit :=
  { t with
    outer := t.outer &&& ~~~x, expect := t.expect &&& ~~~x, arrived := t.arrived &&& ~~~x, resume := t.resume &&& ~~~x }

/-- `exit` of R126. Without live lanes the wave issues nothing more (R127); its program counter stands after the EXIT, and
both slots have VALID 0 and PARK 0, as `arm_end` would leave them (log 71). -/
def Wave.exit (w : Wave) : Wave :=
  let k := w.cur
  let x := w.slot.mask
  let w := { w with
    live := w.live &&& ~~~x, slot0 := w.slot0.without x, slot1 := w.slot1.without x, top := w.top.without x
    resv := Vector.ofFn (fun i : Fin 64 => if bit x i.val then none else w.resv.get i) }
  let f := w.slotAt k
  if w.live = 0 then
    let w := w.setSlotAt k { f with pc := f.pc + 1 }
    { w with
      life := .stopped
      slot0 := { w.slot0 with valid := false, park := .no }
      slot1 := { w.slot1 with valid := false, park := .no } }
  else if f.level ≠ 0 then w.setSlotAt k { f with pc := f.pc + 1 }
  else
    let w := Wave.armEnd levels w k
    if w.top.pending then w.releaseTop else w

/-- JOIN (R123, R125). Arriving at the top split begins a wait, and a release is an event (R143). -/
def execJoin (s : State) : Out :=
  .next (s.issueWith .join (fun _ => none) (fun _ => none) [] (fun s =>
    let w := s.wave
    let atTop := w.top.pending && w.innermost w.cur = .top && w.innerAt .top == some (w.slot.pc, w.slot.depth)
    let s := if atTop then s.beginWait else s
    let id := s.slot.waitId
    let s := s.reshape s.wave.join
    if atTop && !s.wave.top.pending then s.emitN s.grp.part s.issueUnit 0x0102 id s.grp.start w.top.token.toNat
    else s))

/-- The wave has no live lane and waits for its engines: a waiting party (R127). -/
def Wave.lingers (w : Wave) : Bool := w.life == .stopped && w.ecnt.toList.any (· != 0)

/-- EXIT (R126). A wave that is left with operations in flight begins to wait for them (R127). -/
def execExit (s : State) : Out :=
  .next (s.issueWith .exit (fun _ => none) (fun _ => none) [] (fun s =>
    let w := s.wave
    let s := s.reshape w.exit
    let s := if s.wave.lingers then s.beginWait else s
    if w.top.pending && !s.wave.top.pending && s.wave.life == .running then s.emitOwn 0x0102 w.top.token.toNat else s))

/-! ## Rotation (R128 to R132) -/

/-- Change the issuing slot and restart the fairness timer. -/
def Wave.rotate (w : Wave) : Wave := { w with cur := 1 - w.cur, ftimer := 0 }

/-- The other slot may issue. -/
def Wave.otherReady (w : Wave) : Bool := (w.slotAt (1 - w.cur)).ready

/-- CUR leaves a fragment that is parked (R128), or that has ended while the other goes on, which R128 does not name
(log 90). -/
def Wave.turnAway (w : Wave) : Wave :=
  if w.life == .running && !w.slot.ready && w.otherReady then w.rotate else w

/-- NOP (R131). -/
def execNop (s : State) : Out := .next (s.issue .nop id)

/-- YIELD (R130, R321). -/
def execYield (s : State) : Out :=
  .next (s.issueWith .yield (fun _ => none) (fun _ => none) [] (fun s =>
    let s := s.nextPc .yield
    let s := if s.wave.otherReady then { s with wave := s.wave.rotate } else s
    s.switchPoint))

/-- SLEEPC (R131): the fragment resumes at the next word. -/
def execSleepc (n : BitVec 20) (s : State) : Out :=
  .next (s.issue (.sleepc n) (fun s => if n = 0 then s else s.park (.sleep (s.cycles.toNat + n.toNat))))

/-! ## Call frames (R133 to R137, R322) -/

/-- Pool blocks of a core that frames hold. -/
def State.poolUsed (s : State) (core : Nat) : List Nat :=
  (s.allWaves.filter (fun w => w.core == core)).flatMap (fun w =>
    w.frames.flatMap (fun p => if p.2.spilled then [] else p.2.pool))

/-- The free pool blocks of a core. -/
def State.poolFree (s : State) (core : Nat) : List Nat :=
  let used := s.poolUsed core
  (List.range 256).filter (fun b => !used.contains b)

/-- The place of a frame request in its core's queue (R322): the group's start order, wave index, slot. -/
abbrev ReqKey := Nat × Nat × Nat

/-- One request stands before another. -/
def keyLt (a b : ReqKey) : Bool :=
  a.1 < b.1 || (a.1 == b.1 && (a.2.1 < b.2.1 || (a.2.1 == b.2.1 && a.2.2 < b.2.2)))

/-- A request in the frame queue of a core: its key, wave and slot. -/
structure FrameWait where
  key  : ReqKey
  wave : Nat
  slot : Nat
  req  : FrameReq
deriving DecidableEq, Repr

/-- A restore of this fragment's frames is being copied back: its request has been granted. -/
def State.restoring (s : State) (core wave slot : Nat) : Bool :=
  match (s.core core).spill with
  | some j => j.back && j.wave == wave && j.slot == slot
  | none => false

/-- The group may run: it is neither draining, held, saved nor ended. -/
def Group.runs (g : Group) : Bool :=
  match g.state with
  | .running => true
  | _ => false

/-- The group is draining. -/
def Group.drains (g : Group) : Bool :=
  match g.state with
  | .draining _ _ _ => true
  | _ => false

/-- The group runs. -/
def State.groupRuns (s : State) (n : Nat) : Bool := ((s.groupAt n).map Group.runs).getD false

/-- The frame queue of a core, in no order; a group that is stopped has no request in it (R288). -/
def State.frameQueue (s : State) (core : Nat) : List FrameWait :=
  (s.allWaves.filter (fun w => w.core == core && s.groupRuns w.group)).flatMap (fun w =>
    let ord := ((s.groupAt w.group).map Group.order).getD 0
    [0, 1].filterMap (fun k =>
      let f := w.slotAt k
      match f.park with
      | .frame r => if f.valid && !s.restoring core w.name k then some ⟨(ord, w.index, k), w.name, k, r⟩ else none
      | _ => none))

/-- The head of a core's frame queue. -/
def State.frameHead (s : State) (core : Nat) : Option FrameWait :=
  match s.frameQueue core with
  | [] => none
  | x :: xs => some (xs.foldl (fun a b => if keyLt b.key a.key then b else a) x)

/-- A request with the given key can be granted now: it stands before every waiting one and the pool meets it. -/
def State.grantable (s : State) (core : Nat) (key : ReqKey) (demand : Nat) : Bool :=
  (s.frameQueue core).all (fun x => !keyLt x.key key) && demand ≤ (s.poolFree core).length

/-- An open window without the registers of a frame: the frame with its key is a new one. -/
def Window.without (w : Window) (key : Nat) : Window :=
  { w with regs := w.regs.filter (fun r => match r with
    | .v k _ => k != key
    | _ => true) }

/-- Perform a CALL in the issuing fragment (R134). -/
def State.enterFrame (s : State) (dem : Nat) (target ret : Word) : State :=
  let f := s.slot
  let key := s.wave.frameKey s.wave.cur (f.depth + 1)
  let fr : Frame :=
    ⟨ret, dem, (s.poolFree s.wave.core).take dem, false, List.replicate (8 * dem) (Lanes.fill 0)⟩
  let s := { s with wave := { s.wave with frames := mset s.wave.frames key fr } }
  s.setSlot { f with
    depth := f.depth + 1, pc := target, park := .no, windows := f.windows.map (fun w => w.without key) }

/-- CALL and CALLI: the frame is entered at once, or the fragment parks with the CALL not yet performed (R135). -/
def State.call (s : State) (i : Instr) (dem : Nat) (target : State → Word) : State :=
  s.issueWith i (fun s => if s.slot.depth = 63 then some 0x010C else none) (fun _ => none) [] (fun s =>
    let ret := s.pc + sizeWord i
    let t := target s
    if s.grantable s.wave.core (s.grp.order, s.wave.index, s.wave.cur) dem then s.enterFrame dem t ret
    else
      let s := s.park (.frame (.call dem t ret))
      let id := s.slot.waitId
      { s with wave := { s.wave with lastCall := id } }.emitN s.grp.part s.issueUnit 0x0103 id s.grp.start dem)

/-- CALL (R134). -/
def execCall (dem : Nat) (off : BitVec 21) (s : State) : Out :=
  .next (s.call (.call dem off) dem (fun s => s.pc + off.signExtend 32))

/-- CALLI (R134). -/
def execCalli (dem : Nat) (a : SSrc) (s : State) : Out := .next (s.call (.calli dem a) dem (fun s => s.ssrc a))

/-- Frame balance of RET (R136). -/
def State.retCause (s : State) : Option Nat :=
  let w := s.wave
  let d := s.slot.depth
  let inSplit := match w.innerAt (w.innermost w.cur) with
    | some (_, fd) => fd == d
    | none => false
  if d = 0 || inSplit then some 0x010D else none

/-- RET (R136): waits for the writes to its frame, frees it and returns. -/
def execRet (s : State) : Out :=
  .next (s.issueHold .ret State.retCause (fun _ => none) []
    (fun s => if s.framePending [s.frameKey] then some .result else none) (fun s =>
      let key := s.frameKey
      let ret := s.frame.ret
      let s := { s with wave := { s.wave with frames := mdel s.wave.frames key } }
      (s.setSlot { s.slot with depth := s.slot.depth - 1, pc := ret }).needFrame))

/-! ## The spill area (R306, R325) -/

/-- Blocks of the context's spill area in use: spilled frames, and frames being copied there. -/
def State.spillUsed (s : State) (ctx : Nat) : Nat :=
  let mine := s.allWaves.filter (fun w => ((s.groupAt w.group).map Group.ctx) == some ctx)
  (mine.map (fun w =>
    let going (key : Nat) : Bool := match (s.core w.core).spill with
      | some j => !j.back && j.wave == w.name && j.frames.contains key
      | none => false
    (w.frames.map (fun p => if p.2.spilled || going p.1 then p.2.blocks else 0)).sum)).sum

/-- Free blocks of the context's spill area. -/
def State.spillFree (s : State) (ctx : Nat) : Nat := ((mget s.ctxs ctx).map Ctx.spillBlks).getD 0 - s.spillUsed ctx

/-! ## Marks and unwinding (R138, R139) -/

/-- UMARK (R138). -/
def execUmark (s : State) : Out :=
  .next (s.issue .umark (fun s => { s with wave := { s.wave with mark := s.slot.depth } }))

/-- UNWIND (R139). -/
def execUnwind (s : State) : Out :=
  .next (s.issueHold .unwind (fun s => if s.slot.depth ≤ s.wave.mark then some 0x010D else none) (fun _ => none) []
    (fun s => if s.framePending (s.wave.unwoundKeys s.wave.cur) then some .result else none) State.unwind)

end Sys2Proof.Machine
end

