-- ==== Sys2Proof/Machine/Traps.lean ====
section
/-!
DEFINITION. Sys2Proof/Machine/Traps.lean: TRAP, BRKPT, HALTW (R287), delivered traps (R276), words that do not decode
(R59), code fetches that fail (R335), CHIMEMARK (R300) and CTXQ (R304).
-/

namespace Sys2Proof.Machine

/-! ## TRAP, BRKPT, HALTW -/

/-- TRAP (R287): raises 0x0601 with ARG in ADDR. -/
def execTrap (n : BitVec 20) (s : State) : Out :=
  .next (s.issueWith (.trap n) (fun _ => none) (fun _ => some { code := 0x0601, addr := n.setWidth 64 }) [] id)

/-- BRKPT (R287): raises 0x0602 with ARG in ADDR, always held. -/
def execBrkpt (n : BitVec 20) (s : State) : Out :=
  .next (s.issueWith (.brkpt n) (fun _ => none) (fun _ => some { code := 0x0602, addr := n.setWidth 64 }) [] id)

/-- Halt the wave in focus (R287): a record and no freeze; both fragments stop, and the wave waits for the host. -/
def State.halt (s : State) : State :=
  let s := s.park .halt
  let t : DelTrap := ⟨0x0603, s.wave.cur, s.pc, s.slot.waitId, 0, 0, 0, 0, 0, true, 1, 0, false, s.time⟩
  let s := s.emitN s.grp.part s.issueUnit 0x0107 t.causal s.grp.start t.code
  let s := s.device (fun d => d.faultWrite s.issueUnit (s.trapRecord t false 0 0))
  let s := { s with wave := { s.wave.clearResv with halted := true } }
  (s.endEnrols s.grp.name).switchPoint

/-- HALTW (R287): it counts in the open windows as any issued instruction (R53). -/
def execHaltw (s : State) : Out :=
  .next (match s.check .haltw (fun _ => none) (fun _ => none) [] with
    | .trap r => s.raise 1 r
    | .wait w => s.stallOn w
    | .go => s.tick.halt)

/-! ## Delivered traps (R276) -/

/-- The slot that takes a delivered trap. -/
def Wave.trapSlot (w : Wave) (t : DelTrap) : Nat :=
  if (w.slotAt t.slot).valid then t.slot else if (w.slotAt (1 - t.slot)).valid then 1 - t.slot else t.slot

/-- Take a delivered trap in its fragment, where it is parked or before it issues again. With every lane gone it is held
(R127). -/
def State.takeDelivered (s : State) (t : DelTrap) : State :=
  let old := s.wave.cur
  let k := s.wave.trapSlot t
  let t := { t with slot := k }
  let s := { s with wave := { s.wave with cur := k } }
  let s := if s.slot.valid then s.takeTrap t else s.holdTrap t
  if (s.wave.slotAt old).valid then { s with wave := { s.wave with cur := old } } else s

/-- A delivered trap of the wave in focus can be taken now. While the group drains, one that arose before the drain is still
taken; one whose record is written waits for the resumption (R278, R290). -/
def State.trapReady (s : State) : Bool :=
  match s.wave.traps with
  | [] => false
  | t :: _ =>
      let k := s.wave.trapSlot t
      let c := { s with wave := { s.wave with cur := k } }
      (s.grp.runs || s.grp.state == .ending || (s.grp.drains && !t.recorded)) && s.wave.life != .done &&
        !(c.slot.valid && c.caught t.code && c.framePending (c.wave.unwoundKeys k))

/-- DELIVERED_TRAP (R276): the oldest pending trap of a wave is taken. -/
def execDeliveredTrap (wave : Nat) (s : State) : Out :=
  let s := s.unfocus.focus wave
  gate "DELIVERED_TRAP" (s.wave.name == wave && wave != 0 && s.trapReady) (
    match s.wave.traps with
    | [] => s
    | t :: ts => { s with wave := { s.wave with traps := ts } }.takeDelivered t)

/-! ## Words that do not decode (R59) and fetches that fail (R335) -/

/-- The code of a cause that decoding reports (R277). -/
def causeCode : Cause → Nat
  | .unassignedMajor => 0x0101
  | .unassignedFunction => 0x0102
  | .reservedField => 0x0103
  | .literalPosition => 0x0104
  | .oddPair => 0x0105
  | .featureAbsent => 0x0106

/-- ILLEGAL_INSTRUCTION_WORD (R59): the word at the program counter raises its cause, precisely. -/
def execIllegalInstructionWord (c : Cause) (s : State) : Out := .next (s.raise 1 { code := causeCode c })

/-- What a fetch brings: an instruction, a word that does not decode, or a failure at a virtual address. -/
inductive Fetched where
  | instr (i : Instr)
  | illegal (c : Cause)
  | failed (f : FetchFault) (va : Nat)
deriving DecidableEq, Repr

/-- A failed read of a code word. -/
def MemFail.fetch (e : MemFail) : Fetched :=
  .failed (match e.err with
    | .notPresent => .notPresent
    | .permission => .permission
    | .poisoned => .poisoned) e.va

/-- Read the code word at a word address (R40, R335). -/
def State.codeWord (s : State) (ctx : Nat) (die : Option Nat) (pc : Word) : State × Except MemFail (List Byte) :=
  s.readPieces 0 die ctx .ex (pieces (4 * pc.toNat) 4)

/-- Fetch the instruction at a word address: its word, and the next one when a field names the literal (R40, R41). -/
def State.fetchAt (s : State) (ctx : Nat) (die : Option Nat) (pc : Word) : State × Fetched :=
  match s.codeWord ctx die pc with
  | (s, .error e) => (s, e.fetch)
  | (s, .ok b) =>
      match decodeWord (leWord b) 0 with
      | .error c => (s, .illegal c)
      | .ok i =>
          if i.words = 2 then
            match s.codeWord ctx die (pc + 1) with
            | (s, .error e) => (s, e.fetch)
            | (s, .ok l) =>
                match decodeWord (leWord b) (leWord l) with
                | .error c => (s, .illegal c)
                | .ok i => (s, .instr i)
          else (s, .instr i)

/-- Fetch the instruction at the program counter of the issuing fragment. -/
def State.fetch (s : State) : State × Fetched := s.fetchAt s.grp.ctx (some (dieOf s.wave.core)) s.pc

/-- The address at which the fetch fails: that of the word at the program counter, or of its literal. -/
def State.fetchAddr (s : State) : Nat :=
  match s.fetch.2 with
  | .failed _ va => va
  | _ => 4 * s.pc.toNat

/-- CODE_FETCH_FAULT (R335): an absent page stalls the fragment until a FAULT_RESUME, with one record; a refused or poisoned
one is a delivered trap. -/
def execCodeFetchFault (f : FetchFault) (s : State) : Out :=
  .next (
    let page : Dword := BitVec.ofNat 64 (pageOf s.fetchAddr)
    let id := s.nextId s.issueUnit
    match f with
    | .notPresent =>
        if s.slot.stall = .refetch page then s.setSlot { s.slot with stall := .page page }
        else
          let s := s.bumpId s.issueUnit
          let t : DelTrap := ⟨0x0701, s.wave.cur, s.pc, id, 0, page, 0, 0, 0, false, 1, 0, false, s.time⟩
          let s := s.setSlot { s.slot with stall := .page page }
          s.device (fun d => d.faultWrite s.issueUnit { s.trapRecord t false page 0 with parked := true })
    | .permission | .poisoned =>
        let code := if f = .permission then 0x0705 else 0x0706
        let t : DelTrap :=
          ⟨code, s.wave.cur, s.pc, id, 0, BitVec.ofNat 64 s.fetchAddr, 0, 0, 0, false, 1, 0, false, s.time⟩
        if s.caught code && s.framePending (s.wave.unwoundKeys s.wave.cur) then s.stallOn .result
        else (s.bumpId s.issueUnit).takeTrap t)

/-! ## CHIMEMARK and CTXQ (R300, R304) -/

/-- The group's logical task index, or all ones. -/
def Group.chimeIndex (g : Group) : Word := g.chime.getD 0xFFFFFFFF#32

/-- CHIMEMARK (R300). It takes an identifier, which a clipped index names (R377; log 81). -/
def execChimemark (d : SReg) (a : SSrc) (s : State) : Out :=
  .next (s.issue (.chimemark d a) (fun s =>
    let x := s.ssrc a
    let id := s.nextId s.issueUnit
    let s' := (s.bumpId s.issueUnit).sset d s.grp.chimeIndex
    { s' with grp := { s'.grp with chime := some x, chimeId := id } }))

/-- A field of the fault queue's control block; a free value when it cannot be read. -/
def State.fqField (s : State) (f : Nat → Nat) : State × Nat :=
  match mget s.ctxs s.grp.ctx with
  | none => (s, 0)
  | some c =>
      let r := (s.unfocus.fqBlock c).2
      let t := s.device (fun d => (d.fqBlock c).1)
      match r with
      | some cb => (t, f cb)
      | none => ({ t with oracle := t.oracle + 1 }, (Config.freeWord t.oracle).toNat)

/-- The context of the group in focus gives a number. -/
def State.ctxNat (s : State) (f : Ctx → Nat) : Nat := ((mget s.ctxs s.grp.ctx).map f).getD 0

/-- CTXQ (R304). -/
def execCtxq (d : SReg) (q : Nat) (s : State) : Out :=
  .next (s.issue (.ctxq d q) (fun s =>
    let (s, x) : State × Nat := match q with
      | 0 => s.fqField (fun cb => (bits cb 31 0 + 2 ^ 32 - bits cb 63 32) % 2 ^ 32)
      | 1 => s.fqField (fun cb => bits cb 95 64)
      | 2 => (s, s.ctxNat (fun c => c.phase.toNat))
      | 3 => (s, s.grp.chimeIndex.toNat)
      | 4 => (s, (loWord s.grp.digest).toNat)
      | 5 => (s, (hiWord s.grp.digest).toNat)
      | 6 => (s, s.spillFree s.grp.ctx)
      | 7 => (s, s.ctxNat (fun c => c.catchMask.toNat * 2))
      | _ => (s, s.ctxNat (fun c => b2n c.replayLost))
    s.sset d (BitVec.ofNat 32 x)))

end Sys2Proof.Machine
end

