-- ==== Sys2Proof/Machine/Sync.lean ====
section
/-!
DEFINITION. Sys2Proof/Machine/Sync.lean: barrier objects (R231 to R241) and hardware semaphores (R242 to R244).
-/

namespace Sys2Proof.Machine

/-! ## The object (R231) -/

/-- A barrier object. -/
structure BarObj where
  outBytes : Nat
  inBytes  : Nat
  owner    : Nat
  reserved : Nat
  faulted  : Bool
  watch    : Bool
  expected : Nat
  pending  : Nat
  gen      : Nat
deriving DecidableEq, Repr

/-- The object in 16 bytes. -/
def BarObj.ofNat (x : Nat) : BarObj :=
  ⟨bits x 127 96, bits x 95 64, bits x 63 40, bits x 39 38, bits x 37 37 == 1, bits x 36 36 == 1, bits x 35 20,
   bits x 19 4, bits x 3 0⟩

/-- The 16 bytes of an object; every barrier operation writes the reserved bits 0. -/
def BarObj.toNat (o : BarObj) : Nat :=
  o.outBytes * 2 ^ 96 + o.inBytes * 2 ^ 64 + o.owner * 2 ^ 40 + b2n o.faulted * 2 ^ 37 + b2n o.watch * 2 ^ 36 +
    o.expected * 2 ^ 20 + o.pending * 2 ^ 4 + o.gen

/-- The object at a scratchpad address of the package. -/
def State.barGet (s : State) (addr : Nat) : BarObj := .ofNat (leNat (s.spadGet addr 16))

/-- Write an object: the granule's reservations are cleared (R232). -/
def State.barPut (s : State) (addr : Nat) (o : BarObj) : State := s.spadPut addr (leBytes 16 o.toNat)

/-- `complete_if_done` of R233 on the object alone: the object after, and whether the generation completed. -/
def BarObj.finish (o : BarObj) : BarObj × Bool :=
  if o.pending = 0 && o.inBytes = 0 && o.outBytes = 0 then
    ({ o with gen := (o.gen + 1) % 16, pending := o.expected }, true)
  else (o, false)

/-- The barrier unit of the cluster that holds an object (R374). -/
def barUnit (addr : Nat) : Nat :=
  let core := addr / 2 ^ 20
  unitDie (dieOf core) (0xA0 + core / 4 % 32)

/-- An object's address as the readout and events give it: the offset, with the core in CORE (R32). -/
def barName (addr : Nat) : Nat := addr / 2 ^ 20 % 4 * 2 ^ 20 + addr % 2 ^ 20

/-- The group whose allocation holds a scratchpad byte. -/
def State.spadOwner (s : State) (addr : Nat) : Option Group :=
  s.allGroups.find? (fun g => g.resident && g.onCore (addr / 2 ^ 20) && g.spadBase ≤ addr % 2 ^ 20 &&
    addr % 2 ^ 20 < g.spadBase + g.spadSize)

/-- A slot waits on an object for a generation other than g. -/
def Slot.waitsOver (f : Slot) (addr g : Nat) : Option SReg :=
  match f.park with
  | .barrier a x sd => if f.valid && a == addr && x.toNat != g then some sd else none
  | _ => none

/-- End the waits of one wave on an object whose generation is now g: SD receives GEN (R237). -/
def Wave.barWake (addr g : Nat) (w : Wave) : Wave :=
  [0, 1].foldl (fun w k => match (w.slotAt k).waitsOver addr g with
    | some sd => (w.sput k sd (BitVec.ofNat 32 g)).wake k
    | none => w) w

/-- Release every wait recorded on an object whose awaited generation is not g. -/
def State.barRelease (s : State) (addr g : Nat) : State := s.mapWaves (Wave.barWake addr g)

/-- What becomes of a completed generation (R233, R239, R390): waits end, tracking and the watch close. -/
def State.barCompleted (s : State) (addr g part : Nat) (causal parent : Dword) : State :=
  let s := s.barRelease addr g
  let s := { s with
    tracks := s.tracks.filter (fun t => t.addr != addr)
    watches := lmod (fun w => w.kind == 1 && w.subject == addr) (fun w => { w with isOver := true })
      (s.watches.filter (fun w => !(w.kind == 1 && w.subject == addr && !w.expired))) }
  s.emitN part (barUnit addr) 0x0401 causal parent (barName addr)

/-- One barrier operation (R232): change the object, and complete the generation if nothing is left. `causal`: the operation,
and `parent` its parent (R375). -/
def State.barOp (s : State) (addr part : Nat) (causal parent : Dword) (f : BarObj → BarObj) : State :=
  let (o, fin) := (f (s.barGet addr)).finish
  let s := s.barPut addr o
  if fin then s.barCompleted addr o.gen part causal parent else s

/-! ## Arrivals (R236, R239) -/

/-- The byte count of an arrival word. -/
def arriveBytes (b : Word) : Nat := b.toNat % 2 ^ 30
/-- The arrival word makes an arrival. -/
def arrives (b : Word) : Bool := !b.getLsbD 31

/-- The arrival word is refused (R236). -/
def BarObj.refuses (o : BarObj) (b : Word) : Bool :=
  (arrives b && o.pending == 0) ||
    0xFFFFFFFF < (if b.getLsbD 30 then o.outBytes else o.inBytes) + arriveBytes b

/-- The object after an accepted arrival word, before completion. -/
def BarObj.arrive (b : Word) (o : BarObj) : BarObj :=
  let o := if b.getLsbD 30 then { o with outBytes := o.outBytes + arriveBytes b }
    else { o with inBytes := o.inBytes + arriveBytes b }
  if arrives b then { o with pending := o.pending - 1 } else o

/-- What is known of an object's generation. -/
def State.track (s : State) (addr : Nat) : Track :=
  (s.tracks.find? (fun t => t.addr == addr)).getD ⟨addr, [], false, false⟩

/-- Replace it. -/
def State.setTrack (s : State) (t : Track) : State :=
  { s with tracks := t :: s.tracks.filter (fun x => x.addr != t.addr) }

/-- The straggler watch of an object begins with this arrival or byte declaration: the first of its generation (R390). -/
def State.barUnwatched (s : State) (addr : Nat) : Bool := (s.barGet addr).watch && !(s.track addr).watched

/-- Start the straggler watch of a watched object at the generation's first arrival or byte declaration (R390); `first` is the
identifier of what makes it. -/
def State.barWatch (s : State) (addr ctx : Nat) (first : Dword) : State :=
  if s.barUnwatched addr then
    let us := ((mget s.ctxs ctx).map (fun c => c.watchBar.toNat)).getD 0
    let id := s.nextId (barUnit addr)
    let group := ((s.spadOwner addr).map Group.name).getD 0
    let s := s.setTrack { s.track addr with watched := true }
    { s.bumpId (barUnit addr) with
      watches := s.watches ++ [⟨1, addr, group, ctx, s.time + 16000 * us, id, first, false, [], [], false⟩] }
  else s

/-- A wave is a late participant of an expired watch on an object. -/
def Watch.lateWave (w : Watch) (addr wave : Nat) : Bool := w.kind == 1 && w.subject == addr && w.expired && w.late.contains wave

/-- Expired watches of barriers go when nothing that they name late is left. -/
def Watch.prune (ws : List Watch) : List Watch :=
  ws.filter (fun w => !(w.kind == 1 && w.expired && w.late.isEmpty && w.lateOps.isEmpty))

/-- A late participant of watched generations arrives: each of their watches reports it (R391). -/
def State.barLate (s : State) (addr : Nat) (wave : Nat) (causal : Dword) : State :=
  let s := (s.watches.filter (fun w => w.lateWave addr wave)).foldl (fun s w =>
    s.emitN s.grp.part (barUnit addr) 0x0503 causal w.causal (min ((s.time - w.till) / 16000) 0xFFFFFFFF)) s
  { s with watches :=
      Watch.prune (lmod (fun w => w.lateWave addr wave) (fun w => { w with late := w.late.filter (· != wave) }) s.watches) }

/-- A wave is a late participant of an expired watch on the object. -/
def State.barIsLate (s : State) (addr wave : Nat) : Bool := s.watches.any (fun w => w.lateWave addr wave)

/-- `arrive` of R236 by the wave in focus. The instruction takes an identifier when an event names it (R375). -/
def State.arriveAt (s : State) (addr : Nat) (b : Word) : State :=
  let mine := match s.spadOwner addr with
    | some g => g.name == s.grp.name
    | none => false
  let late := arrives b && mine && s.barIsLate addr s.wave.index
  let fin := ((BarObj.arrive b (s.barGet addr)).finish).2
  let id := s.nextId s.issueUnit
  let s := if fin || late || s.barUnwatched addr then s.bumpId s.issueUnit else s
  let s := s.barWatch addr s.grp.ctx id
  let s := if arrives b && mine then
      let t := s.track addr
      s.setTrack { t with arrived := insertNat s.wave.index t.arrived }
    else s
  let s := if late then s.barLate addr s.wave.index id else s
  s.barOp addr s.grp.part id s.grp.start (BarObj.arrive b)

/-! ## Barrier instructions (R234 to R238) -/

/-- The checks of an object's address, then of the object (R235). -/
def State.barRaise (s : State) (a : Word) (bad : BarObj → Bool) : Option Raise :=
  match s.scalarRaise a 16 with
  | some r => some r
  | none =>
      match s.spadResolve none a 16 with
      | some addr => if bad (s.barGet addr) then some { code := 0x0402 } else none
      | none => none

/-- The object's place. -/
def State.barAddr (s : State) (a : Word) : Nat := (s.spadResolve none a 16).getD 0

/-- BARINIT's value is refused (R236). -/
def initBad (v : Dword) : Bool := v.extractLsb' 56 8 != 0 || v.extractLsb' 17 15 != 0 || v.extractLsb' 0 16 == 0

/-- The fresh object of BARINIT (R236). -/
def initObj (v : Dword) : BarObj :=
  ⟨0, 0, (v.extractLsb' 32 24).toNat, 0, false, v.getLsbD 16, (v.extractLsb' 0 16).toNat, (v.extractLsb' 0 16).toNat, 0⟩

/-- BARINIT (R236): also releases the waits on another generation than 0. -/
def execBarinit (a : SSrc) (b : SPair) (s : State) : Out :=
  .next (s.issueWith (.barinit a b) (fun _ => none) (fun s => s.barRaise (s.ssrc a) (fun _ => initBad (s.pget b))) []
    (fun s =>
      let addr := s.barAddr (s.ssrc a)
      let v := s.pget b
      let s := { s with
        tracks := s.tracks.filter (fun t => t.addr != addr)
        watches := s.watches.filter (fun w => !(w.kind == 1 && w.subject == addr)) }
      ((s.barPut addr (initObj v)).barRelease addr 0).nextPc (.barinit a b)))

/-- The generation that an object stands in. -/
def State.barGen (s : State) (addr : Nat) : Word := BitVec.ofNat 32 (s.barGet addr).gen

/-- BARARR (R236): SD receives the generation arrived in. -/
def execBararr (d : SReg) (a b : SSrc) (s : State) : Out :=
  .next (s.issueWith (.bararr d a b) (fun _ => none)
    (fun s => s.barRaise (s.ssrc a) (fun o => o.reserved != 0 || o.refuses (s.ssrc b))) [] (fun s =>
      let addr := s.barAddr (s.ssrc a)
      let g := s.barGen addr
      let w := s.ssrc b
      ((s.arriveAt addr w).sset d g).nextPc (.bararr d a b)))

/-- Objects tracked by the unit of an object's cluster. -/
def State.trackedIn (s : State) (addr : Nat) : Nat :=
  (s.tracks.filter (fun t => t.tracked && barUnit t.addr == barUnit addr)).length

/-- Record a wait for the end of generation g and park (R237): tracking begins, or overflows (R239). `id`: the waiting
instruction, which has taken it if it also arrived (R375). -/
def State.barPark (s : State) (i : Instr) (id : Dword) (addr g : Nat) (d : SReg) : State :=
  let s := s.setSlot { s.slot with after := s.pc + sizeWord i }
  let s := s.parkAs (.barrier addr (BitVec.ofNat 4 g) d) id
  let t := s.track addr
  if t.tracked then s
  else if s.trackedIn addr < 64 then s.setTrack { t with tracked := true }
  else s.emitN s.grp.part (barUnit addr) 0x0402 s.slot.waitId s.grp.start (barName addr)

/-- `wait` of R237. It is a barrier operation, which writes the granule (R232). A wait that passes leaves nothing of an earlier
arrival of its word (R241). -/
def State.barWaitOn (s : State) (i : Instr) (addr g : Nat) (d : SReg) : State :=
  let id := s.nextId s.issueUnit
  let s := s.barPut addr (s.barGet addr)
  if (s.barGet addr).gen ≠ g then
    ((s.setSlot { s.slot with rewait := none }).sset d (s.barGen addr)).nextPc i
  else s.barPark i id addr g d

/-- A wait on the object for generation g is refused (R235, R237). -/
def BarObj.waitBad (o : BarObj) (g : Nat) : Bool := o.reserved != 0 || (o.gen == g && o.faulted)

/-- BARWAIT (R237). -/
def execBarwait (d : SReg) (a b : SSrc) (s : State) : Out :=
  .next (s.issueWith (.barwait d a b) (fun _ => none)
    (fun s => s.barRaise (s.ssrc a) (fun o => o.waitBad ((s.ssrc b).toNat % 16))) [] (fun s =>
      s.barWaitOn (.barwait d a b) (s.barAddr (s.ssrc a)) ((s.ssrc b).toNat % 16) d))

/-- A BARARW that has arrived before and issues again as a BARWAIT: its generation (R241). -/
def State.rewaits (s : State) : Option Nat :=
  match s.slot.rewait with
  | some (pc, g) => if pc = s.pc then some g else none
  | none => none

/-- BARARW is refused (R237): FAULTED while its arrival would not complete the generation, or the arrival itself. -/
def BarObj.arwBad (o : BarObj) (b : Word) : Bool :=
  o.reserved != 0 || o.refuses b || (o.faulted && !((o.arrive b).finish).2)

/-- BARARW (R237): arrives, then waits for the generation it arrived in. -/
def execBararw (d : SReg) (a b : SSrc) (s : State) : Out :=
  .next (s.issueWith (.bararw d a b) (fun _ => none)
    (fun s => s.barRaise (s.ssrc a) (fun o => match s.rewaits with
      | some g => o.waitBad g
      | none => o.arwBad (s.ssrc b))) [] (fun s =>
      let i : Instr := .bararw d a b
      let addr := s.barAddr (s.ssrc a)
      match s.rewaits with
      | some g => s.barWaitOn i addr g d
      | none =>
          let g := (s.barGet addr).gen
          let id := s.nextId s.issueUnit
          let s := s.arriveAt addr (s.ssrc b)
          if (s.barGet addr).gen ≠ g then (s.sset d (s.barGen addr)).nextPc i
          else
            let s := s.setSlot { s.slot with rewait := some (s.pc, g) }
            s.barPark i id addr g d))

/-! ## Engine operations on an object (R195, R240) -/

/-- The group is stopped: draining, held or saved. -/
def Group.stopped (g : Group) : Bool :=
  match g.state with
  | .draining _ _ _ | .heldInPlace _ | .saved => true
  | _ => false

/-- The trap that ends a wait on an object marked FAULTED, taken in its own fragment. -/
def faultedTrap (w : Wave) (k node time : Nat) (recorded : Bool) : DelTrap :=
  let f := w.slotAt k
  ⟨0x0402, k, f.pc, f.waitId, 0, 0, 0, 0, node, true, (f.after - f.pc).toNat, 0, recorded, time⟩

/-- A fragment waits on an object. -/
def Wave.waitsBar (w : Wave) (addr k : Nat) : Bool :=
  (w.slotAt k).valid && (match (w.slotAt k).park with
    | .barrier a _ _ => a == addr
    | _ => false)

/-- End a fragment's wait on an object with the barrier-state trap. While its group is stopped the record is written at once,
and the trap waits for the resumption (R290). A BARARW that has arrived then waits only, when it is resumed without a skip (log 98). -/
def State.endWait (s : State) (w : Wave) (k : Nat) : State :=
  let g := (s.groupAt w.group).getD .off
  let stopped := g.stopped
  let t := faultedTrap w k g.node s.time stopped
  let s := s.modWave w.name (fun w =>
    { w.setSlotAt k { w.slotAt k with park := .no } with traps := w.traps ++ [t] })
  if stopped then
    let r := { s with wave := w, grp := g }.trapRecord t false 0 0
    s.device (fun d => d.faultWrite (unitCore w.core 0) r)
  else s

/-- Mark an object FAULTED (R240). An object with reserved bits set is left as it is. -/
def State.barFault (s : State) (addr : Nat) : State :=
  let o := s.barGet addr
  if o.reserved ≠ 0 then s
  else
    (s.allWaves.flatMap (fun w => ([0, 1].filter (w.waitsBar addr)).map (fun k => (w, k)))).foldl
      (fun s p => s.endWait p.1 p.2) (s.barPut addr { o with faulted := true })

/-- What an engine's count or arrival finds wrong. -/
inductive BarTrouble where
  | no
  | underflow
  | refused
deriving DecidableEq, Repr

/-- Count bytes against an object (R195): outbound, or inbound. -/
def State.barCount (s : State) (addr part : Nat) (causal : Dword) (out : Bool) (n : Nat) : State × BarTrouble :=
  let o := s.barGet addr
  if o.reserved ≠ 0 then (s, .refused)
  else
    let short := (if out then o.outBytes else o.inBytes) < n
    (s.barOp addr part causal (s.parentOf causal) (fun o =>
      if out then { o with outBytes := o.outBytes - n } else { o with inBytes := o.inBytes - n }),
      if short then .underflow else .no)

/-- An engine's arrival on an object (R200, R209, R240), which may be its generation's first (R390). -/
def State.barArrive (s : State) (addr part ctx : Nat) (causal : Dword) : State × BarTrouble :=
  let o := s.barGet addr
  if o.reserved ≠ 0 then (s, .refused)
  else if o.pending = 0 then (s, .underflow)
  else
    ((s.barWatch addr ctx causal).barOp addr part causal (s.parentOf causal)
      (fun o => { o with pending := o.pending - 1 }), .no)

/-! ## Semaphores (R242 to R244) -/

/-- The semaphore range cause (R26, R242). -/
def State.semCause (s : State) (a : SSrc) : Option Nat :=
  if (s.ssrc a).toNat < min 64 s.grp.semCount then none else some 0x0109

/-- The semaphore of the core that an operand names. -/
def State.semIndex (s : State) (a : SSrc) : Nat := s.grp.semBase + (s.ssrc a).toNat

/-- A semaphore's count and queue. -/
def State.sem (s : State) (k : Nat) : Nat × List SemWait := mgetD (s.core s.wave.core).sems k (0, [])

/-- Change a semaphore of the issuing core. -/
def State.setSem (s : State) (k : Nat) (x : Nat × List SemWait) : State :=
  let c := s.core s.wave.core
  { s with cores := mset s.cores s.wave.core { c with sems := mset c.sems k x } }

/-- SEMPOST (R243): SD receives the old count. -/
def execSempost (d : SReg) (a b : SSrc) (s : State) : Out :=
  .next (s.issueWith (.sempost d a b) (fun s => s.semCause a) (fun _ => none) [] (fun s =>
    let k := s.semIndex a
    let (c, q) := s.sem k
    let n := (s.ssrc b).toNat % 2 ^ 16
    let rel := (s.ssrc a).toNat
    let s := (s.sset d (BitVec.ofNat 32 c)).nextPc (.sempost d a b)
    let s := (s.setSem k (min (c + n) 65535, q)).serve s.wave.core k
    if 65535 < c + n then s.emitOwn 0x0403 rel else s))

/-- The acquirer may go at once. -/
def State.semFree (s : State) (k n : Nat) : Bool := (s.sem k).2.isEmpty && n ≤ (s.sem k).1

/-- SEMACQ: served at once, or queued and parked. A saved one is issued again by the restore of its group (R244). -/
def State.semacq (s : State) (d : SReg) (a b : SSrc) : State :=
  s.issueWith (.semacq d a b) (fun s => s.semCause a) (fun _ => none) [] (fun s =>
    let k := s.semIndex a
    let n := (s.ssrc b).toNat % 2 ^ 16
    let (c, q) := s.sem k
    if s.semFree k n then
      ((s.setSem k (c - n, q)).sset d (BitVec.ofNat 32 (c - n))).nextPc (.semacq d a b)
    else
      let s := s.setSem k (c, q ++ [⟨s.wave.name, s.wave.cur, n, d⟩])
      let s := s.setSlot { s.slot with after := s.pc + sizeWord (.semacq d a b) }
      s.park (.sem s.wave.core k n d))

/-- SEMACQ (R243). -/
def execSemacq (d : SReg) (a b : SSrc) (s : State) : Out := .next (s.semacq d a b)

/-- SEMTRY (R243). -/
def execSemtry (d : SReg) (a b : SSrc) (s : State) : Out :=
  .next (s.issueWith (.semtry d a b) (fun s => s.semCause a) (fun _ => none) [] (fun s =>
      let k := s.semIndex a
      let n := (s.ssrc b).toNat % 2 ^ 16
      let (c, q) := s.sem k
      let s := if s.semFree k n then (s.setSem k (c - n, q)).sset d (BitVec.ofNat 32 (c - n))
        else s.sset d 0xFFFFFFFF#32
      s.nextPc (.semtry d a b)))

end Sys2Proof.Machine
end

