-- ==== Sys2Proof/Machine/Engine.lean ====
section
/-!
DEFINITION. Sys2Proof/Machine/Engine.lean: what all engine operations share: issue and class counters (R21, R185), engine
addresses (R34, R188, R361, R370), requests to windows and hosts, parking, failure (R190), completion in class order, and
the chime digest (R299).
-/

namespace Sys2Proof.Machine

/-! ## Classes and units -/

/-- A class's place among the counters (R21). -/
def clsIndex : Cls → Nat
  | .bcopy => 0
  | .gather => 1
  | .gatom => 2
  | .matrix => 3
  | .coll => 4

/-- Operations in flight that a core's engine holds (R185). The matrix queue is R215's. -/
def clsRoom : Cls → Nat
  | .bcopy => 1024
  | .gather => 64
  | .gatom => 256
  | .matrix => 0
  | .coll => 16

/-- Change the counter of a class. -/
def Wave.setCount (w : Wave) (c : Cls) (f : Nat → Nat) : Wave :=
  { w with ecnt := Vector.ofFn (fun i : Fin 5 => if i.val = clsIndex c then f (w.ecnt.get i) else w.ecnt.get i) }

/-- The unit that performs an operation (R374). -/
def EngineOp.unit (o : EngineOp) : Nat :=
  match o.cls with
  | .bcopy => unitCore o.core 1
  | .gather | .gatom => unitCore o.core 2
  | .matrix => unitCore o.core 3
  | .coll => unitDie (dieOf o.core) 0x60

/-- An operation by its name. -/
def State.opAt (s : State) (n : Nat) : Option EngineOp := s.ops.find? (fun o => o.name == n)

/-- Change an operation. -/
def State.modOp (s : State) (n : Nat) (f : EngineOp → EngineOp) : State := { s with ops := lmod (fun o => o.name == n) f s.ops }

/-- The operation is the oldest of its class in its wave (R21). -/
def State.isFirst (s : State) (o : EngineOp) : Bool :=
  ((s.ops.find? (fun x => x.wave == o.wave && x.cls == o.cls)).map EngineOp.name) == some o.name

/-! ## Issue (R21, R185) -/

/-- Start an operation for the wave in focus: its identifier, the class counter, the event. -/
def State.startOp (s : State) (cls : Cls) (kind : OpKind) : State :=
  let id := s.nextId s.issueUnit
  let st : OpState := match kind with
    | .empty => .done
    | _ => .going
  let o : EngineOp :=
    { name := s.names, wave := s.wave.name, group := s.grp.name, core := s.wave.core, slot := s.wave.cur, pc := s.pc
      causal := id, cls := cls, sel := s.wave.window, kind := kind, state := st, flags := 0, since := s.time, lead := 0
      last := none, fenced := s.wave.fenced }
  let s := (s.bumpId s.issueUnit).fresh
  let s := { s with ops := s.ops ++ [o], wave := s.wave.setCount cls (· + 1) }
  s.emit s.grp.part s.issueUnit 0x0301 id s.grp.start s.pc

/-- Issue an engine instruction: a class counter at 1,023 parks the fragment with the instruction not issued (R21), and a
full engine stalls it (R185). -/
def State.engineIssue (s : State) (i : Instr) (cls : Cls) (c1 : State → Option Nat) (c3 : State → Option Raise)
    (run : State → State) : State :=
  match s.check i c1 c3 [] with
  | .trap r => s.raise i.words r
  | .wait w => s.stallOn w
  | .go =>
      if s.wave.count (clsIndex cls) = 1023 then
        (s.setSlot { s.slot with after := s.pc, stall := .no }).park (.count cls 1022 true)
      else if clsRoom cls ≤ (s.ops.filter (fun o => o.core == s.wave.core && o.cls == cls)).length then
        s.stallOn (.engine cls)
      else (run s.tick).nextPc i

/-! ## Engine addresses (R34, R188) -/

/-- Where an engine address leads. -/
inductive Place where
  | mem (va : Nat)
  | window (off : Nat)
  | host (off : Nat)
  | bad
deriving DecidableEq, Repr

/-- Read an engine address under a captured selector (R34). -/
def placeOf (sel : BitVec 16) (a : Dword) : Place :=
  let off := (a.extractLsb' 0 53).toNat
  if a.extractLsb' 53 9 ≠ 0 then .bad
  else match (a.extractLsb' 62 2).toNat with
    | 0 => .mem off
    | 1 => if sel = 0 then .bad else .window off
    | 2 => .host off
    | _ => .bad

/-- Kinds of access that a window or host window entry permits. -/
inductive Use where
  | rd | wr | at_
deriving DecidableEq, Repr

/-- The window entry of a selector, or the fault of R361. While the fabric is absent the engine is faulted (R8), and the code
is window absent (log 71). -/
def State.winCheck (s : State) (ctx : Nat) (sel : BitVec 16) (off n : Nat) (u : Use) : Except Nat WinEntry :=
  if 4095 < sel.toNat || !s.feature 4 then .error 0x0703
  else match mget s.windows (ctx * 4096 + sel.toNat) with
    | none => .error 0x0703
    | some e =>
        let may := match u with
          | .rd => e.rd
          | .wr => e.wr
          | .at_ => e.at_
        if !e.v then .error 0x0703
        else if e.pages * 8192 < off + n || !may then .error 0x0705
        else .ok e

/-- The host window entry of an offset, or the fault of R370. -/
def State.hostCheck (s : State) (ctx : Nat) (off n : Nat) (u : Use) : Except Nat HostWin :=
  let i := off / 2 ^ 40
  let o := off % 2 ^ 40
  if 63 < i then .error 0x0703
  else match mget s.hostWin (ctx * 64 + i) with
    | none => .error 0x0703
    | some e =>
        let may := match u with
          | .rd => e.rd
          | .wr => e.wr
          | .at_ => e.at_
        let part := s.partOf ctx
        if !e.v then .error 0x0703
        else if e.size < o + n || !may then .error 0x0705
        else match mget s.qps (qpKey part e.qp) with
          | some q => if q.state == .ready then .ok e else .error 0x0703
          | none => .error 0x0703

/-! ## Requests to windows and hosts (R362, R363, R370) -/

/-- The fields of a request that depend on its kind. -/
structure ReqBody where
  kind    : PKind
  cls     : Nat := 0
  op      : AtomOp := .add
  w64     : Bool := false
  ret     : Bool := false
  len     : Nat := 0
  payload : List Byte := []
deriving DecidableEq, Repr

/-- A fabric port's block. -/
def State.portAt (s : State) (p : Nat) : Port := mgetD s.ports p .reset

/-- A port is enabled by the configuration record, and the fabric is present (R8, R368). -/
def State.portEnabled (s : State) (p : Nat) : Bool := p < 128 && s.feature 4 && s.hub.config.ports.getLsbD p

/-- A port is up. -/
def State.portUp (s : State) (p : Nat) : Bool := s.portEnabled p && (s.portAt p).state == 2

/-- Change a port's block. -/
def State.modPort (s : State) (p : Nat) (f : Port → Port) : State := { s with ports := mset s.ports p (f (s.portAt p)) }

/-- The port that carries a packet of a class to a package (R363): any that is up for class 0, the selector's for class 1.
`skip`: a port to avoid when another exists (R366). -/
def State.portFor (s : State) (cls dst sel : Nat) (skip : Option Nat) : Nat :=
  let ports := mgetD s.routes dst []
  let up := ports.filter (fun p => s.portUp p && some p != skip)
  let ports := if cls = 1 && skip.isNone || up.isEmpty then ports else up
  let i := if cls = 1 then Config.portHash sel else Config.port s.oracle ports.length
  ports.getD (i % max 1 ports.length) 0

/-- The beats of 256 bytes that carry a packet with its header (R362, R364; log 77). -/
def beatsOf (p : Packet) : Nat := (32 + p.payload.length + 255) / 256

/-- The latest packets, oldest first, whose beats are at most n. -/
def keepBeats : Nat → List (PKind × Packet) → List (PKind × Packet) → List (PKind × Packet)
  | _, [], kept => kept
  | n, x :: xs, kept => if beatsOf x.2 ≤ n then keepBeats (n - beatsOf x.2) xs (x :: kept) else kept

/-- Send a packet at a port (R364): the port keeps the last 256 beats for replays; one that trains sends them when training
has ended, and one that is down loses them. -/
def State.portSend (s : State) (port : Nat) (k : PKind) (p : Packet) : State :=
  let x := s.portAt port
  let keep (s : State) : State := s.modPort port (fun x =>
    { x with replay := keepBeats 256 ((k, p) :: x.replay.reverse) [], next := (x.next + beatsOf p) % 256 })
  if !s.portEnabled port || x.state = 0 then s
  else if x.state = 2 then { keep s with outbox := s.outbox ++ [.packet port k p] }
  else keep s

/-- Send a request of an operation (or of a WAITADDR, with `op` 0) to a window, and wait for its answer. -/
def State.sendWindow (s : State) (ctx sel : Nat) (causal : Dword) (op elem : Nat) (e : WinEntry) (off : Nat) (b : ReqBody) :
    State :=
  let p : Packet :=
    { causal := causal, offset := BitVec.ofNat 53 off, window := sel, gen := e.gen, part := s.partOf ctx, ctx := ctx
      cls := b.cls, op := b.op, w64 := b.w64, ret := b.ret, dst := e.device, src := s.hub.config.device, len := b.len
      hchk := .good, base := e.base, tag := s.names, payload := b.payload }
  let port := s.portFor b.cls e.device sel none
  let u : Unacked := ⟨s.names, op, elem, b.kind, p, port, s.time, 0⟩
  { s.fresh with unacked := s.unacked ++ [u], oracle := s.oracle + 1 }.portSend port b.kind p

/-- The outcome of trying an access for an operation. -/
inductive Try (α : Type) where
  | ok (a : α)
  | sent
  | absent (page : Nat)
  | fault (code : Nat) (addr : Dword)
  | hold
deriving DecidableEq, Repr

/-- The window entry for an access of an operation, or the fault of R361; `none` while packets that the operation sent to the
window are unanswered and its entry has gone: after a retirement their NACK decides (R367). -/
def State.winTry (s : State) (o : EngineOp) (off n : Nat) (u : Use) : Except (Option Nat) WinEntry :=
  match s.winCheck (((s.groupAt o.group).map Group.ctx).getD 0) o.sel off n u with
  | .ok e => .ok e
  | .error c =>
      if c = 0x0703 && s.unacked.any (fun u => u.op == o.name && u.pkt.window == o.sel.toNat) then .error none
      else .error (some c)

/-- A failure of global memory as a try. -/
def MemFail.try (e : MemFail) {α : Type} : Try α :=
  match e.err with
  | .notPresent => .absent (pageOf e.va)
  | x => .fault x.code (BitVec.ofNat 64 e.va)

/-- The die of an operation's core, as a requester. -/
def EngineOp.die (o : EngineOp) : Option Nat := some (dieOf o.core)

/-- The context of an operation. -/
def State.opCtx (s : State) (o : EngineOp) : Nat := ((s.groupAt o.group).map Group.ctx).getD 0

/-- An access to global memory at an address has been performed: a later park on its page is a new one (R286). -/
def State.reached (s : State) (o : EngineOp) (va n : Nat) : State :=
  if o.last == some (BitVec.ofNat 64 (pageOf va)) || o.last == some (BitVec.ofNat 64 (pageOf (va + n - 1))) then
    s.modOp o.name (fun x => { x with last := none })
  else s

/-- Read bytes at an engine address: at once from global memory, else by a request. -/
def State.tryRead (s : State) (o : EngineOp) (elem : Nat) (a : Dword) (n : Nat) : State × Try (List Byte) :=
  let ctx := s.opCtx o
  match placeOf o.sel a with
  | .bad => (s, .fault 0x0702 a)
  | .mem va =>
      let (s, r) := s.gread o.causal o.die ctx va n
      match r with
      | .ok b => (s.reached o va n, .ok b)
      | .error e => (s, e.try)
  | .window off =>
      match s.winTry o off n .rd with
      | .error none => (s, .hold)
      | .error (some c) => (s, .fault c a)
      | .ok e => (s.sendWindow ctx o.sel.toNat o.causal o.name elem e off { kind := .readReq, len := n }, .sent)
  | .host off =>
      match s.hostCheck ctx off n .rd with
      | .error c => (s, .fault c a)
      | .ok e =>
          (s.hostSend (.op o.name elem a) (s.partOf ctx) e.qp 1 (e.va + BitVec.ofNat 64 (off % 2 ^ 40)) e.rkey n [] 0, .sent)

/-! ## The chime digest (R299) -/

/-- `term` of R299: word address, space, window, byte mask, value. -/
def chimeTerm (a p w m : Nat) (v : Word) : Dword :=
  let ofN (x : Nat) : Word := BitVec.ofNat 32 x
  let bytes : Word := (List.range 4).foldl (fun x i => if m.testBit i then x ||| (0xFF#32 <<< (8 * i)) else x) 0
  let x := mix (ofN a ^^^ 0x6368696D#32)
  let x := mix (x ^^^ ofN (bits a 50 32 ^^^ (m * 2 ^ 28)))
  let x := mix (x ^^^ ofN (p * 2 ^ 16) ^^^ ofN w)
  let y := mix (x ^^^ (v &&& bytes))
  pairOf y (mix (y ^^^ 0x9E3779B9#32))

/-- The sum of the terms of a write of bytes at an address. -/
def chimeSum (p w a : Nat) (b : List Byte) : Dword :=
  let first := a / 4
  let count := if b.isEmpty then 0 else (a + b.length - 1) / 4 - first + 1
  (List.range count).foldl (fun d k =>
    let word := first + k
    let inside (i : Nat) : Bool := a ≤ 4 * word + i && 4 * word + i < a + b.length
    let m := (List.range 4).foldl (fun m i => if inside i then m + 2 ^ i else m) 0
    let v := leWord ((List.range 4).map (fun i => if inside i then b.getD (4 * word + i - a) 0 else 0))
    d + chimeTerm word p w m v) 0

/-- A write performed by a group's operation enters the group's digest. -/
def State.chimeAdd (s : State) (group p w a : Nat) (b : List Byte) : State :=
  s.modGroup group (fun g => { g with digest := g.digest + chimeSum p w a b })

/-! ## Writes after a FENCE with a release (R270, R363; log 76) -/

/-- Every earlier packet of the context to the package has been acknowledged: a release may be sent (R363). -/
def State.releasable (s : State) (ctx dev : Nat) : Bool := !s.unacked.any (fun u => u.pkt.ctx == ctx && u.pkt.dst == dev)

/-- A write of an operation that issued after a FENCE with a release at `.device` or wider: what was written before has been
performed there first. -/
def State.fenceFirst (s : State) (o : EngineOp) : State :=
  if (o.fenced.map Scope.wide).getD false then s.applyNotices else s

/-- The ordering class of an operation's window writes: relaxed, or a release. -/
def EngineOp.writeCls (o : EngineOp) : Nat := if o.fenced.isSome then 2 else 0

/-- A write of an operation to global memory. -/
def State.opWrite (s : State) (o : EngineOp) (va : Nat) (b : List Byte) (nt : Bool) : State × Except MemFail Unit :=
  (s.fenceFirst o).gwrite o.causal o.die (s.opCtx o) va b nt .ewr

/-- Write bytes at an engine address: at once to global memory, else by a request. A window write enters the digest when
its acknowledgement says that it has been performed. -/
def State.tryWrite (s : State) (o : EngineOp) (elem : Nat) (a : Dword) (b : List Byte) (nt : Bool) : State × Try Unit :=
  let ctx := s.opCtx o
  match placeOf o.sel a with
  | .bad => (s, .fault 0x0702 a)
  | .mem va =>
      let (s, r) := s.opWrite o va b nt
      match r with
      | .ok () => ((s.reached o va b.length).chimeAdd o.group 0 0 va b, .ok ())
      | .error e => (s, e.try)
  | .window off =>
      match s.winTry o off b.length .wr with
      | .error none => (s, .hold)
      | .error (some c) => (s, .fault c a)
      | .ok e =>
          if o.fenced.isSome && !s.releasable ctx e.device then (s, .hold)
          else ((s.fenceFirst o).sendWindow ctx o.sel.toNat o.causal o.name elem e off
            { kind := .write, cls := o.writeCls, len := b.length, payload := b }, .sent)
  | .host off =>
      match s.hostCheck ctx off b.length .wr with
      | .error c => (s, .fault c a)
      | .ok e =>
          ((s.fenceFirst o).hostSend (.op o.name elem a) (s.partOf ctx) e.qp 0 (e.va + BitVec.ofNat 64 (off % 2 ^ 40)) e.rkey b.length b 0,
            .sent)

/-! ## Fault records of operations (R190, R283) -/

/-- The group has been cancelled, or is gone. -/
def State.groupGone (s : State) (n : Nat) : Bool :=
  match s.groupAt n with
  | none => true
  | some g => g.state == .cancelled

/-- A record about an operation. -/
def State.opRecord (s : State) (o : EngineOp) (kind code : Nat) (parked : Bool) (addr mask : Dword) (info : Nat) : FaultRec :=
  let g := (s.groupAt o.group).getD .off
  let w := (s.waveAt o.wave).getD .off
  { kind := kind, ctx := g.ctx, part := g.part, grp := g.gid, precise := false, parked := parked, caught := false
    slot := o.slot, wave := w.index, code := code, pc := o.pc, causal := o.causal, time := s.time
    parent := g.start, hi := hiFault mask 0 addr g.lid info }

/-- The barrier object that an operation names. -/
def EngineOp.bar (o : EngineOp) : Option Nat :=
  match o.kind with
  | .copy c => c.bar.map (rawSpad o.core)
  | .coll c => c.bar.map (rawSpad o.core)
  | _ => none

/-- What an engine's count or arrival ran into becomes a record (R240). -/
def State.barRecord (s : State) (o : EngineOp) (addr : Nat) : BarTrouble → State
  | .no => s
  | .underflow => s.faultWrite o.unit (s.opRecord o 3 0x0710 false (BitVec.ofNat 64 (barName addr)) 0 0)
  | .refused => s.faultWrite o.unit (s.opRecord o 3 0x070F false (BitVec.ofNat 64 (barName addr)) 0 0)

/-- Bits [511:256] of the KIND 4 record of a digest split (R284): the fields of the chime check, and the phase. -/
def EngineOp.splitBits (o : EngineOp) (phase : Word) : Nat :=
  match o.kind with
  | .chime c => c.first.toNat + c.other.toNat * 2 ^ 64 + c.lowest.toNat * 2 ^ 128 + phase.toNat * 2 ^ 160 + c.own.toNat * 2 ^ 192
  | _ => 0

/-- The fault of an operation that completes as failed (R190): its object is marked, and the wave gets the engine-fault
trap; a digest split gets a KIND 4 record (R303). A cancelled group takes none. While the group is stopped, the record is
written at once (R290). -/
def State.faultOp (s : State) (o : EngineOp) (code : Nat) (addr mask : Dword) (info : Nat) : State :=
  let s := match o.bar with
    | some b => s.barFault b
    | none => s
  if s.groupGone o.group then s
  else
    let stopped := ((s.groupAt o.group).map Group.stopped).getD false
    let split := code == 0x0801
    let kind := if split then 4 else 1
    let digest := if split then o.splitBits (((mget s.ctxs (s.opCtx o)).map Ctx.phase).getD 0) else 0
    let t : DelTrap := ⟨code, o.slot, o.pc, o.causal, kind, addr, mask, 0, info, false, 1, digest, stopped, s.time⟩
    let r := s.opRecord o kind code false addr mask info
    let s := if stopped then s.faultWrite o.unit (if split then { r with hi := digest } else r) else s
    s.modWave o.wave (fun w => { w with traps := w.traps ++ [t] })

/-! ## Completion in class order (R21) -/

/-- End a wave's waits on a class whose counter has fallen (R205, R21). -/
def Wave.countWake (c : Cls) (w : Wave) : Wave :=
  [0, 1].foldl (fun w k => match (w.slotAt k).park with
    | .count c' n _ => if c' = c && w.count (clsIndex c) ≤ n then w.wake k else w
    | _ => w) w

/-- Write words into the lanes of a mask of a range, in the frame with the given key. -/
def Wave.putRange (w : Wave) (key : Nat) (r : VReg) (m : Dword) (vals : List Lanes) : Wave :=
  (List.zip (List.range vals.length) vals).foldl (fun w p =>
    let x := vplus r p.1
    w.vset key x (merge m p.2 (w.vget key x))) w

/-- The lanes of a returning atomic that have been performed. -/
def GatomOp.doneLanes (g : GatomOp) : Dword := g.lanes &&& ~~~g.notDone

/-- The registers that a finished operation writes in its wave. -/
def EngineOp.deliver (o : EngineOp) (w : Wave) : Wave :=
  match o.kind with
  | .gatom g =>
      if g.ret then
        let val (k : Nat) : Lanes := lanesFn (fun i =>
          let x := g.old.getD i 0
          if k = 0 then loWord x else hiWord x)
        w.putRange g.frame g.reg g.doneLanes ((List.range (if g.w64 then 2 else 1)).map val)
      else w
  | .gchunk g =>
      match g.res with
      | some (a, n) => (w.sput o.slot g.sd a).sput o.slot (g.sd + 1) n
      | none => w
  | .chime c =>
      match o.state with
      | .done | .failed 0x0801 _ _ => w.sput o.slot c.sd (BitVec.ofNat 32 c.status)
      | _ => w
  | _ => w

/-- Elements of a copy with the layout record x (R193). -/
def copyTotal (x : Nat) : Nat := (bits x 143 128 + 1) * (bits x 159 144 + 1) * (bits x 175 160 + 1)

/-- The operation has done what its barrier waits for: a copy all its elements, another operation all it does. -/
def EngineOp.arrived (o : EngineOp) : Bool :=
  o.state == .done && (match o.kind with
    | .copy c => (match c.recd with
      | some x => copyTotal x ≤ c.low
      | none => false)
    | _ => true)

/-- An operation that straggler watches name late ends: where it arrives, each of them reports it (R391). -/
def State.opLate (s : State) (o : EngineOp) (part : Nat) : State :=
  let mine (w : Watch) : Bool := w.expired && w.lateOps.contains o.name
  let s := if o.arrived then (s.watches.filter mine).foldl (fun s w =>
      s.emitN part o.unit 0x0503 o.causal w.causal (min ((s.time - w.till) / 16000) 0xFFFFFFFF)) s
    else s
  { s with watches := Watch.prune (lmod mine (fun w => { w with lateOps := w.lateOps.filter (· != o.name) }) s.watches) }

/-- Every frame of a wave whose group has been ended returns to the pool, once its matrix instructions have finished
(R298). -/
def State.popFrames (s : State) (wave : Nat) : State :=
  if s.ops.any (fun o => o.wave == wave && o.cls == .matrix) then s else s.modWave wave (fun w => { w with frames := [] })

/-- The acquire part of an atomic that has been performed (R269): the die discards its expired leases. -/
def State.atomAcquire (s : State) (o : EngineOp) (g : GatomOp) : State :=
  if acquires g.ord then s.acquireOn g.scope (dieOf o.core) else s

/-- The acquire part of an atomic that failed at a lane: it has been performed in the others (R190, R269). -/
def State.failedAcquire (s : State) (o : EngineOp) : State :=
  match o.kind, o.state with
  | .gatom g, .failed _ _ _ => if g.lanes &&& ~~~g.notDone != 0 then s.atomAcquire o g else s
  | _, _ => s

/-- Complete one operation: results, flags, event, counter, waits. The record of a failed follower, which had addressed nothing, has
MASK_A 0 (log 95). -/
def State.completeOne (s : State) (o : EngineOp) : State :=
  let part := ((s.groupAt o.group).map Group.part).getD 0
  let s := (s.opLate o part).failedAcquire o
  let s := { s with ops := s.ops.filter (fun x => x.name != o.name) }
  let (s, code) := match o.state with
    | .failed code addr info =>
        let mask := match o.kind with
          | .gather g => g.notDone
          | .gatom g => g.notDone
          | .copy _ => o.lead
          | _ => 0
        (s.faultOp o code addr mask info, code)
    | _ => (s, 0)
  let s := s.modWave o.wave (fun w =>
    let w := o.deliver w
    ({ w with flags := w.flags ||| o.flags }.setCount o.cls (· - 1)).countWake o.cls)
  let s := if s.groupGone o.group then s.popFrames o.wave else s
  s.emitN part o.unit 0x0302 o.causal (s.startOf o.group) code

/-- An operation has ended its work. -/
def EngineOp.ended (o : EngineOp) : Bool :=
  match o.state with
  | .done | .failed _ _ _ => true
  | _ => false

/-- Nothing that an operation has sent to a window or a host is unanswered. -/
def State.answered (s : State) (op : Nat) : Bool :=
  !(s.unacked.any (fun u => u.op == op)) && !(s.hostOps.any (fun h => match h.use with
    | .op n _ _ => n == op
    | _ => false))

/-- Complete an ended operation that has all its answers when it is the oldest of its class, and those of the class that
had ended before it. -/
def State.completeFrom : Nat → State → Nat → Cls → State
  | 0, s, _, _ => s
  | n + 1, s, wave, c =>
      match s.ops.find? (fun x => x.wave == wave && x.cls == c) with
      | none => s
      | some o => if o.ended && s.answered o.name then State.completeFrom n (s.completeOne o) wave c else s

/-- Settle an operation that has ended. -/
def State.settleOp (s : State) (o : EngineOp) : State := State.completeFrom (s.ops.length + 1) s o.wave o.cls

/-- Park an operation on an absent page (R190): a record, unless it retries there. In a cancelled group it fails instead,
without a record (R255). -/
def State.parkOp (s : State) (o : EngineOp) (page : Nat) (mask : Dword) : State :=
  let p : Dword := BitVec.ofNat 64 page
  if s.groupGone o.group then (s.modOp o.name (fun x => { x with state := .failed 0x0701 p 0 })).settleOp o
  else
    let again := o.last == some p
    let s := s.modOp o.name (fun x => { x with state := .parked p, last := some p, since := s.time })
    if again then s
    else
      let s := s.faultWrite o.unit (s.opRecord o 1 0x0701 true p mask 0)
      s.emitN (((s.groupAt o.group).map Group.part).getD 0) o.unit 0x0303 o.causal (s.startOf o.group)
        (bits page 43 13)

/-- Settle an operation by its name, if it is there. -/
def State.settleNamed (s : State) (op : Nat) : State :=
  match s.opAt op with
  | some o => s.settleOp o
  | none => s

/-- An element or a lane is no longer on its way. -/
def State.unsend (s : State) (op elem : Nat) : State :=
  s.modOp op (fun o => match o.kind with
    | .copy c => { o with kind := .copy { c with sent := c.sent.filter (· != elem) } }
    | .gather g => { o with kind := .gather { g with sent := g.sent &&& ~~~(laneBit elem) } }
    | .gatom g => { o with kind := .gatom { g with sent := g.sent &&& ~~~(laneBit elem) } }
    | _ => o)

end Sys2Proof.Machine
end

