-- ==== Sys2Proof/Machine/Copy.lean ====
section
/-!
DEFINITION. Sys2Proof/Machine/Copy.lean: bulk copies (R192 to R195) and peals (R196 to R200, R272, R341, R356).
-/

namespace Sys2Proof.Machine

/-! ## The layout record (R193) -/

/-- Read a layout record; `none` when the engine rejects it. -/
def Layout.ofNat (x : Nat) : Option Layout :=
  let e := bits x 386 384
  let size := 2 ^ e
  let dir := bits x 389 388
  let src := bits x 63 0
  let dst := bits x 127 64
  let strides := [bits x 383 336, bits x 335 288, bits x 287 240, bits x 239 192]
  let reserved := bits x 511 464 == 0 && bits x 399 390 == 0 && bits x 387 387 == 0 && bits x 191 176 == 0
  let spadSide := if dir = 0 then dst else if dir = 1 then src else 0
  if reserved && dir != 3 && e ≤ 4 && (src :: dst :: strides).all (fun v => v % size == 0) && spadSide < 2 ^ 32 then
    some {
      src := BitVec.ofNat 64 src, dst := BitVec.ofNat 64 dst
      n0 := bits x 143 128, n1 := bits x 159 144, n2 := bits x 175 160
      ss1 := sint 48 (bits x 239 192), ss2 := sint 48 (bits x 287 240)
      ds1 := sint 48 (bits x 335 288), ds2 := sint 48 (bits x 383 336)
      esize := size, dir := dir, lim0 := bits x 415 400, lim1 := bits x 431 416, fill := BitVec.ofNat 32 (bits x 463 432) }
  else none

/-- Elements of a copy. -/
def Layout.total (l : Layout) : Nat := (l.n0 + 1) * (l.n1 + 1) * (l.n2 + 1)

/-- The loop indices (i0, i1, i2) of an element in the order of R194. -/
def Layout.index (l : Layout) (e : Nat) : Nat × Nat × Nat :=
  (e % (l.n0 + 1), e / (l.n0 + 1) % (l.n1 + 1), e / ((l.n0 + 1) * (l.n1 + 1)))

/-- The address of an element on the side with the given base and strides. -/
def Layout.addr (l : Layout) (base : Dword) (s1 s2 : Int) (e : Nat) : Dword :=
  let (i0, i1, i2) := l.index e
  base + BitVec.ofInt 64 ((i0 * l.esize : Nat) + i1 * s1 + i2 * s2)

/-- The source address of an element. -/
def Layout.srcAt (l : Layout) (e : Nat) : Dword := l.addr l.src l.ss1 l.ss2 e
/-- The destination address of an element. -/
def Layout.dstAt (l : Layout) (e : Nat) : Dword := l.addr l.dst l.ds1 l.ds2 e

/-- The element lies within the limits. -/
def Layout.inLimits (l : Layout) (e : Nat) : Bool :=
  let (i0, i1, _) := l.index e
  !((l.lim0 != 0 && l.lim0 ≤ i0) || (l.lim1 != 0 && l.lim1 ≤ i1))

/-- `fill(E)` of R194. -/
def Layout.fillBytes (l : Layout) : List Byte :=
  ((List.replicate 4 (leBytes 4 l.fill.toNat)).flatten).take l.esize

/-- The scratchpad place of a record address for an operation of a group on a core (R186), inside the group's allocation
(R193). -/
def recSpad (g : Group) (core : Nat) (a : Dword) (n : Nat) : Option Nat :=
  let off := (a.extractLsb' 0 20).toNat + g.spadBase
  let w := a.getLsbD 22
  let c := (a.extractLsb' 20 2).toNat
  let target := if w then core / 4 * 4 + c else core
  if a.extractLsb' 23 41 = 0 && (w || c == 0) && g.onCore target && off + n ≤ g.spadBase + g.spadSize then
    some (spadAddr target off)
  else none

/-- The scratchpad side of an element, if it has one that is accessed. -/
def Layout.spadSide (l : Layout) (e : Nat) : Option Dword :=
  if l.dir = 0 then some (l.dstAt e) else if l.dir = 1 && l.inLimits e then some (l.srcAt e) else none

/-- Every scratchpad element lies in the group's allocation. -/
def Layout.inBounds (l : Layout) (g : Group) (core : Nat) : Bool :=
  (List.range l.total).all (fun e => match l.spadSide e with
    | some a => (recSpad g core a l.esize).isSome
    | none => true)

/-- The record suits a BCOPYP: into a scratchpad, from global memory (R199). -/
def Layout.pealOk (l : Layout) : Bool := l.dir == 0 && l.src.extractLsb' 62 2 == 0

/-! ## Issue of BCOPY and BCOPYP (R187, R192) -/

/-- How a record address names its record (R187). -/
inductive RecAt where
  | global
  | spad (a : Word)
  | bad
deriving DecidableEq, Repr

/-- The form of a record address. -/
def recAt (a : Dword) : RecAt :=
  if a.extractLsb' 62 2 = 3 then (if a.extractLsb' 32 30 = 0 then .spad (loWord a) else .bad) else .global

/-- The checks of a scratchpad record of 64 bytes at issue in the order of R278: canonical form, the bounds without which it
cannot be read, `bad` of its contents, and alignment (R187). -/
def State.recRaise (s : State) (a : Dword) (bad : Nat → Option Nat) : Option Raise :=
  match recAt a with
  | .global => none
  | .bad => some { code := 0x0304, addr := a }
  | .spad x =>
      if (s.spadResolve none x 64).isNone then some { code := 0x0301, addr := x.setWidth 64 }
      else match bad (leNat (s.spadLoad x 64)) with
        | some c => some { code := c, addr := x.setWidth 64 }
        | none => if aligned x 16 then none else some { code := 0x0302, addr := x.setWidth 64 }

/-- What a scratchpad layout record is refused for at issue. -/
def State.layoutBad (s : State) (peal : Bool) (x : Nat) : Option Nat :=
  match Layout.ofNat x with
  | none => some 0x0306
  | some l =>
      if peal && !l.pealOk then some 0x0306
      else if !l.inBounds s.grp s.wave.core then some 0x0301
      else none

/-- The check of a barrier operand (R192); `lead` is the leader's mask. -/
def State.barOperand (s : State) (b : Word) (lead : Dword) : Option Raise :=
  if b.getLsbD 31 then none
  else if (s.spadResolve none b 16).isNone then some { code := 0x0301, addr := b.setWidth 64, maskA := lead }
  else if !aligned b 16 then some { code := 0x0302, addr := b.setWidth 64, maskB := lead }
  else none

/-- The core is enrolled in the peal by the group. -/
def State.enrolled (s : State) (ctx peal core group : Nat) : Bool := s.enrols.contains ⟨ctx, peal, core, group⟩

/-- The order of R278 between the raises of a record and a barrier operand: the smaller rank is reported. -/
def raiseRank (code : Nat) : Nat :=
  match code with
  | 0x0304 => 0
  | 0x0305 => 1
  | 0x0306 => 2
  | 0x0303 => 3
  | 0x0301 => 4
  | 0x0302 => 5
  | _ => 6

/-- The first of two raises in the order of R278. -/
def firstRaise (a b : Option Raise) : Option Raise :=
  match a, b with
  | some x, some y => if raiseRank y.code < raiseRank x.code then some y else some x
  | some x, none => some x
  | none, y => y

/-- A raise with the leader lane in the mask of lanes that fail alignment, or in the other one (R192, R284). -/
def Raise.ofLane (i : Nat) (r : Raise) : Raise :=
  if r.code = 0x0302 then { r with maskB := laneBit i } else { r with maskA := laneBit i }

/-- The leader lane's 64-bit address in a two-register range. -/
def State.laneAddr (s : State) (a : VReg) (i : Nat) : Dword := pairOf (lane (s.vget a) i) (lane (s.vget (vplus a 1)) i)

/-- The class 0x03 and 0x04 checks of a copy. -/
def State.copyRaise (s : State) (a : VReg) (b : VSrc) (peal : Option Nat) : Option Raise :=
  let data := match lowest s.exec with
    | none => none
    | some i =>
        firstRaise ((s.recRaise (s.laneAddr a i) (s.layoutBad peal.isSome)).map (Raise.ofLane i))
          (s.barOperand (lane (s.vsrc b) i) (laneBit i))
  match data, peal with
  | some r, _ => some r
  | none, some p => if s.enrolled s.grp.ctx p s.wave.core s.grp.name then none else some { code := 0x0401 }
  | none, none => none

/-- Start the copy that the leader lane describes; without an active lane, an empty operation (R185). -/
def State.startCopy (s : State) (a : VReg) (b : VSrc) (nt : Bool) (peal : Option Nat) : State :=
  match lowest s.exec with
  | none => s.startOp .bcopy .empty
  | some i =>
      let r := s.laneAddr a i
      let recd := match recAt r with
        | .spad x => some (leNat (s.spadLoad x 64))
        | _ => none
      let bar := lane (s.vsrc b) i
      let c : CopyOp :=
        { recAddr := r, recd := recd, bar := if bar.getLsbD 31 then none else some bar, peal := peal
          left := false, nt := nt, low := 0, doneMap := 0, sent := [], got := [], asked := [], fills := [], plain := [] }
      let n := s.names
      (s.startOp .bcopy (.copy c)).modOp n (fun o => { o with lead := laneBit i })

/-- BCOPY (R192). -/
def execBcopy (a : VReg) (b : VSrc) (nt : Bool) (s : State) : Out :=
  .next (s.engineIssue (.bcopy a b nt) .bcopy (fun _ => none) (fun s => s.copyRaise a b none)
    (fun s => s.startCopy a b nt none))

/-- BCOPYP (R192, R199). -/
def execBcopyp (a : VReg) (b : VSrc) (peal : BitVec 6) (s : State) : Out :=
  .next (s.engineIssue (.bcopyp a b peal) .bcopy (fun _ => none) (fun s => s.copyRaise a b (some peal.toNat))
    (fun s => s.startCopy a b false (some peal.toNat)))

/-! ## Moving elements (R193 to R195) -/

/-- The copy of an operation. -/
def EngineOp.copy? (o : EngineOp) : Option CopyOp :=
  match o.kind with
  | .copy c => some c
  | _ => none

/-- Change the copy of an operation. -/
def State.modCopy (s : State) (n : Nat) (f : CopyOp → CopyOp) : State :=
  s.modOp n (fun o => match o.kind with
    | .copy c => { o with kind := .copy (f c) }
    | _ => o)

/-- An operation fails; it completes in class order. -/
def State.failOp (s : State) (o : EngineOp) (code : Nat) (addr : Dword) (info : Nat) : State :=
  (s.modOp o.name (fun x => { x with state := .failed code addr info })).settleOp o

/-- The engine has the record: read it once from global memory, and check it (R187, R193, R199). -/
def State.copyRecord (s : State) (o : EngineOp) (c : CopyOp) : State × Option Layout :=
  let g := (s.groupAt o.group).getD .off
  match c.recd with
  | some x => (s, Layout.ofNat x)
  | none =>
      match placeOf o.sel c.recAddr with
      | .mem va =>
          if va % 16 ≠ 0 then (s.failOp o 0x0708 c.recAddr 0, none)
          else
            let (s, r) := s.gread o.causal o.die (s.opCtx o) va 64
            match r with
            | .error e =>
                match (e.try : Try Unit) with
                | .absent page => (s.parkOp o page o.lead, none)
                | .fault code a => (s.failOp o code a 0, none)
                | _ => (s, none)
            | .ok b =>
                match Layout.ofNat (leNat b) with
                | none => (s.failOp o 0x0708 c.recAddr 0, none)
                | some l =>
                    if c.peal.isSome && !l.pealOk then (s.failOp o 0x0708 c.recAddr 0, none)
                    else if !l.inBounds g o.core then (s.failOp o 0x0709 c.recAddr 0, none)
                    else ((s.reached o va 64).modCopy o.name (fun c => { c with recd := some (leNat b) }), some l)
      | _ => (s.failOp o 0x0702 c.recAddr 0, none)

/-- Mark an element done: LOW and DONE move on (R288). -/
def CopyOp.mark (c : CopyOp) (e : Nat) : CopyOp :=
  let m := c.doneMap ||| laneBit (e - c.low)
  let skip := ((List.range 64).takeWhile (fun i => bit m i)).length
  { c with
    low := c.low + skip, doneMap := m >>> skip, sent := c.sent.filter (· != e), got := mdel c.got e }

/-- An element has been performed or skipped: it is counted against the barrier (R195). -/
def State.elemDone (s : State) (o : EngineOp) (l : Layout) (e : Nat) : State :=
  let s := s.modCopy o.name (fun c => c.mark e)
  match o.bar with
  | none => s
  | some addr =>
      let part := ((s.groupAt o.group).map Group.part).getD 0
      let (s, t) := s.barCount addr part o.causal (l.dir != 0) l.esize
      s.barRecord o addr t

/-- What becomes of a copy's attempt at an element. -/
def State.copyTry {α : Type} (s : State) (o : EngineOp) (e : Nat) (t : Try α) (ok : State → α → State) : State :=
  match t with
  | .ok a => ok s a
  | .sent => s.modCopy o.name (fun c => { c with sent := e :: c.sent, got := mdel c.got e })
  | .absent page => s.parkOp o page o.lead
  | .fault code a => s.failOp o code a 0
  | .hold => s

/-- An element of the window writes its destination, out of limits with its fill. -/
def Layout.writes (l : Layout) (e : Nat) : Bool := l.dir != 1 || l.inLimits e

/-- The destination of an element as the place it stands for: an address in a scratchpad with W = 0 is that of the copy's own core
in the cluster (R32, R186). -/
def Layout.destAt (l : Layout) (core e : Nat) : Dword :=
  let a := l.dstAt e
  if l.dir = 0 && !a.getLsbD 22 && a.extractLsb' 20 2 == 0 then a ||| BitVec.ofNat 64 (2 ^ 22 + core % 4 * 2 ^ 20) else a

/-- A later element with the same destination has been performed: the earlier one writes nothing, since each byte takes the value
of the element that comes last (R194). -/
def CopyOp.superseded (c : CopyOp) (l : Layout) (core e : Nat) : Bool :=
  (List.range 64).any (fun k => e < c.low + k && c.low + k < l.total && bit c.doneMap k && l.writes (c.low + k) &&
    l.destAt core (c.low + k) == l.destAt core e)

/-- Read global memory without leaving a line in the caches (R194). -/
def State.greadNt (s : State) (req : Dword) (die : Option Nat) (ctx va n : Nat) : State × Except MemFail (List Byte) :=
  let (t, r) := s.gread req die ctx va n
  ({ t with l2 := t.l2.filter (fun x => (s.l2Find x.ctx x.line).isSome), rdc := s.rdc }, r)

/-- The bytes of an element that are at hand without sending for them: answered, filled in, in the scratchpad, or in global
memory. -/
def State.copyHere (s : State) (o : EngineOp) (c : CopyOp) (l : Layout) (e : Nat) : State × Option (List Byte) :=
  let a := l.srcAt e
  if !l.inLimits e then (s, some l.fillBytes)
  else if l.dir = 1 then
    (s, (recSpad ((s.groupAt o.group).getD .off) o.core a l.esize).map (s.spadGet · l.esize))
  else match mget c.got e, placeOf o.sel a with
    | some b, _ => (s, some b)
    | none, .mem va =>
        let (s, r) := s.gread o.causal o.die (s.opCtx o) va l.esize
        (s, r.toOption)
    | _, _ => (s, none)

/-- The bytes of several elements, if all are at hand. -/
def State.copyAll (s : State) (o : EngineOp) (c : CopyOp) (l : Layout) : List Nat → State × Option (List (Nat × List Byte))
  | [] => (s, some [])
  | e :: es =>
      match s.copyHere o c l e with
      | (s, none) => (s, none)
      | (s, some b) =>
          let (s, r) := s.copyAll o c l es
          (s, r.map ((e, b) :: ·))

/-- The elements of the next 128 from LOW that write the line of an element, unfinished and not superseded. -/
def CopyOp.lineMates (c : CopyOp) (l : Layout) (core e : Nat) : List Nat :=
  ((List.range 128).map (c.low + ·)).filter (fun k => k < l.total && !bit c.doneMap (k - c.low) && l.writes k &&
    !c.superseded l core k && (l.dstAt k).toNat / 128 == (l.dstAt e).toNat / 128)

/-- Elements cover the 128 bytes of their line, and 64 consecutive indices hold them all (R288). -/
def Layout.covers (l : Layout) (ks : List Nat) : Bool :=
  (ks.map (fun k => (l.dstAt k).toNat % 128)).eraseDups.length * l.esize == 128 && ks.getLastD 0 < ks.headD 0 + 64

/-- The write requests of a copy whose elements cover a line (R347): one element by itself, the whole line with the elements
whose bytes it holds, or not yet. -/
inductive LineWrite where
  | single
  | whole (bs : List (Nat × List Byte))
  | later
deriving DecidableEq, Repr

/-- How a copy writes the line of an element in global memory (R337, R347; log 75): where a write of the whole line differs
from writes of its parts and the copy's elements cover the line, they go together, as soon as all their bytes are at
hand and all lie in the window of 64. -/
def State.lineWrite (s : State) (o : EngineOp) (c : CopyOp) (l : Layout) (e : Nat) : State × LineWrite :=
  match placeOf o.sel (l.dstAt e) with
  | .mem va =>
      let ks := c.lineMates l o.core e
      let runs : Bool := match s.groupAt o.group with
        | some g => g.runs || g.state == .ending
        | none => false
      let other : LineWrite := if runs then .later else .single
      if !s.wantsWhole (s.opCtx o) (va / 128) || !l.covers ks then (s, .single)
      else if c.low + 64 ≤ ks.getLastD 0 then (s, other)
      else match s.copyAll o c l ks with
        | (s, some bs) => (s, .whole bs)
        | (s, none) => (s, other)
  | _ => (s, .single)

/-- Write a whole line with elements that cover it. -/
def State.linePut (s : State) (o : EngineOp) (c : CopyOp) (l : Layout) (e : Nat) (bs : List (Nat × List Byte)) : State :=
  let va := (l.dstAt e).toNat % 2 ^ 53 / 128 * 128
  let data := bs.foldl (fun d p => splice d ((l.dstAt p.1).toNat % 128) p.2) (List.replicate 128 0)
  let (s, r) := s.opWrite o va data c.nt
  match r with
  | .ok () =>
      bs.foldl (fun s p => (s.chimeAdd o.group 0 0 (va + (l.dstAt p.1).toNat % 128) p.2).elemDone o l p.1)
        (s.reached o va 128)
  | .error x => s.copyTry o e (x.try : Try Unit) (fun s _ => s)

/-- Write an element's bytes at its destination. -/
def State.copyPut (s : State) (o : EngineOp) (c : CopyOp) (l : Layout) (e : Nat) (b : List Byte) : State :=
  if c.superseded l o.core e then s.elemDone o l e
  else if l.dir = 0 then
    match recSpad ((s.groupAt o.group).getD .off) o.core (l.dstAt e) l.esize with
    | some x => (s.spadPut x b).elemDone o l e
    | none => s.failOp o 0x0709 (l.dstAt e) 0
  else
    match s.lineWrite o c l e with
    | (s, .single) =>
        let (s, t) := s.tryWrite o e (l.dstAt e) b c.nt
        s.copyTry o e t (fun s _ => s.elemDone o l e)
    | (s, .whole bs) => s.linePut o c l e bs
    | (s, .later) => s

/-- The bytes of an element's source, or what stands in the way. -/
def State.copyGet (s : State) (o : EngineOp) (c : CopyOp) (l : Layout) (e : Nat) : State × Try (List Byte) :=
  let a := l.srcAt e
  if l.dir = 1 then
    match recSpad ((s.groupAt o.group).getD .off) o.core a l.esize with
    | some x => (s, .ok (s.spadGet x l.esize))
    | none => (s, .fault 0x0709 a)
  else match mget c.got e with
    | some b => (s, .ok b)
    | none =>
        if c.peal.isSome then
          let line := (a.extractLsb' 7 46).toNat
          match mget c.fills line with
          | some d => (s, .ok ((d.drop (a.toNat % 128)).take l.esize))
          | none =>
              if a.extractLsb' 53 9 ≠ 0 then (s, .fault 0x0702 a)
              else if c.plain.contains line then
                let va := (a.extractLsb' 0 53).toNat
                let (s, r) := s.gread o.causal none (s.opCtx o) va l.esize
                let s := s.dropCopies o.die (s.opCtx o) [line]
                match r with
                | .ok b => (s.reached o va l.esize, .ok b)
                | .error e => (s, e.try)
              else (s, .hold)
        else if c.nt && l.dir == 0 then
          match placeOf o.sel a with
          | .mem va =>
              let (s, r) := s.greadNt o.causal o.die (s.opCtx o) va l.esize
              match r with
              | .ok b => (s.reached o va l.esize, .ok b)
              | .error e => (s, e.try)
          | _ => s.tryRead o e a l.esize
        else s.tryRead o e a l.esize

/-- Move one element, or send for it (R194). -/
def State.copyMove (s : State) (o : EngineOp) (c : CopyOp) (l : Layout) (e : Nat) : State :=
  if l.inLimits e then
    let (s, t) := s.copyGet o c l e
    s.copyTry o e t (fun s b => s.copyPut o c l e b)
  else if l.dir = 1 then s.elemDone o l e
  else s.copyPut o c l e l.fillBytes

/-- The element may be moved now: in the window of 64 from LOW, not moved and not under way, and no other element is on its way
to the same destination. -/
def CopyOp.open? (c : CopyOp) (l : Layout) (core e : Nat) : Bool :=
  c.low ≤ e && e < c.low + 64 && e < l.total && !bit c.doneMap (e - c.low) && !c.sent.contains e &&
    !c.sent.any (fun x => l.destAt core x == l.destAt core e)

/-- A BCOPYP's element has its line. -/
def CopyOp.lineHere (c : CopyOp) (l : Layout) (e : Nat) : Bool :=
  let a := l.srcAt e
  let line := (a.extractLsb' 7 46).toNat
  c.peal.isNone || !l.inLimits e || a.extractLsb' 53 9 != 0 || (mget c.fills line).isSome || c.plain.contains line

/-- A copy may read its record or move an element. While its group drains, only what is in flight goes on, and a record
that has not been read is captured, which the image needs (R288, R296). -/
def State.copyReady (s : State) (op elem : Nat) : Bool :=
  match s.opAt op with
  | none => false
  | some o =>
      match o.kind, o.state, s.groupAt o.group with
      | .copy c, .going, some g =>
          match c.recd with
          | none => elem == 0
          | some x =>
              match Layout.ofNat x with
              | none => false
              | some l =>
                  c.open? l o.core elem && c.lineHere l elem &&
                    (g.runs || g.state == .ending || (mget c.got elem).isSome)
      | _, _, _ => false

/-- COPY_ELEMENT (R194, R195): the engine reads a global record, or moves one element. -/
def execCopyElement (op elem : Nat) (s : State) : Out :=
  let s := s.unfocus
  gate "COPY_ELEMENT" (s.copyReady op elem) (
    match s.opAt op with
    | none => s
    | some o =>
        match o.kind with
        | .copy c =>
            match c.recd with
            | none => (s.copyRecord o c).1
            | some x =>
                match Layout.ofNat x with
                | some l => s.copyMove o c l elem
                | none => s
        | _ => s)

/-- Every element of a copy has been performed. -/
def CopyOp.allDone (c : CopyOp) : Bool :=
  match c.recd.bind Layout.ofNat with
  | some l => l.total ≤ c.low
  | none => false

/-- A copy has finished its elements, or is an empty operation that is the oldest of its class. -/
def State.copyEnds (s : State) (op : Nat) : Bool :=
  match s.opAt op with
  | none => false
  | some o =>
      o.cls == .bcopy &&
        (match o.kind, o.state with
         | .copy c, .going => c.allDone
         | .empty, .done => s.isFirst o
         | _, _ => false)

/-- BCOPY_COMPLETE (R194, R200): a copy finishes; a BCOPYP makes its arrival. -/
def execBcopyComplete (op : Nat) (s : State) : Out :=
  let s := s.unfocus
  gate "BCOPY_COMPLETE" (s.copyEnds op) (
    match s.opAt op with
    | none => s
    | some o =>
        let s := match o.kind with
          | .copy c =>
              match c.peal, o.bar with
              | some _, some addr =>
                  let part := ((s.groupAt o.group).map Group.part).getD 0
                  let (s, t) := s.barArrive addr part (s.opCtx o) o.causal
                  s.barRecord o addr t
              | _, _ => s
          | _ => s
        (s.modOp op (fun x => { x with state := .done })).settleOp o)

/-! ## Enrolment (R196, R197) -/

/-- A group's peal table entry. -/
def Group.peal (g : Group) (p : Nat) : Option PealDecl := g.peals.find? (fun d => d.peal == p)

/-- The peal-state trap of R196. -/
def State.pealRaise (s : State) (a : SSrc) : Option Raise :=
  if (s.grp.peal (s.ssrc a).toNat).isNone then some { code := 0x0401 } else none

/-- The cores enrolled in a peal. -/
def State.ringers (s : State) (ctx peal : Nat) : List Nat :=
  (s.enrols.filter (fun e => e.ctx == ctx && e.peal == peal)).map Enrol.core

/-- The peals in use on a die. -/
def State.pealsOn (s : State) (die : Nat) : List (Nat × Nat) :=
  ((s.enrols.filter (fun e => dieOf e.core == die)).map (fun e => (e.ctx, e.peal))).eraseDups

/-- The core can be enrolled by the group (R196). -/
def State.canEnrol (s : State) (g : Group) (d : PealDecl) (core : Nat) : Bool :=
  (s.ringers g.ctx d.peal).length < d.ringers && !(s.ringers g.ctx d.peal).contains core &&
    ((s.pealsOn (dieOf core)).length < 64 || (s.pealsOn (dieOf core)).contains (g.ctx, d.peal))

/-- Enrol a core for a group, when that is possible or it is enrolled already. -/
def State.enrol (s : State) (g : Group) (d : PealDecl) (core : Nat) : State × Bool :=
  if s.enrolled g.ctx d.peal core g.name then (s, true)
  else if s.canEnrol g d core then ({ s with enrols := s.enrols ++ [⟨g.ctx, d.peal, core, g.name⟩] }, true)
  else (s, false)

/-- PEALJOIN (R196). -/
def execPealjoin (d : SReg) (a : SSrc) (s : State) : Out :=
  .next (s.issueWith (.pealjoin d a) (fun _ => none) (fun s => s.pealRaise a) [] (fun s =>
    let p := (s.ssrc a).toNat
    let decl := (s.grp.peal p).getD ⟨p, 0, 0⟩
    let (s, ok) := s.enrol s.grp decl s.wave.core
    let n : Word := if ok then BitVec.ofNat 32 (s.ringers s.grp.ctx p).length else 0xFFFFFFFF#32
    (s.sset d n).nextPc (.pealjoin d a)))

/-- PEALLEAVE (R196, R198). -/
def execPealleave (d : SReg) (a : SSrc) (s : State) : Out :=
  .next (s.issueWith (.pealleave d a) (fun _ => none) (fun s => s.pealRaise a) [] (fun s =>
    let p := (s.ssrc a).toNat
    let e : Enrol := ⟨s.grp.ctx, p, s.wave.core, s.grp.name⟩
    let had := s.enrols.contains e
    let s := if had then s.endEnrol e else s
    let n : Word := if had then BitVec.ofNat 32 (s.ringers s.grp.ctx p).length else 0xFFFFFFFF#32
    (s.sset d n).nextPc (.pealleave d a)))

/-- PEALQ (R197). -/
def execPealq (d : SReg) (a : SSrc) (s : State) : Out :=
  .next (s.issueWith (.pealq d a) (fun _ => none) (fun s => s.pealRaise a) [] (fun s =>
    let p := (s.ssrc a).toNat
    let decl := (s.grp.peal p).getD ⟨p, 0, 0⟩
    let member := s.enrolled s.grp.ctx p s.wave.core s.grp.name
    let x := b2n member * 2 ^ 16 + (s.ringers s.grp.ctx p).length * 2 ^ 8 + decl.ringers
    (s.sset d (BitVec.ofNat 32 x)).nextPc (.pealq d a)))

/-! ## Holds (R199, R272, R341) -/

/-- The L2 slice of a line, numbered over the package. -/
def State.sliceAt (s : State) (ctx line : Nat) : Nat := 16 * s.homeDie ctx line + s.sliceOf ctx line

/-- The unit of an L2 slice. -/
def sliceUnit (slice : Nat) : Nat := unitDie (slice / 16) (slice % 16)

/-- Every ringer of the expected set has asked. -/
def Hold.full (h : Hold) : Bool := h.expect.all (fun c => h.asked.any (fun a => a.core == c))

/-- The expected cores that have not asked. -/
def Hold.missing (h : Hold) : List Nat := h.expect.filter (fun c => !h.asked.any (fun a => a.core == c))

/-- A copy receives a line of a fill; its die keeps no older copy of it (R265). -/
def State.fillOp (s : State) (line : Nat) (data : List Byte) (op : Nat) : State :=
  let s := match s.opAt op with
    | some o => (s.dropCopies o.die (s.opCtx o) [line]).reached o (line * 128) 128
    | none => s
  s.modCopy op (fun c => { c with asked := c.asked.filter (· != line), fills := mset c.fills line data })

/-- The residual entries in use at a router's data plane (R356). -/
def State.residuals (s : State) (place : Nat) : Nat := (s.resid.filter (fun r => r.place == place && !r.whole)).length

/-- A multicast flit at the router and data plane where it forks (R356): a copy to each free branch, and a residual entry for
the others; with all four entries in use it waits whole. -/
def State.fork (s : State) (part place line : Nat) (data : List Byte) (ops : List Nat) : State :=
  let busy := ops.filter (fun n => Config.branchBusy s.oracle n)
  let free := ops.filter (fun n => !Config.branchBusy s.oracle n)
  let s := { s with oracle := s.oracle + 1 }
  if !busy.isEmpty && 4 ≤ s.residuals place then
    { s.fresh with resid := s.resid ++ [⟨s.names, part, place, true, line, data, ops⟩] }
  else
    let s := free.foldl (fun s n => s.fillOp line data n) s
    if busy.isEmpty then s else { s.fresh with resid := s.resid ++ [⟨s.names, part, place, false, line, data, busy⟩] }

/-- One multicast fill to the copies that asked (R272). -/
def State.multicast (s : State) (part line : Nat) (data : List Byte) (ops : List Nat) : State :=
  s.fork part (Config.forkAt s.oracle) line data ops

/-- The straggler watch's report of a hold that its timer completes (R199, R391). -/
def State.holdStragglers (s : State) (h : Hold) : State :=
  match h.missing with
  | [] => s
  | c :: cs =>
      let part := s.partOf h.ctx
      let u := sliceUnit h.slice
      let s := s.emitN part u 0x0501 h.causal h.first (2 + (cs.length + 1) * 2 ^ 8)
      let s := s.emitN part u 0x0502 h.causal h.first (cs.foldl min c)
      { s with lates := s.lates ++ [⟨h.ctx, h.peal, h.line, h.slice, h.missing, h.till, h.causal⟩] }

/-- The cores that have asked. -/
def Hold.askers (h : Hold) : List Nat := (h.asked.map Asked.core).eraseDups

/-- The event of a hold's completion, with the ringers that it serves (R377). -/
def State.holdDone (s : State) (h : Hold) (timer : Bool) : State :=
  s.emitN (s.partOf h.ctx) (sliceUnit h.slice) 0x0405 h.causal h.first (h.askers.length + b2n timer * 2 ^ 8)

/-- What a failed fill of a hold does to a copy that asked (R200): it fails with the hold's identifier, or parks, and asks again
later. One that has ended or is parked stays as it is. -/
def State.fillFails (s : State) (h : Hold) (e : MemFail) (n : Nat) : State :=
  let s := s.modCopy n (fun c => { c with asked := c.asked.filter (· != h.line) })
  match s.opAt n with
  | none => s
  | some o =>
      if o.state != .going then s
      else match (e.try : Try Unit) with
        | .absent page => s.parkOp o page o.lead
        | .fault code a => (s.modOp n (fun o => { o with causal := h.causal })).failOp { o with causal := h.causal } code a 0
        | _ => s

/-- Complete a hold (R199, R341): its line is read once; by its timer, stragglers are recorded, also where the line's page turns
out to be absent and the hold is dropped (log 92). -/
def State.holdComplete (s : State) (h : Hold) (timer : Bool) : State :=
  let part := s.partOf h.ctx
  let s := { s with holds := s.holds.filter (fun x => x.name != h.name) }
  let s := if timer then s.holdStragglers h else s
  let (s, r) := s.gread h.causal none h.ctx (h.line * 128) 128
  let ops := h.asked.map Asked.op
  match r with
  | .ok data =>
      (s.holdDone h timer).multicast part h.line data ops
  | .error e => ops.foldl (fun s n => s.fillFails h e n) (if e.err = .notPresent then s else s.holdDone h timer)

/-- The timer of a peal as the operation's group declares it, in units of device time (R74). -/
def State.pealTimer (s : State) (group peal : Nat) : Nat :=
  match (s.groupAt group).bind (fun g => g.peal peal) with
  | some d => d.timer * 4000
  | none => 0

/-- Note that a copy has asked for a line. -/
def State.askLine (s : State) (op line : Nat) : State := s.modCopy op (fun c => { c with asked := line :: c.asked })

/-- A peal request of a copy at the home slice (R199): first a late record that names the core, then an open hold; without
room for a hold it is counted (R351). A copy whose enrolment has ended asks for an ordinary fill (R198). -/
def State.pealAsk (s : State) (o : EngineOp) (peal line : Nat) (left : Bool) : State :=
  let ctx := s.opCtx o
  let part := s.partOf ctx
  let slice := s.sliceAt ctx line
  let key (c p l : Nat) : Bool := c == ctx && p == peal && l == line
  let plain (s : State) : State := s.modOp o.name (EngineOp.plainLine line)
  if left || !s.enrolled ctx peal o.core o.group then plain s
  else match s.lates.find? (fun l => key l.ctx l.peal l.line && l.cores.contains o.core) with
    | some l =>
        let us := min ((s.time - l.till) / 16000) 0xFFFFFFFF
        let s := s.emitN part (sliceUnit slice) 0x0503 o.causal l.causal us
        let left := lmod (· == l) (fun l => { l with cores := l.cores.filter (· != o.core) }) s.lates
        plain { s with lates := left.filter (fun l => !l.cores.isEmpty) }
    | none =>
        match s.holds.find? (fun h => key h.ctx h.peal h.line) with
        | some h =>
            let h : Hold := { h with asked := h.asked ++ [Asked.mk o.core o.name] }
            let s := { s.askLine o.name line with holds := lmod (fun x => x.name == h.name) (fun _ => h) s.holds }
            if h.full then s.holdComplete h false else s
        | none =>
            let used := (s.holds.filter (fun h => h.slice == slice)).length
            let lates := s.lates.filter (fun l => l.slice == slice)
            if used = 256 then
              plain ((s.emitN part (sliceUnit slice) 0x0406 o.causal (s.startOf o.group) peal).modDie (slice / 16) (fun d =>
                { d with holdOvf := satInc 32 d.holdOvf }))
            else
              let s := if used + lates.length < 256 then s
                else match lates with
                  | l :: _ => { s with lates := s.lates.erase l }
                  | [] => s
              let id := s.nextId (sliceUnit slice)
              let expect := s.ringers ctx peal
              let h : Hold := ⟨s.names, ctx, peal, line, slice, expect, [Asked.mk o.core o.name], s.time,
                s.time + s.pealTimer o.group peal, id, o.causal⟩
              let s := ((s.bumpId (sliceUnit slice)).fresh.askLine o.name line)
              let s := { s with holds := s.holds ++ [h] }
              let s := s.emitN part (sliceUnit slice) 0x0404 id o.causal (peal + expect.length * 2 ^ 8)
              if h.full then s.holdComplete h false else s

/-- The line is one that a BCOPYP needs now and has not asked for. -/
def CopyOp.needs (c : CopyOp) (l : Layout) (core line : Nat) : Bool :=
  !c.asked.contains line && !c.plain.contains line && (mget c.fills line).isNone &&
    (List.range 64).any (fun k => c.open? l core (c.low + k) && l.inLimits (c.low + k) &&
      (l.srcAt (c.low + k)).extractLsb' 53 9 == 0 && ((l.srcAt (c.low + k)).extractLsb' 7 46).toNat == line)

/-- A copy may send a peal request for a line. -/
def State.pealReady (s : State) (op line : Nat) : Bool :=
  match s.opAt op with
  | none => false
  | some o =>
      match o.kind, o.state, s.groupAt o.group with
      | .copy c, .going, some g =>
          c.peal.isSome && (g.runs || g.state == .ending) &&
            (match c.recd.bind Layout.ofNat with
             | some l => c.needs l o.core line
             | none => false)
      | _, _, _ => false

/-- PEAL_REQUEST (R199): a copy's request for a line reaches its home slice. -/
def execPealRequest (op line : Nat) (s : State) : Out :=
  let s := s.unfocus
  gate "PEAL_REQUEST" (s.pealReady op line) (
    match s.opAt op with
    | none => s
    | some o =>
        match o.kind with
        | .copy c => s.pealAsk o (c.peal.getD 0) line c.left
        | _ => s)

/-- A hold by its name. -/
def State.holdAt (s : State) (n : Nat) : Option Hold := s.holds.find? (fun h => h.name == n)

/-- PEAL_HOLD_TIMEOUT (R199): the timer of a hold expires and it completes. A hold whose remaining ringers have all asked
after an enrolment ended (R198) completes here too, by arrivals. -/
def execPealHoldTimeout (hold : Nat) (s : State) : Out :=
  let s := s.unfocus
  gate "PEAL_HOLD_TIMEOUT" (match s.holdAt hold with
    | some h => h.full || h.till ≤ s.time
    | none => false) (
    match s.holdAt hold with
    | some h => s.holdComplete h (!h.full)
    | none => s)

/-- MULTICAST_RESIDUAL (R356): a residual entry is granted a remaining port and forks a copy to one ringer; or a flit that
waits whole tries to fork again. -/
def execMulticastResidual (n : Nat) (s : State) : Out :=
  let s := s.unfocus
  gate "MULTICAST_RESIDUAL" (s.resid.any (fun r => r.name == n)) (
    match s.resid.find? (fun r => r.name == n) with
    | none => s
    | some r =>
        if r.whole then { s with resid := s.resid.filter (fun x => x.name != n) }.fork r.part r.place r.line r.data r.ops
        else match r.ops with
        | [] => { s with resid := s.resid.filter (fun x => x.name != n) }
        | o :: rest =>
            let s := s.fillOp r.line r.data o
            if rest.isEmpty then { s with resid := s.resid.filter (fun x => x.name != n) }
            else { s with resid := lmod (fun x => x.name == n) (fun x => { x with ops := rest }) s.resid })

end Sys2Proof.Machine
end

