-- ==== Sys2Proof/Machine/Gather.lean ====
section
/-!
DEFINITION. Sys2Proof/Machine/Gather.lean: gathers and scatters (R201), global atomics (R202), GCHUNK (R203) and WINSEL
(R207).
-/

namespace Sys2Proof.Machine

/-! ## Issue (R201, R202) -/

/-- Bytes of a gather element. -/
def GSize.bytes : GSize → Nat
  | .b8 => 1
  | .b16 => 2
  | .b32 => 4
  | .b64 => 8
  | .b128 => 16

/-- The 64-bit engine address of every lane. -/
def State.engineAddrs (s : State) (a : VReg) : List Dword := (List.range 64).map (s.laneAddr a)

/-- The engine-alignment trap of the active lanes (R201, R202). -/
def State.engineRaise (s : State) (ea : List Dword) (n : Nat) : Option Raise :=
  let bad := maskOf (fun i => bit s.exec i && (ea.getD i 0).toNat % n != 0)
  if bad = 0 then none
  else some { code := 0x0303, addr := ((lowest bad).map (fun i => ea.getD i 0)).getD 0, maskA := bad }

/-- The checks of GATHER and SCATTER (R201, R278). -/
def State.gatherRaise (s : State) (n : Nat) (a : VReg) (b : VSrc) : Option Raise :=
  match s.engineRaise (s.engineAddrs a) n with
  | some r => some r
  | none => s.laneRaise none (s.vsrc b) n

/-- Start a gather or scatter; a scatter reads its sources now. One without lanes has nothing left to do. -/
def State.startGather (s : State) (scatter : Bool) (z : GSize) (nt : Bool) (a : VReg) (b : VSrc) : State :=
  let n := GSize.bytes z
  let sa := (List.range 64).map (lane (s.vsrc b))
  let data := if scatter then sa.mapIdx (fun i x => if bit s.exec i then s.spadLoad x n else []) else []
  s.startOp .gather (.gather {
    scatter := scatter, size := n, nt := nt, ea := s.engineAddrs a, sa := sa, data := data, notDone := s.exec
    sent := 0, lanes := s.exec })

/-- GATHER (R201). -/
def execGather (z : GSize) (a : VReg) (b : VSrc) (s : State) : Out :=
  .next (s.engineIssue (.gather z a b) .gather (fun _ => none) (fun s => s.gatherRaise (GSize.bytes z) a b)
    (fun s => s.startGather false z false a b))

/-- SCATTER (R201). -/
def execScatter (z : GSize) (nt : Bool) (a : VReg) (b : VSrc) (s : State) : Out :=
  .next (s.engineIssue (.scatter z nt a b) .gather (fun _ => none) (fun s => s.gatherRaise (GSize.bytes z) a b)
    (fun s => s.startGather true z nt a b))

/-- A 64-bit operand of GATOM in a lane, from the register k places into VB. -/
def State.atomOperand (s : State) (b : VSrc) (w64 : Bool) (k i : Nat) : Dword :=
  match b with
  | .lit x => x.setWidth 64
  | .reg r =>
      let lo := lane (s.vget (vplus r k)) i
      if w64 then pairOf lo (lane (s.vget (vplus r (k + 1))) i) else lo.setWidth 64

/-- Start a global atomic. -/
def State.startGatom (s : State) (op : AtomOp) (o : Ord) (c : Scope) (ret w64 : Bool) (a : VReg) (b : VSrc) : State :=
  if s.exec = 0 then s.startOp .gatom .empty
  else
    let second := if w64 then 2 else 1
    s.startOp .gatom (.gatom {
      op := op, ord := o, scope := c, ret := ret, w64 := w64, ea := s.engineAddrs a
      b := (List.range 64).map (s.atomOperand b w64 0)
      c := if op == .cas then (List.range 64).map (s.atomOperand b w64 second) else []
      old := List.replicate 64 0, notDone := s.exec, sent := 0, lanes := s.exec, frame := s.frameKey
      reg := match b with
        | .reg r => r
        | .lit _ => .a 0 })

/-- GATOM (R202). -/
def execGatom (op : AtomOp) (o : Ord) (c : Scope) (ret w64 : Bool) (a : VReg) (b : VSrc) (s : State) : Out :=
  .next (s.engineIssue (.gatom op o c ret w64 a b) .gatom (fun _ => none)
    (fun s => s.engineRaise (s.engineAddrs a) (if w64 then 8 else 4)) (fun s => s.startGatom op o c ret w64 a b))

/-! ## Lanes of a gather or scatter (R190, R201) -/

/-- Change the gather of an operation. -/
def State.modGather (s : State) (n : Nat) (f : GatherOp → GatherOp) : State :=
  s.modOp n (fun o => match o.kind with
    | .gather g => { o with kind := .gather (f g) }
    | _ => o)

/-- A higher lane with the same destination, among those that satisfy a test (R201). -/
def GatherOp.covered (g : GatherOp) (core i : Nat) (p : Nat → Bool) : Bool :=
  (List.range 64).any (fun j => i < j && bit g.lanes j && p j &&
    (if g.scatter then g.ea.getD j 0 == g.ea.getD i 0 else rawSpad core (g.sa.getD j 0) == rawSpad core (g.sa.getD i 0)))

/-- A SCATTER's lane behind a window waits while a higher lane with its destination is not performed, and none is: that one's
bytes are to stand there (R201). -/
def GatherOp.waits (g : GatherOp) (core i : Nat) : Bool :=
  g.scatter && (g.ea.getD i 0).extractLsb' 62 2 == 1 && g.covered core i (fun j => bit g.notDone j) &&
    !g.covered core i (fun j => !bit g.notDone j)

/-- A lane is neither performed nor sent, and waits for no other. -/
def GatherOp.canTry (g : GatherOp) (core i : Nat) : Bool := bit g.notDone i && !bit g.sent i && !g.waits core i

/-- A lane has been performed. -/
def GatherOp.mark (g : GatherOp) (i : Nat) : GatherOp :=
  { g with notDone := g.notDone &&& ~~~(laneBit i), sent := g.sent &&& ~~~(laneBit i) }

/-- A lane of a gather receives its bytes: written unless a higher lane has written there. -/
def State.gatherLand (s : State) (core op : Nat) (g : GatherOp) (i : Nat) (b : List Byte) : State :=
  let s := if g.covered core i (fun j => !bit g.notDone j) then s else s.spadPut (rawSpad core (g.sa.getD i 0)) b
  s.modGather op (fun g => g.mark i)

/-- The lanes of a scatter that write the line of a lane, without those that a higher lane covers. -/
def GatherOp.lineMates (g : GatherOp) (core i : Nat) : List Nat :=
  (List.range 64).filter (fun j => bit g.notDone j && (g.ea.getD j 0).toNat / 128 == (g.ea.getD i 0).toNat / 128 &&
    !g.covered core j (fun _ => true))

/-- The lanes of a scatter cover the line, and a write of the whole line differs from writes of its parts (R337, R347). -/
def State.scatterWhole (s : State) (o : EngineOp) (g : GatherOp) (i : Nat) : Bool :=
  match placeOf o.sel (g.ea.getD i 0) with
  | .mem va =>
      s.wantsWhole (s.opCtx o) (va / 128) &&
        ((g.lineMates o.core i).map (fun j => (g.ea.getD j 0).toNat % 128)).eraseDups.length * g.size == 128
  | _ => false

/-- Write a whole line with the lanes that cover it. -/
def State.scatterLine (s : State) (o : EngineOp) (g : GatherOp) (i : Nat) : State × Try Unit :=
  let js := g.lineMates o.core i
  let va := (g.ea.getD i 0).toNat / 128 * 128
  let data := js.foldl (fun d j => splice d ((g.ea.getD j 0).toNat % 128) (g.data.getD j [])) (List.replicate 128 0)
  let (s, r) := s.opWrite o va data g.nt
  match r with
  | .ok () =>
      (js.foldl (fun s j => (s.chimeAdd o.group 0 0 (g.ea.getD j 0).toNat (g.data.getD j [])).modGather o.name (fun g => g.mark j))
        (s.reached o va 128), .ok ())
  | .error e => (s, e.try)

/-- Try one lane. -/
def State.gatherLane (s : State) (o : EngineOp) (g : GatherOp) (i : Nat) : State × Try Unit :=
  let a := g.ea.getD i 0
  if a.extractLsb' 62 2 = 2 && a.extractLsb' 53 9 = 0 then (s, .fault 0x0707 a)
  else if g.scatter then
    if g.covered o.core i (fun j => !bit g.notDone j) then (s.modGather o.name (fun g => g.mark i), .ok ())
    else if s.scatterWhole o g i then s.scatterLine o g i
    else
      let (s, t) := s.tryWrite o i a (g.data.getD i []) g.nt
      match t with
      | .ok () => (s.modGather o.name (fun g => g.mark i), .ok ())
      | t => (s, t)
  else
    let (s, t) := s.tryRead o i a g.size
    match t with
    | .ok b => (s.gatherLand o.core o.name g i b, .ok ())
    | .sent => (s, .sent)
    | .absent p => (s, .absent p)
    | .fault c x => (s, .fault c x)
    | .hold => (s, .hold)

/-- What a pass over the lanes of an operation has met: the first absent page, or a fatal failure. -/
structure PassEnd where
  page : Option Nat := none
  fail : Option (Nat × Dword) := none
deriving DecidableEq, Repr

/-- Try the lanes that may be tried, in rising order. A lane whose page is absent is left; a fatal failure ends the pass. -/
def State.gatherPass (s : State) (op : Nat) : List Nat → PassEnd → State × PassEnd
  | [], e => (s, e)
  | i :: is, e =>
      match s.opAt op with
      | none => (s, e)
      | some o =>
          match o.kind with
          | .gather g =>
              if !g.canTry o.core i then s.gatherPass op is e
              else
                let (s, t) := s.gatherLane o g i
                match t with
                | .ok () => s.gatherPass op is e
                | .sent => (s.modGather op (fun g => { g with sent := g.sent ||| laneBit i })).gatherPass op is e
                | .absent p => s.gatherPass op is { e with page := some (e.page.getD p) }
                | .fault c a => (s, { e with fail := some (c, a) })
                | .hold => (s, e)
          | _ => (s, e)

/-- End a pass over lanes: a failure, a park, completion, or a wait for answers. `undone`: the lanes not done. -/
def State.passEnd (s : State) (o : EngineOp) (undone : Dword) (e : PassEnd) : State :=
  match e.fail, e.page with
  | some (c, a), _ => s.failOp o c a 0
  | none, some p => s.parkOp o p undone
  | none, none => if undone = 0 then (s.modOp o.name (fun x => { x with state := .done })).settleOp o else s

/-- The group's engines may start on lanes: it runs, or ends. While it drains only what is under way goes on (R288). -/
def State.engineFree (s : State) (o : EngineOp) : Bool :=
  match s.groupAt o.group with
  | some g => g.runs || g.state == .ending
  | none => false

/-- A gather may perform lanes or finish. -/
def State.gatherReady (s : State) (op : Nat) : Bool :=
  match s.opAt op with
  | none => false
  | some o =>
      o.cls == .gather &&
        (match o.kind, o.state with
         | .gather g, .going => g.notDone == 0 || (s.engineFree o && (List.range 64).any (g.canTry o.core))
         | _, _ => false)

/-- The lanes of a gather that are not done. -/
def State.gatherUndone (s : State) (op : Nat) : Dword :=
  match (s.opAt op).map EngineOp.kind with
  | some (.gather g) => g.notDone
  | _ => 0

/-- GATHER_COMPLETE (R190, R201): the engine performs the lanes that are left, and completes, parks or fails. -/
def execGatherComplete (op : Nat) (s : State) : Out :=
  let s := s.unfocus
  gate "GATHER_COMPLETE" (s.gatherReady op) (
    match s.opAt op with
    | none => s
    | some o =>
        match o.kind with
        | .gather _ =>
            let (s, e) := s.gatherPass op (List.range 64) {}
            let u := s.gatherUndone op
            s.passEnd o u e
        | _ => s.settleOp o)

/-! ## Lanes of a global atomic (R202) -/

/-- Change the atomic of an operation. -/
def State.modGatom (s : State) (n : Nat) (f : GatomOp → GatomOp) : State :=
  s.modOp n (fun o => match o.kind with
    | .gatom g => { o with kind := .gatom (f g) }
    | _ => o)

/-- Bytes of an atomic's operand. -/
def GatomOp.bytes (g : GatomOp) : Nat := if g.w64 then 8 else 4

/-- The new value and flags of a lane for an old value. -/
def GatomOp.apply (g : GatomOp) (i : Nat) (old : Dword) : Dword × BitVec 6 :=
  atomNew g.op g.w64 old (g.b.getD i 0) (g.c.getD i 0)

/-- A lane has been performed with an old value: the value is kept, and its flags wait for the counter (R202). -/
def State.gatomLand (s : State) (op : Nat) (g : GatomOp) (i : Nat) (old : Dword) : State :=
  (s.modGatom op (fun g => { g with
    old := g.old.set i old, notDone := g.notDone &&& ~~~(laneBit i), sent := g.sent &&& ~~~(laneBit i) })).modOp op
    (fun o => { o with flags := o.flags ||| (g.apply i old).2 })

/-- A window lane has been performed: without RET the old value is a free one, from which flags and digest follow. -/
def State.gatomRemote (s : State) (o : EngineOp) (g : GatomOp) (i off : Nat) (old : Option Dword) : State :=
  let free : Dword := pairOf (Config.freeWord s.oracle) (if g.w64 then Config.freeWord (s.oracle + 1) else 0)
  let x := old.getD free
  let s := if old.isSome then s else { s with oracle := s.oracle + 2 }
  (s.gatomLand o.name g i x).chimeAdd o.group 1 o.sel.toNat off (leBytes g.bytes (g.apply i x).1.toNat)

/-- The ordering class of an atomic's packets (R363): a release of its own or that of a FENCE before it (R270) is class 2. -/
def EngineOp.atomCls (o : EngineOp) (ord : Ord) : Nat := if releases ord || o.fenced.isSome then 2 else 1

/-- The release part of an atomic (R269), its own or that of a FENCE before it (R270): at `.device` or wider, what the wave wrote
before has been performed. -/
def State.atomRelease (s : State) (o : EngineOp) (g : GatomOp) : State :=
  if releases g.ord && Scope.wide g.scope then s.applyNotices else s.fenceFirst o

/-- Try one lane. -/
def State.gatomLane (s : State) (o : EngineOp) (g : GatomOp) (i : Nat) : State × Try Unit :=
  let ctx := s.opCtx o
  let a := g.ea.getD i 0
  match placeOf o.sel a with
  | .bad => (s, .fault 0x0702 a)
  | .mem va =>
      let step (b : List Byte) : List Byte := leBytes g.bytes (g.apply i (leDword b)).1.toNat
      let (s, r) := (s.atomRelease o g).gatomic o.causal o.die ctx va g.bytes step .ermw
      match r with
      | .error e => (s, e.try)
      | .ok b => (((s.reached o va g.bytes).gatomLand o.name g i (leDword b)).chimeAdd o.group 0 0 va (step b), .ok ())
  | .window off =>
      match s.winTry o off g.bytes .at_ with
      | .error none => (s, .hold)
      | .error (some c) => (s, .fault c a)
      | .ok e =>
          let s := s.atomRelease o g
          let cls := o.atomCls g.ord
          if cls = 2 && !s.releasable ctx e.device then (s, .hold)
          else
            let bytes := leBytes g.bytes (g.b.getD i 0).toNat ++
              (if g.op == .cas then leBytes g.bytes (g.c.getD i 0).toNat else [])
            (s.sendWindow ctx o.sel.toNat o.causal o.name i e off
              { kind := .atomReq, cls := cls, op := g.op, w64 := g.w64, ret := g.ret, len := bytes.length, payload := bytes },
              .sent)
  | .host off =>
      if g.op != .add || !g.w64 then (s, .fault 0x0707 a)
      else match s.hostCheck ctx off 8 .at_ with
        | .error c => (s, .fault c a)
        | .ok e =>
            ((s.atomRelease o g).hostSend (.op o.name i a) (s.partOf ctx) e.qp 2 (e.va + BitVec.ofNat 64 (off % 2 ^ 40)) e.rkey 8
              (leBytes 8 (g.b.getD i 0).toNat) 0, .sent)

/-- Try the lanes that are neither done nor sent, in rising order; a release that must wait holds back the lanes after
it. -/
def State.gatomPass (s : State) (op : Nat) : List Nat → PassEnd → State × PassEnd
  | [], e => (s, e)
  | i :: is, e =>
      match s.opAt op with
      | none => (s, e)
      | some o =>
          match o.kind with
          | .gatom g =>
              if !bit g.notDone i || bit g.sent i then s.gatomPass op is e
              else
                let (s, t) := s.gatomLane o g i
                match t with
                | .ok () => s.gatomPass op is e
                | .sent => (s.modGatom op (fun g => { g with sent := g.sent ||| laneBit i })).gatomPass op is e
                | .absent p => s.gatomPass op is { e with page := some (e.page.getD p) }
                | .fault c a => (s, { e with fail := some (c, a) })
                | .hold => (s, e)
          | _ => (s, e)

/-- The lanes of an atomic that are not done. -/
def State.gatomUndone (s : State) (op : Nat) : Dword :=
  match (s.opAt op).map EngineOp.kind with
  | some (.gatom g) => g.notDone
  | _ => 0

/-- An atomic may perform lanes or finish: also while its group drains (R191). -/
def State.gatomReady (s : State) (op : Nat) : Bool :=
  match s.opAt op with
  | none => false
  | some o =>
      o.cls == .gatom &&
        (match o.kind, o.state with
         | .gatom g, .going => g.notDone == 0 || (g.notDone &&& ~~~g.sent) != 0
         | .empty, .done => s.isFirst o
         | _, _ => false)

/-- GATOM_COMPLETE (R190, R202): the engine performs the lanes that are left, and completes, parks or fails. -/
def execGatomComplete (op : Nat) (s : State) : Out :=
  let s := s.unfocus
  gate "GATOM_COMPLETE" (s.gatomReady op) (
    match s.opAt op with
    | none => s
    | some o =>
        match o.kind with
        | .gatom g =>
            let (s, e) := s.gatomPass op (List.range 64) {}
            let u := s.gatomUndone op
            (if u = 0 then s.atomAcquire o g else s).passEnd o u e
        | _ => s.settleOp o)

/-! ## GCHUNK (R203, R327) -/

/-- GCHUNK (R203): a misaligned record faults precisely; its result is pending until it returns. -/
def execGchunk (d a : SPair) (s : State) : Out :=
  .next (s.engineIssue (.gchunk d a) .gatom (fun _ => none)
    (fun s => if (s.pget a).toNat % 64 = 0 then none else some { code := 0x0303, addr := s.pget a })
    (fun s => s.startOp .gatom (.gchunk { addr := s.pget a, sd := d, sent := false, res := none })))

/-- The chunk that a counter record gives: start, size and the record's new NEXT; `none` when a reserved byte is set. -/
def chunkOf (b : List Byte) : Option (Word × Word × Word) :=
  let w (k : Nat) : Nat := leNat ((b.drop (4 * k)).take 4)
  if (b.drop 16).any (· != 0) then none
  else
    let next := w 0
    let last := w 1
    let rem := if last ≤ next then 0 else last - next
    let div := max 1 (w 3)
    let size := min rem (max (max 1 (w 2)) ((rem + div - 1) / div))
    let start := if rem = 0 then last else next
    some (BitVec.ofNat 32 start, BitVec.ofNat 32 size, BitVec.ofNat 32 (if rem = 0 then next else start + size))

/-- Change the GCHUNK of an operation. -/
def State.modChunk (s : State) (n : Nat) (f : ChunkOp → ChunkOp) : State :=
  s.modOp n (fun o => match o.kind with
    | .gchunk g => { o with kind := .gchunk (f g) }
    | _ => o)

/-- A GCHUNK has its result and finishes. -/
def State.chunkLand (s : State) (o : EngineOp) (start size : Word) : State :=
  let s := s.modChunk o.name (fun g => { g with res := some (start, size) })
  (s.modOp o.name (fun x => { x with state := .done })).settleOp o

/-- Write bytes of a line that is served at the home channel: a copy in the home slice takes them (R339, log 68). -/
def State.chanPut (s : State) (x : L2Line) (off : Nat) (b : List Byte) : State :=
  let data := splice x.data off b
  let s := if (s.l2Find x.ctx x.line).isSome then s.l2Put { x with data := data, dirty := true }
    else s.channelWrite (s.dramOf x.ctx x.line x.phys) x.phys data false
  (s.breakLease x).wrote x.ctx x.line

/-- Serve a counter record in global memory for a party on a die: one read-modify-write at its home channel, also when nothing
is left. The write changes NEXT alone, and the die keeps no older copy of the line (R265). -/
def State.chunkServe (s : State) (die : Option Nat) (req : Dword) (ctx va : Nat) :
    State × Except (MemFail ⊕ Unit) (Word × Word × Option Word) :=
  let line := va / 128
  let (s, r) := s.chanLine req ctx line .ermw
  match r with
  | .error e => (s, .error (.inl ⟨e, va⟩))
  | .ok x =>
      match chunkOf ((x.data.drop (va % 128)).take 64) with
      | none => (s, .error (.inr ()))
      | some (start, size, next) =>
          let s := s.dropCopy die ctx line
          if size = 0 then (s, .ok (start, size, none))
          else (s.chanPut x (va % 128) (leBytes 4 next.toNat), .ok (start, size, some next))

/-- A GCHUNK that has not been served or sent. -/
def EngineOp.chunkWaits (o : EngineOp) : Bool :=
  match o.kind, o.state with
  | .gchunk g, .going => !g.sent
  | .gchunk g, .parked _ => !g.sent
  | _, _ => false

/-- The record address of a GCHUNK. -/
def EngineOp.chunkAddr (o : EngineOp) : Dword :=
  match o.kind with
  | .gchunk g => g.addr
  | _ => 0

/-- The record of a GCHUNK: its place, and the selector of one behind a window. -/
def EngineOp.chunkAt (o : EngineOp) : Place × Option (BitVec 16) :=
  let p := placeOf o.sel o.chunkAddr
  (p, match p with
    | .window _ => some o.sel
    | _ => none)

/-- A GCHUNK may be served or sent: the requests of one wave to a record arrive in issue order (R327). -/
def State.chunkReady (s : State) (op : Nat) : Bool :=
  match s.opAt op with
  | none => false
  | some o =>
      o.state == .going && o.chunkWaits &&
        !(s.ops.takeWhile (fun x => x.name != op)).any (fun x =>
          x.wave == o.wave && x.chunkWaits && x.chunkAt == o.chunkAt)

/-- GCHUNK_SERVE (R203, R327): the home channel serves the record, or the request goes to its window. -/
def execGchunkServe (op : Nat) (s : State) : Out :=
  let s := s.unfocus
  gate "GCHUNK_SERVE" (s.chunkReady op) (
    match s.opAt op with
    | none => s
    | some o =>
        match o.kind with
        | .gchunk g =>
            let ctx := s.opCtx o
            match placeOf o.sel g.addr with
            | .bad => s.failOp o 0x0702 g.addr 0
            | .host _ => s.failOp o 0x0707 g.addr 0
            | .mem va =>
                let (s, r) := (s.fenceFirst o).chunkServe o.die o.causal ctx va
                match r with
                | .ok (start, size, next) =>
                    let s := match next with
                      | some n => s.chimeAdd o.group 0 0 va (leBytes 4 n.toNat)
                      | none => s
                    s.chunkLand o start size
                | .error (.inr ()) => s.failOp o 0x0708 g.addr 0
                | .error (.inl e) =>
                    match (e.try : Try Unit) with
                    | .absent p => s.parkOp o p 0
                    | .fault c a => s.failOp o c a 0
                    | _ => s
            | .window off =>
                match s.winTry o off 64 .at_ with
                | .error none => s
                | .error (some c) => s.failOp o c g.addr 0
                | .ok e =>
                    let cls := o.atomCls .rlx
                    if cls = 2 && !s.releasable ctx e.device then s
                    else ((s.fenceFirst o).modChunk op (fun g => { g with sent := true })).sendWindow ctx o.sel.toNat o.causal op 0 e off
                      { kind := .atomReq, cls := cls, ret := true, len := 64, payload := List.replicate 64 0 }
        | _ => s)

/-! ## WINSEL (R207) -/

/-- WINSEL (R207): SD receives the old selector. -/
def execWinsel (d : SReg) (a : SSrc) (s : State) : Out :=
  .next (s.issue (.winsel d a) (fun s =>
    let x := s.ssrc a
    let t := s.sset d (s.wave.window.setWidth 32)
    { t with wave := { t.wave with window := x.setWidth 16 } }))

end Sys2Proof.Machine
end

