-- ==== Sys2Proof/Machine/Waits.lean ====
section
/-!
DEFINITION. Sys2Proof/Machine/Waits.lean: WAITCNT, DRAIN, FENCE and WAITADDR (R204 to R206, R270), the end of a sleep
(R131), the fairness timer (R129) and the straggler watch of barriers and frame waits (R390, R391).
-/

namespace Sys2Proof.Machine

/-! ## WAITCNT, DRAIN, FENCE -/

/-- WAITCNT (R205): passes at once, or parks until the counter is at most N. -/
def execWaitcnt (c : Cls) (n : BitVec 10) (s : State) : Out :=
  .next (s.issueWith (.waitcnt c n) (fun _ => none) (fun _ => none) [] (fun s =>
    if s.wave.count (clsIndex c) ≤ n.toNat then s.nextPc (.waitcnt c n)
    else (s.setSlot { s.slot with after := s.pc + 1 }).park (.count c n.toNat false)))

/-- The operation makes `.nt` writes and has not ended (R206): NT marks only the reads of a copy into the scratchpad (R194); a
record not read yet may say anything. -/
def EngineOp.drains (o : EngineOp) : Bool :=
  !o.ended &&
    (match o.kind with
     | .copy c => c.nt && ((c.recd.bind Layout.ofNat).map Layout.dir) != some 0
     | .gather g => g.nt
     | _ => false)

/-- DRAIN (R206, R273): stalls until every `.nt` write of the wave's earlier operations has been performed. -/
def execDrain (c : Scope) (s : State) : Out :=
  .next (s.issueHold (.drain c) (fun _ => none) (fun _ => none) []
    (fun s => if s.ops.any (fun o => o.wave == s.wave.name && o.drains) then some .order else none)
    (fun s => (if Scope.wide c then s.applyNotices else s).nextPc (.drain c)))

/-- The release part of a FENCE makes every later write of the wave carry a release at the scope (R270), or at the wider one of
an earlier FENCE (log 76). -/
def State.fence (s : State) (o : Ord) (c : Scope) : State :=
  if releases o then { s with wave := { s.wave with fenced := widest s.wave.fenced c } } else s

/-- FENCE (R270): the release part performs the wave's writes at the scope, the acquire part discards expired leases. -/
def execFence (o : Ord) (c : Scope) (s : State) : Out :=
  .next (s.issue (.fence o c) (fun s => ((s.release o c).acquire o c).fence o c))

/-! ## WAITADDR (R204) -/

/-- The condition of WAITADDR on the word w and the comparand b. -/
def waitHolds (k : WCond) (w b : Word) : Bool :=
  match k with
  | .eq => w == b
  | .ne => w != b
  | .lt => w.slt b
  | .le => w.sle b
  | .gt => b.slt w
  | .ge => b.sle w
  | .reached => !(w - b).msb

/-- The precise faults of the address itself, in the order of R278. -/
def State.waitRaise (s : State) (a : Dword) : Option Raise :=
  let space := (a.extractLsb' 62 2).toNat
  if a.extractLsb' 53 9 ≠ 0 || space == 3 || (space == 1 && s.wave.window == 0) then some { code := 0x0304, addr := a }
  else if space = 2 then some { code := 0x0305, addr := a }
  else if a.toNat % 4 ≠ 0 then some { code := 0x0303, addr := a }
  else none

/-- What a read of the word finds. -/
inductive WaitRead where
  | word (w : Word)
  | absent (va : Nat)
  | fault (code : Nat)
  | pending
deriving DecidableEq, Repr

/-- Read the word at the home of its line, or through the window: the first time, and after each answer that did not
satisfy the condition, a request is sent. The die keeps no older copy of the line (R265). -/
def State.waitRead (s : State) (q : WaitReq) : State × WaitRead :=
  match placeOf q.sel q.addr with
  | .mem va =>
      let (s, r) := s.gread q.id none s.grp.ctx va 4
      (s.dropCopies (some (dieOf s.wave.core)) s.grp.ctx [va / 128], match r with
        | .ok b => .word (leWord b)
        | .error e => match e.err with
          | .notPresent => .absent (pageOf e.va)
          | x => .fault x.code)
  | .window off =>
      match s.slot.stall with
      | .got _ 0 w => (s.setSlot { s.slot with stall := .no }, .word w)
      | .got _ code _ => (s.setSlot { s.slot with stall := .no }, .fault code)
      | .remote _ => (s, .pending)
      | _ =>
          match s.winCheck s.grp.ctx q.sel off 4 .rd with
          | .error c => (s, .fault c)
          | .ok e =>
              let s := (s.claimId q.id).setSlot { s.slot with stall := .remote q, waitId := q.id }
              (s.sendWindow s.grp.ctx q.sel.toNat q.id 0 (2 * s.wave.name + s.wave.cur) e off { kind := .readReq, len := 4 },
                .pending)
  | _ => (s, .fault 0x0702)

/-- Park a WAITADDR whole on an absent page: a record, unless it retries there (R190, R286). -/
def State.waitAbsent (s : State) (va : Nat) : State :=
  let page : Dword := BitVec.ofNat 64 va
  let again := s.slot.stall == .refetch page
  let s := s.setSlot { s.slot with stall := .page page }
  if again then s
  else
    let t : DelTrap := ⟨0x0701, s.wave.cur, s.pc, s.slot.waitId, 1, page, 0, 0, 0, false, 1, 0, false, s.time⟩
    let s := s.device (fun d => d.faultWrite s.issueUnit { s.trapRecord t false page 0 with parked := true })
    s.emitN s.grp.part s.issueUnit 0x0303 t.causal s.grp.start (bits va 43 13)

/-- No write to the awaited line is outstanding for the issuing fragment. -/
def State.unmark (s : State) : State := { s with evals := s.evals.filter (· != (s.wave.name, s.wave.cur)) }

/-- The first read of a WAITADDR that has issued with what it captured: it passes, parks, or traps. -/
def State.waitFirst (s : State) (i : Instr) (k : WCond) (c : Scope) (d : SReg) (q : WaitReq) : State :=
  let (t, r) := s.waitRead q
  let p (w : Word) : Park := .waitaddr q.addr k c q.cmp d q.sel w
  let counted (t : State) : State :=
    let t := t.tick
    t.setSlot { t.slot with after := t.pc + sizeWord i }
  match r with
  | .pending => t
  | .fault code => t.raiseAs i.words { code := code, addr := q.addr } q.id
  | .word w =>
      if waitHolds k w q.cmp then (t.tick.sset d w |>.acquire .acq c).nextPc i
      else ((counted t).unmark).parkAs (p w) q.id
  | .absent va => ((counted t).unmark.parkAs (p 0) q.id).waitAbsent va

/-- Issue a WAITADDR: what it needs is captured, and its first read begins (R188, R204). While the answer of a window is
awaited the instruction has issued. -/
def State.waitaddr (s : State) (i : Instr) (k : WCond) (c : Scope) (d : SReg) (a : SPair) (b : SSrc) : State :=
  match s.slot.stall with
  | .got q _ _ => s.waitFirst i k c d q
  | _ =>
      match s.check i (fun _ => none) (fun s => s.waitRaise (s.pget a)) [] with
      | .trap r => s.raise i.words r
      | .wait w => s.stallOn w
      | .go =>
          let q : WaitReq := ⟨s.pget a, s.wave.window, s.ssrc b, s.nextId s.issueUnit⟩
          s.waitFirst i k c d q

/-- WAITADDR (R204). -/
def execWaitaddr (k : WCond) (c : Scope) (d : SReg) (a : SPair) (b : SSrc) (s : State) : Out :=
  .next (s.waitaddr (.waitaddr k c d a b) k c d a b)

/-- Do something in a slot of the wave in focus, then let the slot that was CUR issue again if it can. -/
def State.inSlot (s : State) (k : Nat) (f : State → State) : State :=
  let old := s.wave.cur
  let s := f { s with wave := { s.wave with cur := k } }
  if (s.wave.slotAt old).valid then { s with wave := { s.wave with cur := old } } else s

/-- Evaluate the word of a parked WAITADDR again. -/
def State.waitEval (s : State) : State :=
  match s.slot.park with
  | .waitaddr a k c b d sel _ =>
      let id := s.slot.waitId
      let (t, r) := s.unmark.waitRead ⟨a, sel, b, id⟩
      match r with
      | .pending => t
      | .word w =>
          if waitHolds k w b then
            let t := (t.sset d w).acquire .acq c
            { t with wave := t.wave.wake t.wave.cur }
          else t.setSlot { t.slot with stall := .no, park := .waitaddr a k c b d sel w }
      | .absent va => t.waitAbsent va
      | .fault code =>
          let words := (t.slot.after - t.slot.pc).toNat
          (t.setSlot { t.slot with park := .no, stall := .no }).raiseAs words { code := code, addr := a } id
  | _ => s

/-- A parked WAITADDR is evaluated after a write to its line, when it retries, and through a window after every answer: its
group runs, and it waits neither for a page nor for an answer (R204). A trap that is caught waits for the pending writes of
the frames it frees. -/
def State.waitReady (s : State) : Bool :=
  s.grp.runs && s.slot.valid && !s.framePending (s.wave.unwoundKeys s.wave.cur) &&
    (match s.slot.park, s.slot.stall with
     | .waitaddr _ _ _ _ _ _ _, .page _ => false
     | .waitaddr _ _ _ _ _ _ _, .remote _ => false
     | .waitaddr a _ _ _ _ _ _, x =>
         x != .no || a.extractLsb' 62 2 != 0 || s.evals.contains (s.wave.name, s.wave.cur)
     | _, _ => false)

/-- WAITADDR_EVALUATION (R204): a write to the awaited line evaluates the condition again. -/
def execWaitaddrEvaluation (wave slot : Nat) (s : State) : Out :=
  let s := s.unfocus.focus wave
  gate "WAITADDR_EVALUATION"
    (s.wave.name == wave && wave != 0 && slot < 2 && { s with wave := { s.wave with cur := slot } }.waitReady)
    (s.inSlot slot State.waitEval)

/-! ## The end of a sleep (R131) and the fairness timer (R129) -/

/-- SLEEPC_WAKE (R131): the cycles of a SLEEPC have passed. -/
def execSleepcWake (wave slot : Nat) (s : State) : Out :=
  let s := s.unfocus.focus wave
  gate "SLEEPC_WAKE" (s.wave.name == wave && wave != 0 && slot < 2 &&
    (match (s.wave.slotAt slot).park with
     | .sleep till => (s.wave.slotAt slot).valid && till ≤ s.cycles.toNat
     | _ => false))
    { s with wave := s.wave.setSlotAt slot { s.wave.slotAt slot with park := .no } }

/-- The timer of the wave in focus runs (R129), while its group does (log 90). -/
def State.timerRuns (s : State) : Bool :=
  s.grp.runs && !s.grp.ordered && s.ctxNat (fun c => b2n c.promise) == 1 && s.wave.life == .running &&
    s.wave.slot0.ready && s.wave.slot1.ready

/-- FAIRNESS_ROTATION (R129): FTIMER reaches the context's interval, and the fragments rotate. -/
def execFairnessRotation (wave : Nat) (s : State) : Out :=
  let s := s.unfocus.focus wave
  gate "FAIRNESS_ROTATION"
    (s.wave.name == wave && wave != 0 && s.timerRuns && s.ctxNat Ctx.fairness ≤ s.wave.ftimer)
    { s with wave := s.wave.rotate }

/-! ## The straggler watch (R390, R391) -/

/-- The expiry events of a watched subject: participants late, then the first of them. -/
def State.watchEvents (s : State) (w : Watch) (part unit late first : Nat) (parent : Dword) : State :=
  let s := s.emitN part unit 0x0501 w.causal w.parent (w.kind + min late (2 ^ 24 - 1) * 2 ^ 8)
  s.emitN part unit 0x0502 w.causal parent first

/-- Engine operations in flight that name an object. -/
def State.opsOn (s : State) (addr : Nat) : List EngineOp := s.ops.filter (fun o => o.bar == some addr)

/-- The waves of the group that holds an object that have not arrived in its generation. -/
def State.notArrived (s : State) (addr group : Nat) : List Nat :=
  let n := ((s.groupAt group).map Group.waves).getD 0
  (List.range n).filter (fun i => !(s.track addr).arrived.contains i)

/-- A barrier's deadline passes: a tracked object names the lowest wave not arrived, any other the oldest operation. The waves
that have not arrived and the operations outstanding on the object are watched until they arrive. -/
def State.barExpire (s : State) (w : Watch) : State × Watch :=
  let part := s.partOf w.ctx
  let unit := barUnit w.subject
  let waves := s.notArrived w.subject w.sub2
  let ops := s.opsOn w.subject
  let w' := { w with expired := true, late := waves, lateOps := ops.map EngineOp.name }
  let n := waves.length + ops.length
  match (if (s.track w.subject).tracked then waves else []) with
  | i :: _ => (s.watchEvents w part unit n i w.parent, w')
  | [] => (s.watchEvents w part unit n (2 ^ 31) ((ops.head?.map EngineOp.causal).getD 0), w')

/-- A frame wait's deadline passes. -/
def State.frameExpire (s : State) (w : Watch) : State × Watch :=
  match s.waveAt w.subject with
  | none => (s, { w with expired := true })
  | some x =>
      let head := ((s.frameHead x.core).bind (fun h => s.waveAt h.wave)).map Wave.index
      (s.watchEvents w (s.partOf w.ctx) (unitCore x.core 0) 1 (x.index + head.getD 0 * 2 ^ 8) w.parent, { w with expired := true })

/-- WATCH_EXPIRED (R390, R391): a watched subject's deadline passes; `n` is its place among the watches. -/
def execWatchExpired (n : Nat) (s : State) : Out :=
  let s := s.unfocus
  match s.watches[n]? with
  | none => .refused (.notEnabled "WATCH_EXPIRED")
  | some w =>
      gate "WATCH_EXPIRED" (!w.expired && w.till ≤ s.time) (
        let (s, w) := if w.kind = 1 then s.barExpire w else s.frameExpire w
        { s with watches := s.watches.set n w })

end Sys2Proof.Machine
end

