-- ==== Sys2Proof/Machine/Frames.lean ====
section
/-!
DEFINITION. Sys2Proof/Machine/Frames.lean: the grant of waiting frame requests and the escape spill engine (R135, R137,
R322 to R326).
-/

namespace Sys2Proof.Machine

/-! ## Grants (R322, R323, R324) -/

/-- The frames of a wave that its valid fragments address. -/
def Wave.addressed (w : Wave) : List Nat := ([0, 1].filter (fun k => (w.slotAt k).valid)).map w.curKey

/-- The frames that a request must have back: every spilled one of a victim, else the spilled one that its fragment
addresses. -/
def Wave.wanted (w : Wave) (k : Nat) : List Nat :=
  ((w.frames.filter (fun p => p.2.spilled && (w.evicted || p.1 == w.curKey k))).map Prod.fst)

/-- Blocks of the frames with the given keys. -/
def Wave.blocksOf (w : Wave) (keys : List Nat) : Nat := (keys.map (fun k => (w.frame k).blocks)).sum

/-- The blocks of the CALL that a request holds. -/
def FrameReq.demand : FrameReq → Nat
  | .call d _ _ => d
  | .restore => 0

/-- The demand of a request: the blocks to restore and those of its CALL (R323). -/
def State.demandOf (s : State) (h : FrameWait) : Nat :=
  match s.waveAt h.wave with
  | none => 0
  | some w => w.blocksOf (w.wanted h.slot) + h.req.demand

/-- Change the spill engine's job of a core. -/
def State.setSpill (s : State) (core : Nat) (j : Option SpillJob) : State :=
  { s with cores := mset s.cores core { s.core core with spill := j } }

/-- Give frames of a wave their pool blocks again. -/
def State.unspill (s : State) (wave : Nat) : List Nat → State
  | [] => s
  | k :: ks =>
      let s := s.modWave wave (fun w =>
        let free := s.poolFree w.core
        { w with frames := mmod w.frames k (fun f => { f with spilled := false, pool := free.take f.blocks }) })
      s.unspill wave ks

/-- A frame wait is over: its straggler watch ends, and a late one is reported (R391). -/
def State.frameArrived (s : State) (wave slot : Nat) : State :=
  match s.watches.find? (fun x => x.onFrame wave slot) with
  | none => s
  | some x =>
      let core := ((s.waveAt wave).map Wave.core).getD 0
      let late := min ((s.time - x.till) / 16000) 0xFFFFFFFF
      let s := if x.expired then s.emitN (s.partOf x.ctx) (unitCore core 0) 0x0503 x.causal x.causal late else s
      { s with watches := s.watches.filter (fun y => !y.onFrame wave slot) }

/-- The spill engine of a core copies frames of a wave, in one direction or the other. -/
def State.copying (s : State) (core wave : Nat) : Bool :=
  match (s.core core).spill with
  | some j => j.wave == wave
  | none => false

/-- Grant the head of a core's frame queue: a CALL is performed; frames to restore are copied back first, and until then a
victim does not run (R323). -/
def State.frameGrant (s : State) (core : Nat) (h : FrameWait) : State :=
  let keys := ((s.waveAt h.wave).map (fun w => w.wanted h.slot)).getD []
  let s := (s.unspill h.wave keys).focus h.wave
  let s := s.inSlot h.slot (fun s =>
    let s := match h.req with
      | .call dem t ret => s.enterFrame dem t ret
      | .restore => s
    s.setSlot { s.slot with park := if keys.isEmpty then .no else .frame .restore })
  let s := { s with wave := { s.wave with
    evicted := s.wave.evicted && (!keys.isEmpty || s.copying core h.wave) } }.unfocus
  if keys.isEmpty then s.frameArrived h.wave h.slot else s.setSpill core (some ⟨h.wave, keys, true, h.slot⟩)

/-- The head of a core's frame queue that can be granted now: a victim's blocks must have left the pool first. -/
def State.grantHead (s : State) (core : Nat) : Option FrameWait :=
  match s.frameHead core with
  | none => none
  | some h =>
      let restores := !(((s.waveAt h.wave).map (fun w => w.wanted h.slot)).getD []).isEmpty
      let leaving := (((s.waveAt h.wave).map Wave.evicted).getD false) && s.copying core h.wave
      if s.demandOf h ≤ (s.poolFree core).length && !((restores || leaving) && (s.core core).spill.isSome) then some h else none

/-- FRAME_GRANT (R322): the head of a core's frame queue is granted. -/
def execFrameGrant (core : Nat) (s : State) : Out :=
  let s := s.unfocus
  match s.grantHead core with
  | none => .refused (.notEnabled "FRAME_GRANT")
  | some h => .next (s.frameGrant core h)

/-! ## Spilling (R323 to R325) -/

/-- Every wave on the core is parked; waves that are over do not count. -/
def State.coreParked (s : State) (core : Nat) : Bool :=
  (s.allWaves.filter (fun w => w.core == core)).all (fun w => match w.life with
    | .running => w.halted || !(w.slot0.ready || w.slot1.ready)
    | .waiting => false
    | .stopped | .done => true)

/-- Keys of the frames of a wave that hold pool blocks. -/
def Wave.held (w : Wave) : List Nat := (w.frames.filter (fun p => !p.2.spilled)).map Prod.fst

/-- A wave is blocked in the frame queue. -/
def Wave.queued (w : Wave) : Bool :=
  [0, 1].any (fun k => match (w.slotAt k).park with
    | .frame _ => (w.slotAt k).valid
    | _ => false)

/-- The later of two waves: the group that started last, then the higher index. -/
def State.laterWave (s : State) (a b : Wave) : Wave :=
  let ord (w : Wave) : Nat := ((s.groupAt w.group).map Group.order).getD 0
  if ord a < ord b || (ord a == ord b && a.index < b.index) then b else a

/-- The victim of R323. -/
def State.victim (s : State) (core head : Nat) : Option Wave :=
  let ws := s.allWaves.filter (fun w =>
    w.core == core && w.name != head && w.life == .running && !w.evicted && 0 < w.blocksOf w.held)
  let first := ws.filter Wave.queued
  match (if first.isEmpty then ws else first) with
  | [] => none
  | w :: rest => some (rest.foldl s.laterWave w)

/-- Frames of the head's own wave that no valid fragment addresses, from depth 0 upward. -/
def Wave.spare (w : Wave) : List Nat :=
  let ks := w.held.filter (fun k => !w.addressed.contains k)
  (List.range 64).flatMap (fun d => ks.filter (fun k => k % 64 == d))

/-- The first keys whose blocks reach a number. -/
def Wave.upTo (w : Wave) : Nat → List Nat → List Nat
  | _, [] => []
  | n, k :: ks => if n = 0 then [] else k :: w.upTo (n - (w.frame k).blocks) ks

/-- The frame-exhausted trap of a fragment that waits at a CALL (R137, R325). -/
def State.frameTrap (s : State) (wave slot : Nat) : State :=
  let s := s.focus wave
  (s.inSlot slot (fun s =>
    match s.slot.park with
    | .frame (.call dem _ ret) =>
        let t : DelTrap :=
          ⟨0x0501, slot, s.pc, s.slot.waitId, 0, 0, 0, 0, 0, true, (ret - s.pc).toNat, 0, false, s.time⟩
        let s := s.emitN s.grp.part s.issueUnit 0x0106 t.causal s.grp.start dem
        let s := { s with watches := s.watches.filter (fun x => !x.onFrame wave slot) }
        (s.setSlot { s.slot with park := .no }).takeTrap t
    | _ => s)).unfocus

/-- The slot of a wave that waits at a CALL. -/
def Wave.callSlot (w : Wave) : Option Nat :=
  [0, 1].find? (fun k => match (w.slotAt k).park with
    | .frame (.call _ _ _) => (w.slotAt k).valid
    | _ => false)

/-- What the spill engine does for the head of a queue (R323 to R325). -/
inductive SpillMove where
  | no
  | copy (j : SpillJob) (evict : Bool)
  | trap (wave slot : Nat)
deriving DecidableEq, Repr

/-- The head's CALL takes the trap, if it is one; for a head that only restores frames R325 names nothing, and the engine does
nothing (log 78). -/
def trapHead (h : FrameWait) : SpillMove :=
  match h.req with
  | .call _ _ _ => .trap h.wave h.slot
  | .restore => .no

/-- The context of a wave. -/
def State.waveCtx (s : State) (w : Wave) : Nat := ((s.groupAt w.group).map Group.ctx).getD 0

/-- The next move of the spill engine of a core. -/
def State.spillMove (s : State) (core : Nat) : SpillMove :=
  match s.frameHead core with
  | none => .no
  | some h =>
      match s.victim core h.wave with
      | some v =>
          if v.blocksOf v.held ≤ s.spillFree (s.waveCtx v) then .copy ⟨v.name, v.held, false, 0⟩ true
          else match v.callSlot with
            | some k => .trap v.name k
            | none => trapHead h
      | none =>
          match s.waveAt h.wave with
          | none => .no
          | some w =>
              let keys := w.upTo (s.demandOf h - (s.poolFree core).length) w.spare
              if keys.isEmpty then .no
              else if w.blocksOf keys ≤ s.spillFree (s.waveCtx w) then .copy ⟨w.name, keys, false, h.slot⟩ false
              else trapHead h

/-- Make a move of the spill engine. -/
def State.spillDo (s : State) (core : Nat) : SpillMove → State
  | .no => s
  | .copy j evict =>
      let s := if evict then s.modWave j.wave (fun w => { w with evicted := true }) else s
      s.setSpill core (some j)
  | .trap w k => s.frameTrap w k

/-- The spill engine of a core may act: 256 cycles with requests, without issue, with every wave parked. -/
def State.spillReady (s : State) (core : Nat) : Bool :=
  s.coreParked core && (s.core core).spill.isNone && (s.frameHead core).isSome && (s.grantHead core).isNone &&
    s.spillMove core != .no &&
    (match (s.core core).idleFrom with
     | some c => c + 256 ≤ s.cycles.toNat
     | none => false)

/-- ESCAPE_SPILL (R323): the spill engine chooses a victim and starts to copy its blocks, or a CALL traps (R325). -/
def execEscapeSpill (core : Nat) (s : State) : Out :=
  let s := s.unfocus
  gate "ESCAPE_SPILL" (s.spillReady core) (s.spillDo core (s.spillMove core))

/-- A spill or restore event of a wave. -/
def State.spillEvent (s : State) (type wave blocks : Nat) : State :=
  match s.waveAt wave with
  | none => s
  | some w =>
      let g := (s.groupAt w.group).getD .off
      s.emitN g.part (unitCore w.core 0) type w.lastCall g.start blocks

/-- Blocks of a context's spill area that hold spilled frames. -/
def State.spillHeld (s : State) (ctx : Nat) : List Nat :=
  (s.allWaves.filter (fun w => s.waveCtx w == ctx)).flatMap (fun w =>
    w.frames.flatMap (fun p => if p.2.spilled then p.2.pool else []))

/-- n free blocks of a context's spill area: the engine's choice (log 56). -/
def State.spillPlaces (s : State) (ctx n : Nat) : List Nat :=
  let total := ((mget s.ctxs ctx).map Ctx.spillBlks).getD 0
  let held := s.spillHeld ctx
  let first := Config.pick s.oracle total
  (((List.range (n + held.length)).map (fun i => (first + i) % total)).filter (fun b => !held.contains b)).take n

/-- The 2,048 bytes of a block of a frame: its registers in order (R17). -/
def Frame.blockBytes (f : Frame) (i : Nat) : List Byte := ((f.regs.drop (8 * i)).take 8).flatMap lanesBytes

/-- Copy a frame's blocks to places of the spill area. -/
def State.spillBlocks (s : State) (w : Wave) (f : Frame) (base : Nat) : List (Nat × Nat) → State
  | [] => s
  | (b, i) :: ps =>
      (s.gwrite w.lastCall (some (dieOf w.core)) (s.waveCtx w) (base + 2048 * b) (f.blockBytes i) false).1.spillBlocks w f base ps

/-- Frames of a wave lie in the spill area now: their blocks return to the pool. -/
def State.spillFrames (s : State) (wave : Nat) : List Nat → State
  | [] => s
  | k :: ks =>
      let s := match s.waveAt wave with
        | none => s
        | some w =>
            match mget w.frames k with
            | none => s
            | some f =>
                let ctx := s.waveCtx w
                let places := s.spillPlaces ctx f.blocks
                let base := ((mget s.ctxs ctx).map (fun c : Ctx => c.spillBase.toNat)).getD 0
                let s := ({ s with oracle := s.oracle + 1 }).spillBlocks w f base places.zipIdx
                s.modWave wave (fun w => { w with frames := mmod w.frames k (fun f => { f with spilled := true, pool := places }) })
      s.spillFrames wave ks

/-- SPILL_COPY_DONE (R323, R324): the copied frames leave the pool; the engine goes on until the head can be granted. -/
def execSpillCopyDone (core : Nat) (s : State) : Out :=
  let s := s.unfocus
  match (s.core core).spill with
  | none => .refused (.notEnabled "SPILL_COPY_DONE")
  | some j =>
      gate "SPILL_COPY_DONE" (!j.back) (
        let blocks := ((s.waveAt j.wave).map (fun w => w.blocksOf j.frames)).getD 0
        let s := s.spillFrames j.wave j.frames
        let s := (s.spillEvent 0x0104 j.wave blocks).setSpill core none
        if (s.grantHead core).isSome then s else s.spillDo core (s.spillMove core))

/-- FRAME_RESTORE_DONE (R323, R324): restored frames are back, and the fragment goes on. -/
def execFrameRestoreDone (core : Nat) (s : State) : Out :=
  let s := s.unfocus
  match (s.core core).spill with
  | none => .refused (.notEnabled "FRAME_RESTORE_DONE")
  | some j =>
      gate "FRAME_RESTORE_DONE" j.back (
        let blocks := ((s.waveAt j.wave).map (fun w => w.blocksOf j.frames)).getD 0
        let s := (s.spillEvent 0x0105 j.wave blocks).setSpill core none
        let s := s.modWave j.wave (fun w =>
          let w : Wave := { w with evicted := false }
          let f := w.slotAt j.slot
          match f.park with
          | .frame .restore => w.setSlotAt j.slot { f with park := .no }
          | _ => w)
        s.frameArrived j.wave j.slot)

end Sys2Proof.Machine
end

