-- ==== Sys2Proof/Machine/Matrix.lean ====
section
/-!
DEFINITION. Sys2Proof/Machine/Matrix.lean: the matrix engine (spec/09, R212 to R230) and its sums (R77, R92, R93). Matrix
order is the order in which the core's class instructions stand in `ops`.
-/

namespace Sys2Proof.Machine

/-! ## Formats (R212) -/

/-- The F code, which is also a plane's tag. -/
def fmtCode : MFmt → BitVec 3
  | .e4m3 => 0
  | .e5m2 => 1
  | .e2m1 => 2
  | .bf16 => 3
  | .f16 => 4
  | .s8 => 5
  | .s4 => 6

/-- The format with an F code. -/
def fmtOfCode (c : BitVec 3) : Option MFmt :=
  [MFmt.e4m3, .e5m2, .e2m1, .bf16, .f16, .s8, .s4][c.toNat]?

/-- K of a format. -/
def fmtK : MFmt → Nat
  | .e4m3 | .e5m2 | .s8 => 256
  | .e2m1 | .s4 => 512
  | .bf16 | .f16 => 128

/-- The group along K. -/
def fmtGroup : MFmt → Nat
  | .bf16 | .f16 => 16
  | _ => 32

/-- The format carries block scales. -/
def fmtScaled : MFmt → Bool
  | .e4m3 | .e5m2 | .e2m1 => true
  | _ => false

/-- Integer operands. -/
def fmtInt : MFmt → Bool
  | .s8 | .s4 => true
  | _ => false

/-- Scale bytes of a row or column: K / 32. -/
def fmtBlocks (f : MFmt) : Nat := fmtK f / 32

/-- The formats of A and of the plane are compatible. -/
def compatible (f : MFmt) (tag : BitVec 3) : Bool :=
  fmtCode f == tag || (fmtCode f == 0 && tag == 1) || (fmtCode f == 1 && tag == 0)

/-! ## Elements and sums (R77, R80, R92, R93) -/

/-- The element codes of 256 bytes: the lower index first (R80). -/
def elemCodes (f : MFmt) (b : List Byte) : List Nat :=
  match f with
  | .e4m3 | .e5m2 | .s8 => b.map BitVec.toNat
  | .e2m1 | .s4 => b.flatMap (fun x => [x.toNat % 16, x.toNat / 16])
  | .bf16 | .f16 => (List.range (b.length / 2)).map (fun k => leNat ((b.drop (2 * k)).take 2))

/-- The number that an element code stands for. -/
def elemNum (f : MFmt) (x : Nat) : Num :=
  match f with
  | .e4m3 => FF.e4m3.value x
  | .e5m2 => FF.e5m2.value x
  | .e2m1 => FF.e2m1.value x
  | .bf16 => FF.bf16.value x
  | .f16 => FF.fp16.value x
  | .s8 => .ofInt (sint 8 x)
  | .s4 => .ofInt (sint 4 x)

/-- A number times the factor of a scale byte (R77). -/
def scaleNum (b : Byte) (x : Num) : Num :=
  if b = 0xFF#8 then .nan
  else match x with
    | .fin n m e => .fin n m (e + b.toNat - 127)
    | x => x

/-- Scale the elements of a row or column by its block scales, 32 elements to a block. -/
def scaleElems (xs : List Num) (scales : List Byte) : List Num :=
  xs.mapIdx (fun k x => scaleNum (scales.getD (k / 32) 0x7F#8) x)

/-- The exact sum of the products of a group (R92): a NaN product makes it NaN before infinities are compared. -/
def groupSum (a b : List Num) : Num × BitVec 6 :=
  let ps := List.zipWith Num.mul a b
  let f := ps.foldl (fun f p => f ||| p.2) fNone
  if ps.any (fun p => p.1 == .nan) then (.nan, f)
  else ps.foldl (fun acc p => let r := acc.1.add p.1; (r.1, acc.2 ||| r.2)) (.fin false 0 0, f)

/-- Multiply by a power of two. -/
def Num.shift (k : Int) : Num → Num
  | .fin n m e => .fin n m (e + k)
  | x => x

/-- Add a group sum to an FP32 accumulator: one rounding; an exact zero leaves its bits, also those of a NaN that is not the
canonical one (R92; log 66). -/
def accFloat (acc : Word) (s : Num) : Word × BitVec 6 :=
  match s with
  | .fin _ 0 _ => (acc, fNone)
  | s => (FF.fp32.deliver ((FF.fp32.get acc).add s)).word

/-- The integer value of a sum of integer products. -/
def Num.toInt : Num → Int
  | .fin n m e => if n then -((m * 2 ^ e.toNat : Nat) : Int) else ((m * 2 ^ e.toNat : Nat) : Int)
  | _ => 0

/-- Add a group sum to an `.s32` accumulator with saturation (R93). -/
def accInt (acc : Word) (s : Num) : Word × BitVec 6 :=
  let r := satS (acc.toInt + s.toInt)
  (r.1, satFlag r.2)

/-- Accumulate the groups of one element of the product in increasing K. -/
def dotAcc (f : MFmt) (shift : Int) : Nat → List Num → List Num → Word × BitVec 6 → Word × BitVec 6
  | 0, _, _, acc => acc
  | n + 1, a, b, acc =>
      let g := fmtGroup f
      let (s, fl) := groupSum (a.take g) (b.take g)
      let (w, fl2) := if fmtInt f then accInt acc.1 s else accFloat acc.1 (s.shift shift)
      dotAcc f shift n (a.drop g) (b.drop g) (w, acc.2 ||| fl ||| fl2)

/-! ## The core's matrix state (R27, R213, R216) -/

/-- Change a core. -/
def State.modCore (s : State) (core : Nat) (f : Core → Core) : State :=
  { s with cores := mset s.cores core (f (s.core core)) }

/-- The tag of a plane. -/
def Core.tag (c : Core) (p : Bool) : BitVec 3 := if p then c.tag1 else c.tag0

/-- The bytes of a column of a plane, and its scale bytes. -/
def Core.column (c : Core) (p : Bool) (n : Nat) : List Byte × List Byte :=
  (cread 0 (if p then c.plane1 else c.plane0) (n * 256) 256,
   cread 0x7F#8 (if p then c.scale1 else c.scale0) (n * 16) 16)

/-- Write a column. -/
def Core.setColumn (c : Core) (p : Bool) (n : Nat) (data scales : List Byte) : Core :=
  if p then
    { c with plane1 := cwrite 0 c.plane1 (n * 256) data, scale1 := cwrite 0x7F#8 c.scale1 (n * 16) scales }
  else
    { c with plane0 := cwrite 0 c.plane0 (n * 256) data, scale0 := cwrite 0x7F#8 c.scale0 (n * 16) scales }

/-- The group that owns the matrix state of a core (R27). -/
def State.matrixOwner (s : State) (core : Nat) : Option Group :=
  s.allGroups.find? (fun g => g.resident && g.matrix && g.onCore core)

/-- The matrix operation of an engine operation. -/
def EngineOp.mat? (o : EngineOp) : Option MatOp :=
  match o.kind with
  | .mat m => some m
  | _ => none

/-- Change the matrix operation of an engine operation. -/
def State.modMat (s : State) (n : Nat) (f : MatOp → MatOp) : State :=
  s.modOp n (fun o => match o.kind with
    | .mat m => { o with kind := .mat (f m) }
    | _ => o)

/-- Class instructions of the core that have not finished (R215, R228). An MSTREAM without an active lane, which starts as done, is
not counted while it waits to complete in order (log 93). -/
def State.matrixAccepted (s : State) (core : Nat) : Nat :=
  (s.ops.filter (fun o => o.core == core && o.cls == .matrix && o.state == .going)).length

/-- Matrix not claimed (R27). -/
def State.claimCause (s : State) : Option Nat := if s.grp.matrix then none else some 0x010A

/-! ## Issue (R214, R215, R220, R221) -/

/-- The first register of an accumulator range. -/
def accBase : VReg → Nat
  | .v n => n
  | .a n => 120 + n

/-- The registers that need not wait: the range is exactly the pending range of an earlier matrix instruction of the
fragment (R221), also when that one has ended inside its window, which alone decides (R52; log 72). -/
def State.accFree (s : State) (d : VReg) : List RegName :=
  let mine (o : EngineOp) : Bool := o.wave == s.wave.name && o.slot == s.wave.cur && o.state != .done &&
    (match o.kind with
     | .mat m => m.kind != 0 && m.frame == s.frameKey && m.vd == accBase d
     | _ => false)
  let range := rangeNames s.frameKey d 64
  if s.ops.any mine || s.slot.windows.any (fun w => w.regs == range) then range else []

/-- Issue a class instruction: the counter at 1,023 parks it, a full queue stalls it. -/
def State.matrixIssue (s : State) (i : Instr) (c1 : State → Option Nat) (c3 : State → Option Raise) (free : List RegName)
    (run : State → State) : State :=
  match s.check i c1 c3 free with
  | .trap r => s.raise i.words r
  | .wait w => s.stallOn w
  | .go =>
      if s.wave.count 3 = 1023 then
        (s.setSlot { s.slot with after := s.pc, stall := .no }).park (.count .matrix 1022 true)
      else if 8 ≤ s.matrixAccepted s.wave.core then s.stallOn .matrixQueue
      else (((run s.tick).openWindow i s.frameKey)).nextPc i

/-! ## MSCALE, MSWAP, MQRY (R217, R219, R228) -/

/-- A scale register's value is refused (R217). -/
def mscaleBad (n : Nat) (v : Word) : Bool :=
  let mode := (v.extractLsb' 30 2).toNat
  let src := (v.extractLsb' 0 23).toNat
  if n < 2 then
    v.extractLsb' 23 7 != 0 || mode == 3 || (mode == 1 && 255 < src) || (mode == 0 && src != 0) ||
      (mode == 2 && src % 16 != 0)
  else if n = 2 then v.extractLsb' 21 11 != 0 || v.toNat % 16 != 0
  else v.extractLsb' 8 24 != 0

/-- A scale register of the issuing core. -/
def State.msc (s : State) (n : Nat) : Word := (s.core s.wave.core).msc.toArray.getD n 0

/-- MSCALE (R217): SD receives the old value. A refused value is a reserved field, which comes before the claim (R59, R230). -/
def execMscale (n : BitVec 2) (d : SReg) (a : SSrc) (s : State) : Out :=
  .next (s.issueWith (.mscale n d a)
    (fun s => if mscaleBad n.toNat (s.ssrc a) then some 0x0103 else s.claimCause)
    (fun _ => none) [] (fun s =>
      let v := s.ssrc a
      let t := s.modCore s.wave.core (fun c => { c with
        msc := Vector.ofFn (fun i : Fin 4 => if i.val = n.toNat then v else c.msc.get i) })
      (t.sset d (s.msc n.toNat)).nextPc (.mscale n d a)))

/-- MSWAP (R219): stalls until no MLOADW is unfinished, then inverts ACTIVE_PLANE. -/
def execMswap (s : State) : Out :=
  .next (s.issueHold .mswap State.claimCause (fun _ => none) []
    (fun s => if s.shadowBusy s.wave.core then some .matrixQueue else none)
    (fun s => (s.modCore s.wave.core (fun c => { c with active := !c.active })).nextPc .mswap))

/-- The east neighbour of a core (R224). -/
def eastOf (core : Nat) : Option Nat :=
  if core % 4 < 3 then some (core + 1)
  else if core / 4 % 8 = 7 then none
  else some ((core / 4 + 1) * 4)

/-- The west neighbour. -/
def westOf (core : Nat) : Option Nat :=
  if 0 < core % 4 then some (core - 1)
  else if core / 4 % 8 = 0 then none
  else some ((core / 4 - 1) * 4 + 3)

/-- A stream forwarded to the core finds a matrix-owning group of the context (R226). -/
def State.chainTaker (s : State) (core ctx : Nat) : Bool :=
  match s.matrixOwner core with
  | some g => g.ctx == ctx
  | none => false

/-- The value of a query (R228). -/
def State.matrixQuery (s : State) (q : MQuery) : Nat :=
  let c := s.core s.wave.core
  match q with
  | .planes =>
      b2n c.active * 2 ^ 17 + b2n (s.shadowBusy s.wave.core) * 2 ^ 16 + (c.tag (!c.active)).toNat * 16 +
        (c.tag c.active).toNat
  | .accepted => s.matrixAccepted s.wave.core
  | .chain =>
      let east := match eastOf s.wave.core with
        | some e => s.chainTaker e s.grp.ctx
        | none => false
      b2n c.chainIn.isSome * 2 + b2n east
  | .kOf a => ((fmtOfCode ((s.ssrc a).extractLsb' 0 3)).map fmtK).getD 0

/-- MQRY (R228). -/
def execMqry (q : MQuery) (d : SReg) (s : State) : Out :=
  .next (s.issueWith (.mqry q d) State.claimCause (fun _ => none) [] (fun s =>
    (s.sset d (BitVec.ofNat 32 (s.matrixQuery q))).nextPc (.mqry q d)))

/-! ## MLOADW (R218) -/

/-- Block scales come from the scratchpad. -/
def perBlock (f : MFmt) (msc : Word) : Bool := fmtScaled f && (msc.extractLsb' 30 2).toNat == 2

/-- The source address of a scale register. -/
def mscSource (msc : Word) : Word := (msc.extractLsb' 0 23).setWidth 32

/-- The address of row or column k from a base with a stride. -/
def spanAt (base : Word) (stride k : Nat) : Word := base + BitVec.ofNat 32 (k * stride)

/-- The span of row or column k, and its scale span, are in bounds (R33). -/
def State.spanOk (s : State) (f : MFmt) (msc base : Word) (stride k : Nat) : Bool :=
  (s.spadResolve none (spanAt base stride k) 256).isSome &&
    (!perBlock f msc || (s.spadResolve none (spanAt (mscSource msc) (fmtBlocks f) k) (fmtBlocks f)).isSome)

/-- The class 0x03 checks of MLOADW; the record names the lowest failing column, which is 0 for a misaligned SA and 1 for a
misaligned stride; the address is the column's, also where only its scales fail (log 94). -/
def State.mloadwRaise (s : State) (f : MFmt) (a b : Word) : Option Raise :=
  match (List.range 64).find? (fun n => !s.spanOk f (s.msc 1) a b.toNat n) with
  | some n => some { code := 0x0301, addr := (spanAt a b.toNat n).setWidth 64, maskA := laneBit n }
  | none =>
      if a.toNat % 16 = 0 && b.toNat % 16 = 0 then none
      else
        let n := if a.toNat % 16 = 0 then 1 else 0
        some { code := 0x0302, addr := (spanAt a b.toNat n).setWidth 64, maskB := laneBit n }

/-- A class instruction without particulars. -/
def MatOp.base (kind : Nat) (f : MFmt) : MatOp where
  kind := kind
  frame := noFrame
  vd := 0
  fmt := f
  z := false
  plane := false
  tag := 0
  scale := 0
  shift := 0
  stride := 0
  addr := 0
  mask := 0
  role := 0
  begun := false
  stream := none
  forward := false

/-- MLOADW (R218): the shadow plane takes the format's tag at once. -/
def execMloadw (f : MFmt) (a b : SSrc) (s : State) : Out :=
  .next (s.matrixIssue (.mloadw f a b) State.claimCause (fun s => s.mloadwRaise f (s.ssrc a) (s.ssrc b)) [] (fun s =>
    let q := !(s.core s.wave.core).active
    let m := { MatOp.base 0 f with
      plane := q, scale := s.msc 1, stride := (s.ssrc b).toNat, addr := s.ssrc a, mask := allLanes }
    let s := s.modCore s.wave.core (fun c => if q then { c with tag1 := fmtCode f } else { c with tag0 := fmtCode f })
    s.startOp .matrix (.mat m)))

/-- The operations of a core that stand before one in matrix order. -/
def State.matrixBefore (s : State) (o : EngineOp) : List EngineOp :=
  (s.ops.filter (fun x => x.core == o.core && x.cls == .matrix)).takeWhile (fun x => x.name != o.name)

/-- A stream that has been accepted and has not finished. -/
def EngineOp.streaming (o : EngineOp) : Bool :=
  o.state == .going &&
    (match o.kind with
     | .mat m => m.kind == 1 || m.kind == 2
     | _ => false)

/-- An MLOADW's reads may begin: no stream that captured its plane is unfinished, nor an earlier MLOADW. -/
def State.loadBegins (s : State) (op : Nat) : Bool :=
  match s.opAt op with
  | none => false
  | some o =>
      match o.kind with
      | .mat m =>
          m.kind == 0 && !m.begun && o.state == .going &&
            (s.matrixBefore o).all (fun x => match x.kind with
              | .mat y => x.state != .going || (y.kind != 0 && !(x.streaming && y.plane == m.plane))
              | _ => true)
      | _ => false

/-- MLOADW_READS_BEGIN (R218). -/
def execMloadwReadsBegin (op : Nat) (s : State) : Out :=
  let s := s.unfocus
  gate "MLOADW_READS_BEGIN" (s.loadBegins op) (s.modMat op (fun m => { m with begun := true }))

/-- The block scales of row or column k under a captured scale register (R216, R218). -/
def State.blockScales (s : State) (core : Nat) (f : MFmt) (msc : Word) (k : Nat) : List Byte :=
  let n := fmtBlocks f
  if !fmtScaled f then List.replicate n 0x7F#8
  else match (msc.extractLsb' 30 2).toNat with
    | 1 => List.replicate n (msc.extractLsb' 0 8)
    | 2 => s.spadGet (rawSpad core (spanAt (mscSource msc) n k)) n
    | _ => List.replicate n 0x7F#8

/-- Pad scale bytes to the 16 of a column. -/
def pad16 (b : List Byte) : List Byte := b ++ List.replicate (16 - b.length) 0x7F#8

/-- Load every column of an MLOADW. -/
def State.loadPlane (s : State) (o : EngineOp) (m : MatOp) : State :=
  s.modCore o.core (fun c => (List.range 64).foldl (fun c n =>
    c.setColumn m.plane n (s.spadGet (rawSpad o.core (spanAt m.addr m.stride n)) 256)
      (pad16 (s.blockScales o.core m.fmt m.scale n))) c)

/-- A class instruction has finished its work. -/
def State.matrixEnd (s : State) (o : EngineOp) : State :=
  (s.modOp o.name (fun x => { x with state := .done })).settleOp o

/-- MLOADW_FINISH (R218). -/
def execMloadwFinish (op : Nat) (s : State) : Out :=
  let s := s.unfocus
  match s.opAt op with
  | none => .refused (.notEnabled "MLOADW_FINISH")
  | some o =>
      match o.kind with
      | .mat m => gate "MLOADW_FINISH" (m.kind == 0 && m.begun && o.state == .going) ((s.loadPlane o m).matrixEnd o)
      | _ => .refused (.notEnabled "MLOADW_FINISH")

/-! ## MSTREAM and MSTREAMC (R222 to R226) -/

/-- The stride that MSC2 gives. -/
def State.rowStride (s : State) : Nat :=
  let x := ((s.msc 2).extractLsb' 0 21).toNat
  if x = 0 then 256 else x

/-- Matrix format, then matrix chain (R222, R224, R230). -/
def State.streamCause (s : State) (f : MFmt) (chain : Option Word) : Option Nat :=
  let c := s.core s.wave.core
  let onEdge := s.wave.core % 4 == 3 && s.wave.core / 4 % 8 == 7
  match s.claimCause with
  | some x => some x
  | none =>
      if s.exec ≠ 0 && !compatible f (c.tag c.active) then some 0x010E
      else match chain with
        | none => none
        | some a =>
            if a.getLsbD 31 then
              if a.extractLsb' 1 30 ≠ 0 || (a.getLsbD 0 && onEdge) then some 0x010F else none
            else if onEdge then some 0x010F else none

/-- The class 0x03 checks of a stream that reads A; the address is that of the row, also where only its scales fail (log 94). -/
def State.streamRaise (s : State) (f : MFmt) (a : Word) : Option Raise :=
  if s.exec = 0 then none
  else
    let st := s.rowStride
    let bad := maskOf (fun i => bit s.exec i && !s.spanOk f (s.msc 0) a st i)
    let mis := if a.toNat % 16 = 0 then 0 else s.exec
    let row (m : Dword) : Dword := ((lowest m).map (fun i => (spanAt a st i).setWidth 64)).getD 0
    if bad ≠ 0 then some { code := 0x0301, addr := row bad, maskA := bad, maskB := mis }
    else if mis ≠ 0 then some { code := 0x0302, addr := row mis, maskB := mis }
    else none

/-- The role in a chain that an SA value gives (R224). -/
def chainRole (a : Word) : Nat := if a.getLsbD 31 then (if a.getLsbD 0 then 3 else 2) else 1

/-- A stream as it stands at its place in matrix order. -/
def State.streamOp (s : State) (f : MFmt) (z : Bool) (d : VReg) (a : Word) (role : Nat) : MatOp :=
  let c := s.core s.wave.core
  { MatOp.base (if role = 0 then 1 else 2) f with
    frame := s.frameKey, vd := accBase d, z := z, plane := c.active, tag := c.tag c.active, scale := s.msc 0
    shift := sint 8 ((s.msc 3).toNat % 256), stride := s.rowStride, addr := a, mask := s.exec, role := role }

/-- MSTREAM (R222): with an empty mask it only completes in order. -/
def execMstream (f : MFmt) (z : Bool) (d : VReg) (a : SSrc) (l : BitVec 4) (s : State) : Out :=
  .next (s.matrixIssue (.mstream f z d a l) (fun s => s.streamCause f none) (fun s => s.streamRaise f (s.ssrc a))
    (s.accFree d) (fun s =>
      if s.exec = 0 then s.startOp .matrix .empty
      else s.startOp .matrix (.mat (s.streamOp f z d (s.ssrc a) 0))))

/-- MSTREAMC (R224): a head reads A, a follower takes the stream that arrives, also without an active lane: the head forwards its
empty stream, and the follower consumes one (log 93). -/
def execMstreamc (f : MFmt) (z : Bool) (d : VReg) (a : SSrc) (l : BitVec 4) (s : State) : Out :=
  .next (s.matrixIssue (.mstreamc f z d a l) (fun s => s.streamCause f (some (s.ssrc a)))
    (fun s => if (s.ssrc a).getLsbD 31 then none else s.streamRaise f (s.ssrc a)) (s.accFree d)
    (fun s => s.startOp .matrix (.mat (s.streamOp f z d (s.ssrc a) (chainRole (s.ssrc a))))))

/-- A stream may start: it is the oldest of the core's engine that has not, and a follower's stream has arrived. -/
def State.streamStarts (s : State) (op : Nat) : Bool :=
  match s.opAt op with
  | none => false
  | some o =>
      match o.kind with
      | .mat m =>
          o.streaming && !m.begun && (m.role < 2 || (s.core o.core).chainIn.isSome) &&
            (s.matrixBefore o).all (fun x => match x.kind with
              | .mat y => !x.streaming || y.begun
              | _ => true)
      | _ => false

/-- The rows and scales that a stream reads. -/
def State.readStream (s : State) (o : EngineOp) (m : MatOp) : Stream :=
  let row {α : Type} (f : Nat → List α) (i : Nat) : List α := if bit m.mask i then f i else []
  { fmt := m.fmt, mask := m.mask
    rows := (List.range 64).map (row (fun i => s.spadGet (rawSpad o.core (spanAt m.addr m.stride i)) 256))
    scales := (List.range 64).map (row (s.blockScales o.core m.fmt m.scale))
    causal := o.causal, group := o.group, ctx := s.opCtx o }

/-- MSTREAM_START (R222, R223, R225): the engine takes the rows; a head and a forwarding follower send them east. -/
def execMstreamStart (op : Nat) (s : State) : Out :=
  let s := s.unfocus
  gate "MSTREAM_START" (s.streamStarts op) (
    match s.opAt op with
    | none => s
    | some o =>
        match o.kind with
        | .mat m =>
            let st := if m.role < 2 then some (s.readStream o m) else (s.core o.core).chainIn
            let s := if m.role < 2 then s else s.modCore o.core (fun c => { c with chainIn := none })
            s.modMat op (fun m => { m with begun := true, stream := st, forward := m.role == 1 || m.role == 3 })
        | _ => s)

/-- Row i of a stream: the new accumulator elements and flags. -/
def State.streamRow (s : State) (o : EngineOp) (m : MatOp) (st : Stream) (w : Wave) (i : Nat) : List Word × BitVec 6 :=
  let a := scaleElems ((elemCodes st.fmt (st.rows.getD i [])).map (elemNum st.fmt)) (st.scales.getD i [])
  let fb := (fmtOfCode m.tag).getD st.fmt
  let cell (n : Nat) : Word × BitVec 6 :=
    let (data, scales) := (s.core o.core).column m.plane n
    let b := scaleElems ((elemCodes fb data).map (elemNum fb)) scales
    let acc : Word := if m.z then 0 else lane (w.vget m.frame (.v (m.vd + n))) i
    dotAcc st.fmt m.shift (fmtK st.fmt / fmtGroup st.fmt) a b (acc, fNone)
  let cells := (List.range 64).map cell
  (cells.map Prod.fst, cells.foldl (fun f x => f ||| x.2) fNone)

/-- The rows that a stream writes. -/
def MatOp.rows (m : MatOp) (st : Stream) : Dword := m.mask &&& st.mask

/-- Write every row of a stream in its wave; the flags are raised with them (R98). -/
def State.streamWrite (s : State) (o : EngineOp) (m : MatOp) (st : Stream) : State :=
  match s.waveAt o.wave with
  | none => s
  | some w =>
      let rows := (lanesOf (m.rows st)).map (fun i => (i, s.streamRow o m st w i))
      let el (n i : Nat) : Word := ((mget rows i).map (fun r => r.1.getD n 0)).getD 0
      let fl := rows.foldl (fun f r => f ||| r.2.2) fNone
      s.modWave o.wave (fun w =>
        let w := w.putRange m.frame (.v m.vd) (m.rows st) ((List.range 64).map (fun n => lanesFn (el n)))
        { w with flags := w.flags ||| fl })

/-- An unfinished MZEROACC on the range of a matrix instruction. -/
def EngineOp.zeroes (x o : EngineOp) (m : MatOp) : Bool :=
  x.state == .going && x.wave == o.wave &&
    (match x.kind with
     | .mat y => y.kind == 3 && y.frame == m.frame && y.vd == m.vd
     | _ => false)

/-- A stream may finish: it has started, has nothing left to forward, and every earlier stream and every earlier MZEROACC on its
range has finished (R221); or it is an empty operation that is the oldest of its class. -/
def State.streamEnds (s : State) (op : Nat) : Bool :=
  match s.opAt op with
  | none => false
  | some o =>
      match o.kind with
      | .mat m => o.streaming && m.begun && !m.forward &&
          (s.matrixBefore o).all (fun x => !x.streaming && !x.zeroes o m)
      | .empty => o.cls == .matrix && s.isFirst o
      | _ => false

/-- MSTREAM_FINISH (R222, R225): the rows are written; a stream of another format fails on arrival. -/
def execMstreamFinish (op : Nat) (s : State) : Out :=
  let s := s.unfocus
  gate "MSTREAM_FINISH" (s.streamEnds op) (
    match s.opAt op with
    | none => s
    | some o =>
        match o.kind with
        | .mat m =>
            match m.stream with
            | some st =>
                if st.fmt ≠ m.fmt then s.failOp o 0x070E 0 0
                else (s.streamWrite o m st).matrixEnd o
            | none => s.matrixEnd o
        | _ => s.settleOp o)

/-! ## Chains (R225, R226) -/

/-- The operation of the west neighbour that still forwards its stream to a core. -/
def State.forwarder (s : State) (core : Nat) : Option (EngineOp × Stream) :=
  match westOf core with
  | none => none
  | some w =>
      match s.ops.find? (fun o => o.core == w && o.state == .going &&
          (match o.kind with
           | .mat m => m.begun && m.forward && m.stream.isSome
           | _ => false)) with
      | none => none
      | some o => ((o.mat?).bind MatOp.stream).map (fun st => (o, st))

/-- Drop a stream at a core (R226). -/
def State.chainDrop (s : State) (core : Nat) (st : Stream) : State :=
  s.emitN (s.partOf st.ctx) (unitCore core 3) 0x0304 st.causal (s.startOf st.group) (core % 512)

/-- CHAIN_STREAM_ARRIVAL (R225, R226): the west neighbour's stream enters the chain input, or is dropped. -/
def execChainStreamArrival (core : Nat) (s : State) : Out :=
  let s := s.unfocus
  match s.forwarder core with
  | none => .refused (.notEnabled "CHAIN_STREAM_ARRIVAL")
  | some (o, st) =>
      let taker := s.chainTaker core st.ctx
      gate "CHAIN_STREAM_ARRIVAL" (!taker || (s.core core).chainIn.isNone) (
        let s := s.modMat o.name (fun m => { m with forward := false })
        if taker then s.modCore core (fun c => { c with chainIn := some st }) else s.chainDrop core st)

/-! ## MZEROACC (R227) -/

/-- MZEROACC (R227). -/
def execMzeroacc (d : VReg) (l : BitVec 4) (s : State) : Out :=
  .next (s.matrixIssue (.mzeroacc d l) State.claimCause (fun _ => none) (s.accFree d) (fun s =>
    s.startOp .matrix (.mat { MatOp.base 3 .e4m3 with frame := s.frameKey, vd := accBase d, mask := s.exec })))

/-- An MZEROACC may write: no earlier instruction of its fragment on the range is unfinished. -/
def State.zeroReady (s : State) (op : Nat) : Bool :=
  match s.opAt op with
  | none => false
  | some o =>
      match o.kind with
      | .mat m =>
          m.kind == 3 && o.state == .going &&
            (s.matrixBefore o).all (fun x => match x.kind with
              | .mat y => x.state != .going || x.wave != o.wave || y.kind == 0 || y.frame != m.frame || y.vd != m.vd
              | _ => true)
      | _ => false

/-- MZEROACC_COMPLETE (R227): +0 in every register of the range, in the captured lanes. -/
def execMzeroaccComplete (op : Nat) (s : State) : Out :=
  let s := s.unfocus
  gate "MZEROACC_COMPLETE" (s.zeroReady op) (
    match s.opAt op with
    | none => s
    | some o =>
        match o.kind with
        | .mat m =>
            (s.modWave o.wave (fun w =>
              w.putRange m.frame (.v m.vd) m.mask (List.replicate 64 (Lanes.fill 0)))).matrixEnd o
        | _ => s)

end Sys2Proof.Machine
end

