-- ==== Sys2Proof/Machine/Coll.lean ====
section
/-!
DEFINITION. Sys2Proof/Machine/Coll.lean: collectives (R208 to R210): the record, the reduction tree, a rank's issue and
completion, and the package's fabric sequencer.
-/

namespace Sys2Proof.Machine

/-! ## The record (R208) -/

/-- A collective record's fields. -/
structure CollRec where
  src      : Dword
  dst      : Dword
  count    : Nat
  comm     : Nat
  root     : Nat
  ty       : Nat
  op       : Nat
  deadline : Nat
  clean    : Bool
deriving DecidableEq, Repr

/-- The fields of 64 bytes; `clean`: every reserved bit is 0. -/
def CollRec.ofNat (x : Nat) : CollRec :=
  ⟨BitVec.ofNat 64 (bits x 63 0), BitVec.ofNat 64 (bits x 127 64), bits x 167 128, bits x 207 192, bits x 223 208,
   bits x 227 224, bits x 231 228, bits x 287 256,
   bits x 511 288 == 0 && bits x 255 232 == 0 && bits x 191 168 == 0⟩

/-- Bytes of an element of a TYPE. -/
def tySize (ty : Nat) : Nat := if ty < 7 then 4 else 2

/-- The kind reduces. -/
def collReduces : CollKind → Bool
  | .allreduce | .redscatter => true
  | _ => false

/-- The rank of a context of this package in a communicator. -/
def State.rankOf (s : State) (c : Comm) (ctx : Nat) : Option Nat :=
  c.ranks.findIdx? (· == (s.hub.config.device, ctx))

/-- The communicator that a record names, with the issuing context's rank. -/
def State.collComm (s : State) (r : CollRec) (ctx : Nat) : Option (Comm × Nat) :=
  (mget s.comms r.comm).bind (fun c => (s.rankOf c ctx).map (fun k => (c, k)))

/-- The record's own checks, its communicator known. -/
def CollRec.ok (r : CollRec) (k : CollKind) (p : Nat) : Bool :=
  let al (a : Dword) : Bool := a.extractLsb' 62 2 == 0 && a.toNat % tySize r.ty == 0
  let scatter := k == .redscatter || k == .alltoall
  r.clean && [0, 1, 6, 7, 8].contains r.ty && r.op ≤ 5 && !(3 ≤ r.op && 6 ≤ r.ty) && (collReduces k || r.op == 0) &&
    al r.src && al r.dst && !(scatter && r.count % p != 0) && (if k == .bcast then r.root < p else r.root == 0)

/-- What a scratchpad record is refused for at issue. -/
def State.collBad (s : State) (k : CollKind) (x : Nat) : Option Nat :=
  let r := CollRec.ofNat x
  match s.collComm r s.grp.ctx with
  | some (c, _) => if r.ok k c.ranks.length then none else some 0x0306
  | none => some 0x0306

/-- The class 0x03 checks of COLL. -/
def State.collRaise (s : State) (k : CollKind) (a : SPair) (b : SSrc) : Option Raise :=
  firstRaise (s.recRaise (s.pget a) (s.collBad k)) (s.barOperand (s.ssrc b) 0)

/-- COLL (R208). -/
def execColl (k : CollKind) (a : SPair) (b : SSrc) (s : State) : Out :=
  .next (s.engineIssue (.coll k a b) .coll (fun _ => none) (fun s => s.collRaise k a b) (fun s =>
    let r := s.pget a
    let recd := match recAt r with
      | .spad x => some (leNat (s.spadLoad x 64))
      | _ => none
    let bar := s.ssrc b
    s.startOp .coll (.coll
      { ck := k, recAddr := r, recd := recd, bar := if bar.getLsbD 31 then none else some bar
        comm := 0, nth := 0, rank := 0, issued := false, wrote := none })))

/-! ## Results (R209) -/

/-- One node of the tree. -/
def collNode (ty op : Nat) (a b : Word) : Word × BitVec 6 :=
  let ff : FF := if ty = 6 then .fp32 else if ty = 7 then .fp16 else .bf16
  let sg : Sgn := if ty = 0 then .s else .n
  match op with
  | 0 => if 6 ≤ ty then (ff.add a b).word else plain (a + b)
  | 1 => plain (if 6 ≤ ty then ff.select false a b else minW sg a b)
  | 2 => plain (if 6 ≤ ty then ff.select true a b else maxW sg a b)
  | 3 => plain (a &&& b)
  | 4 => plain (a ||| b)
  | _ => plain (a ^^^ b)

/-- The identity of an operation. -/
def collIdent (ty op : Nat) : Word :=
  match op, ty with
  | 0, 6 => 0x80000000#32
  | 0, 7 | 0, 8 => 0x8000#32
  | 0, _ => 0
  | 1, 0 => 0x7FFFFFFF#32
  | 1, 1 => 0xFFFFFFFF#32
  | 1, 6 => 0x7F800000#32
  | 1, 7 => 0x7C00#32
  | 1, _ => 0x7F80#32
  | 2, 0 => 0x80000000#32
  | 2, 1 => 0
  | 2, 6 => 0xFF800000#32
  | 2, 7 => 0xFC00#32
  | 2, _ => 0xFF80#32
  | 3, _ => 0xFFFFFFFF#32
  | _, _ => 0

/-- Pairs of ranks, then pairs of pairs. -/
def collTree (ty op : Nat) : Nat → List (Word × BitVec 6) → Word × BitVec 6
  | 0, l => l.headD (0, 0)
  | n + 1, l => collTree ty op n (treeLevel (collNode ty op) l)

/-- The levels of a tree over p ranks. -/
def treeDepth (p : Nat) : Nat := if p ≤ 1 then 0 else Nat.log2 (p - 1) + 1

/-- Element e of a rank's SRC. -/
def elemAt (n : Nat) (b : List Byte) (e : Nat) : Word := leWord ((b.drop (e * n)).take n)

/-- The reduction of element e over the ranks' data. -/
def collReduce (ty op e : Nat) (data : List (List Byte)) : Word × BitVec 6 :=
  let d := treeDepth data.length
  let xs := data.map (fun b => plain (elemAt (tySize ty) b e))
  collTree ty op d (xs ++ List.replicate (2 ^ d - xs.length) (plain (collIdent ty op)))

/-- The whole reduction: bytes and flags. -/
def collSum (ty op count : Nat) (data : List (List Byte)) : List Byte × BitVec 6 :=
  let rs := (List.range count).map (fun e => collReduce ty op e data)
  (rs.flatMap (fun r => leBytes (tySize ty) r.1.toNat), rs.foldl (fun f r => f ||| r.2) 0)

/-- Block k of p equal blocks of bytes. -/
def blockOf (b : List Byte) (p k : Nat) : List Byte := (b.drop (b.length / p * k)).take (b.length / p)

/-- What rank k's DST receives, and the flags of the tree. -/
def collResult (kind : CollKind) (r : CollRec) (k : Nat) (data : List (List Byte)) : List Byte × BitVec 6 :=
  let p := data.length
  match kind with
  | .allreduce => collSum r.ty r.op r.count data
  | .redscatter =>
      let (b, f) := collSum r.ty r.op r.count data
      (blockOf b p k, f)
  | .allgather => (data.flatten, 0)
  | .bcast => (data.getD r.root [], 0)
  | .alltoall => (data.flatMap (fun b => blockOf b p k), 0)

/-- Elements of SRC that a rank sends. -/
def srcCount (kind : CollKind) (r : CollRec) (k : Nat) : Nat := if kind == .bcast && k != r.root then 0 else r.count

/-- Bytes of a rank's DST. -/
def dstBytes (kind : CollKind) (r : CollRec) (p : Nat) : Nat :=
  tySize r.ty *
    (match kind with
     | .redscatter => r.count / p
     | .allgather => r.count * p
     | _ => r.count)

/-! ## The sequencer (R209, R210) -/

/-- The collective of an operation number on a communicator. -/
def State.collAt (s : State) (comm nth : Nat) : Option Coll := s.colls.find? (fun c => c.comm == comm && c.nth == nth)

/-- Change a collective. -/
def State.modColl (s : State) (comm nth : Nat) (f : Coll → Coll) : State :=
  { s with colls := lmod (fun c => c.comm == comm && c.nth == nth) f s.colls }

/-- The collective is over for this package: it is forgotten, and every rank here has gone past it. -/
def State.collGone (s : State) (comm nth : Nat) : Bool :=
  match mget s.comms comm with
  | none => true
  | some c =>
      let here := (List.range c.ranks.length).filter (fun k => (c.ranks[k]?).map Prod.fst == some s.hub.config.device)
      (s.collAt comm nth).isNone && here.all (fun k => nth < mgetD c.nth k 0)

/-- The collective is known to this sequencer, unless it is over. -/
def State.openColl (s : State) (comm nth : Nat) : State :=
  if (s.collAt comm nth).isSome || s.collGone comm nth then s
  else { s.fresh with colls := s.colls ++ [⟨s.names, comm, nth, [], none, none, 0, []⟩] }

/-- Ranks of a communicator. -/
def State.commSize (s : State) (comm : Nat) : Nat := ((mget s.comms comm).map (fun c => c.ranks.length)).getD 0

/-- The partition of a communicator. -/
def State.commPart (s : State) (comm : Nat) : Nat := ((mget s.comms comm).map Comm.part).getD 0

/-- Every rank has issued or aborted. -/
def State.collFull (s : State) (c : Coll) : Bool := s.commSize c.comm ≤ c.issues.length

/-- The packages, other than this one, that hold ranks of a communicator. -/
def State.commPeers (s : State) (comm : Nat) : List Nat :=
  match mget s.comms comm with
  | none => []
  | some c => ((c.ranks.map Prod.fst).filter (· != s.hub.config.device)).eraseDups

/-- The context of a rank. -/
def State.rankCtx (s : State) (comm rank : Nat) : Nat :=
  (((mget s.comms comm).bind (fun c => c.ranks[rank]?)).map Prod.snd).getD 0

/-- Send a message for a rank to the sequencers of the other packages: a class 3 packet of KIND 8 with the identifier of the
rank's operation (R362, R363, R375). While the fabric is absent no port is enabled, and the message is lost (R8; log 80). -/
def State.seqSend (s : State) (comm rank : Nat) (causal : Dword) (m : SeqMsg) : State :=
  (s.commPeers comm).foldl (fun s d =>
    let p : Packet :=
      { causal := causal, offset := Config.seqAddress d, window := 0, gen := 0, part := s.commPart comm
        ctx := s.rankCtx comm rank, cls := 3, op := .add, w64 := false, ret := false, dst := d, src := s.hub.config.device
        len := 0, hchk := .good, base := 0, tag := s.names, payload := [] }
    { s.fresh with oracle := s.oracle + 1 }.portSend (s.portFor 3 d 0 none) (.seq m) p) s

/-- Issues agree in what R209 requires. -/
def issueAgrees (a b : RankIssue) : Bool :=
  a.kind == b.kind && a.ty == b.ty && a.op == b.op && a.count == b.count && a.root == b.root

/-- The rank whose issue has the earliest device time; ties go to the lower rank. -/
def firstIssue : List RankIssue → Option RankIssue
  | [] => none
  | x :: xs => some (xs.foldl (fun a b => if b.time < a.time || (b.time == a.time && b.rank < a.rank) then b else a) x)

/-- The rank is on this package. -/
def State.rankHere (s : State) (comm rank : Nat) : Bool :=
  match mget s.comms comm with
  | none => false
  | some c => (c.ranks[rank]?).map Prod.fst == some s.hub.config.device

/-- This package's sequencer keeps the deadline: the first rank is here (R210). -/
def State.collKeeper (s : State) (c : Coll) : Bool :=
  match firstIssue c.issues with
  | some f => s.rankHere c.comm f.rank
  | none => false

/-- The lowest rank whose issue has not been received, and the others. -/
def State.collMissing (s : State) (c : Coll) : List Nat :=
  (List.range (s.commSize c.comm)).filter (fun k => !c.issues.any (fun x => x.rank == k))

/-- The deadline has passed before every rank has issued: the first rank's sequencer decides for all ranks (R210, R391). -/
def State.collExpire (s : State) (c : Coll) : State :=
  let late := s.collMissing c
  let first := late.headD 0
  let part := s.commPart c.comm
  let up := s.parentOf c.subject
  let s := s.emitN part unitSequencer 0x0501 c.subject up (3 + min late.length (2 ^ 24 - 1) * 2 ^ 8)
  let s := s.emitN part unitSequencer 0x0502 c.subject up first
  let s := s.modColl c.comm c.nth (fun c => { c with abort := some (0x070C, first) })
  s.seqSend c.comm (((firstIssue c.issues).map RankIssue.rank).getD 0) c.subject (.timeout c.comm c.nth first)

/-- The deadline that this sequencer keeps passed at an earlier time, and nothing has been decided. -/
def State.collOverdue (s : State) (c : Coll) : Bool :=
  c.abort.isNone && s.collKeeper c && !(s.collMissing c).isEmpty && (match c.till with
    | some t => t < s.time
    | none => false)

/-- A participant arrives after the deadline that this sequencer kept (R391). -/
def State.collLate (s : State) (c : Coll) (causal : Dword) : State :=
  match c.till, c.abort with
  | some t, some (0x070C, _) =>
      if s.collKeeper c then
        s.emitN (s.commPart c.comm) unitSequencer 0x0503 causal c.subject (min ((s.time - t) / 16000) 0xFFFFFFFF)
      else s
  | _, _ => s

/-- A collective after a rank's issue: the earliest issue's deadline is the one that counts (R210), and a full collective whose
issues disagree is decided (R209). -/
def Coll.take (c : Coll) (size : Nat) (r : RankIssue) (causal : Dword) : Coll :=
  let issues := c.issues ++ [r]
  let first := firstIssue issues == some r && !r.failed
  let same := match issues with
    | x :: xs => xs.all (fun y => issueAgrees x y)
    | [] => true
  { c with
    issues := issues
    till := if first then some (r.time + 16000 * r.deadline) else c.till
    subject := if first then causal else c.subject
    abort := if c.abort.isNone && size ≤ issues.length && !same then some (0x070A, 0) else c.abort }

/-- A rank's issue reaches this sequencer. One that comes after the deadline does not complete the collective (R210). -/
def State.seqIssue (s : State) (r : RankIssue) (causal : Dword) : State :=
  let s := s.openColl r.comm r.nth
  match s.collAt r.comm r.nth with
  | none => s
  | some c =>
      if c.issues.any (fun x => x.rank == r.rank) then s
      else
        let s := if s.collOverdue c then s.collExpire c else s
        let c := (s.collAt r.comm r.nth).getD c
        (s.collLate c causal).modColl r.comm r.nth (fun c => c.take (s.commSize r.comm) r causal)

/-- A rank that takes part in an operation only by its abort. -/
def abortIssue (comm nth rank time : Nat) : RankIssue := ⟨comm, nth, rank, .allreduce, 0, 0, 0, 0, 0, time, true, []⟩

/-- A rank's abort reaches this sequencer. -/
def State.seqAbort (s : State) (comm nth rank : Nat) (causal : Dword) : State :=
  let s := s.openColl comm nth
  match s.collAt comm nth with
  | none => s
  | some c =>
      let s := if s.collOverdue c then s.collExpire c else s
      let c := (s.collAt comm nth).getD c
      let had := c.issues.any (fun x => x.rank == rank)
      (if had then s else s.collLate c causal).modColl comm nth (fun c => { c with
        issues := if had then c.issues else c.issues ++ [abortIssue comm nth rank s.time]
        abort := some (c.abort.getD (0x070B, rank)) })

/-- A rank's result is in its DST (log 80). -/
def State.seqWrote (s : State) (comm nth rank : Nat) : State :=
  s.modColl comm nth (fun c => if c.wrote.contains rank then c else { c with wrote := c.wrote ++ [rank] })

/-- The decision of another sequencer that the deadline has passed. -/
def State.seqTimeout (s : State) (comm nth missing : Nat) : State :=
  (s.openColl comm nth).modColl comm nth (fun c => { c with abort := some (c.abort.getD (0x070C, missing)) })

/-- An operation of this package still takes part. -/
def State.collUsed (s : State) (c : Coll) : Bool :=
  s.ops.any (fun o => match o.kind with
    | .coll x => x.issued && x.comm == c.comm && x.nth == c.nth && o.state == .going
    | _ => false)

/-- Forget the collectives that are over: every rank has issued or aborted, and none of this package still waits. -/
def State.collClean (s : State) : State := { s with colls := s.colls.filter (fun c => !s.collFull c || s.collUsed c) }

/-! ## A rank's operation -/

/-- Change the collective of an operation. -/
def State.modCollOp (s : State) (n : Nat) (f : CollOp → CollOp) : State :=
  s.modOp n (fun o => match o.kind with
    | .coll c => { o with kind := .coll (f c) }
    | _ => o)

/-- Read bytes at an address of space 00 for an operation. -/
def State.collRead (s : State) (o : EngineOp) (a : Dword) (n : Nat) : State × Except (Nat × Dword) (List Byte) :=
  if a.extractLsb' 53 9 ≠ 0 then (s, .error (0x0702, a))
  else
    let (s, r) := s.gread o.causal o.die (s.opCtx o) (a.extractLsb' 0 53).toNat n
    (s, match r with
      | .ok b => .ok b
      | .error e => .error (e.err.code, BitVec.ofNat 64 (if e.err == .notPresent then pageOf e.va else e.va)))

/-- The record of a COLL: captured at issue, or read by the engine. -/
def State.collRecord (s : State) (o : EngineOp) (c : CollOp) : State × Except (Nat × Dword) Nat :=
  match c.recd with
  | some x => (s, .ok x)
  | none =>
      if c.recAddr.extractLsb' 62 2 ≠ 0 then (s, .error (0x0702, c.recAddr))
      else if c.recAddr.toNat % 16 ≠ 0 then (s, .error (0x0708, c.recAddr))
      else
        let (s, r) := s.collRead o c.recAddr 64
        (s, r.map leNat)

/-- The operation aborts at this rank: every sequencer learns of it. -/
def State.collAbort (s : State) (o : EngineOp) (c : CollOp) : State :=
  (s.seqAbort c.comm c.nth c.rank o.causal).seqSend c.comm c.rank o.causal (.abort c.comm c.nth c.rank)

/-- A started COLL completes as failed (R190, R210). -/
def State.collFail (s : State) (o : EngineOp) (comm code : Nat) (a : Dword) (info : Nat) : State :=
  let s := s.emitN (s.partOf (s.opCtx o)) unitSequencer 0x0707 o.causal (s.startOf o.group) comm
  (s.failOp o code a info).collClean

/-- The rank's operation takes its place on a communicator (R209), where the sequencer keeps the collective from then on. -/
def State.collTake (s : State) (o : EngineOp) (c : CollOp) (comm : Nat) (cm : Comm) (rank : Nat) : State × CollOp :=
  let nth := mgetD cm.nth rank 0
  let c := { c with comm := comm, nth := nth, rank := rank, issued := true }
  let s := s.openColl comm nth
  ({ s with comms := mset s.comms comm { cm with nth := mset cm.nth rank (nth + 1) } }.modCollOp o.name (fun _ => c), c)

/-- The communicators of this package whose rank list holds a context, with its rank. -/
def State.commsOf (s : State) (ctx : Nat) : List (Nat × Comm × Nat) :=
  s.comms.filterMap (fun p => (s.rankOf p.2 ctx).map (fun k => (p.1, p.2, k)))

/-- A record that cannot be read (R190, R210): the COLL completes as failed and aborts its collective at the other ranks. The
record would name the communicator; the model aborts the next operation of one that holds the context (log 80). -/
def State.collUnread (s : State) (o : EngineOp) (c : CollOp) (code : Nat) (a : Dword) : State :=
  let l := s.commsOf (s.opCtx o)
  match l[Config.pick s.oracle l.length % max 1 l.length]? with
  | none => s.failOp o code a 0
  | some (comm, cm, k) =>
      let (s, c) := { s with oracle := s.oracle + 1 }.collTake o c comm cm k
      ((s.collAbort o c).failOp o code a 0).collClean

/-- A rank issues (R209): it reads its record and SRC, and every sequencer receives the issue, which releases at `.domain`
(R267). A failure of its own completes it as failed and aborts the operation at the others (R210). -/
def State.collIssue (s : State) (o : EngineOp) (c : CollOp) : State :=
  let ctx := s.opCtx o
  let (s, x) := s.collRecord o c
  match x with
  | .error (code, a) => s.collUnread o c code a
  | .ok x =>
      let r := CollRec.ofNat x
      match s.collComm r ctx with
      | none => s.failOp o 0x0708 c.recAddr 0
      | some (cm, k) =>
          let (s, c) := s.collTake o { c with recd := some x } r.comm cm k
          if !r.ok c.ck cm.ranks.length then ((s.collAbort o c).failOp o 0x0708 c.recAddr 0).collClean
          else
            let s := s.emitN (s.partOf ctx) unitSequencer 0x0706 o.causal (s.startOf o.group) r.comm
            let (s, d) := s.collRead o r.src (tySize r.ty * srcCount c.ck r k)
            match d with
            | .error (code, a) => (s.collAbort o c).collFail o r.comm code a 0
            | .ok data =>
                let deflt := ((mget s.ctxs ctx).map (fun c => c.watchColl.toNat)).getD 0
                let i : RankIssue :=
                  ⟨r.comm, c.nth, k, c.ck, r.ty, r.op, r.count, r.root, if r.deadline = 0 then deflt else r.deadline,
                   s.time, false, data⟩
                (s.applyNotices.seqIssue i o.causal).seqSend r.comm k o.causal (.issue i)

/-- DST after a fault (R210): each line holds its earlier bytes, or what the sequencer had written: a free choice of free
bytes (log 14). -/
def State.collLose (s : State) (o : EngineOp) : List (Nat × Nat × Nat) → State
  | [] => s
  | (line, off, n) :: ps =>
      let k := s.oracle
      let s := { s with oracle := k + 1 + n }
      let va := line * 128 + off
      let b := (List.range n).map (fun i => BitVec.ofNat 8 (Config.freeWord (k + 1 + i)).toNat)
      let s := if Config.lost k line then
          let (t, r) := s.opWrite o va b false
          match r with
          | .ok () => t.chimeAdd o.group 0 0 va b
          | .error _ => t
        else s
      s.collLose o ps

/-- A COLL ends well: its flags, its arrival, its event; the completion acquires at `.domain` (R267). -/
def State.collDone (s : State) (o : EngineOp) (f : BitVec 6) (comm : Nat) : State :=
  let part := s.partOf (s.opCtx o)
  let s := s.acquireOn .domain (dieOf o.core)
  let s := match o.bar with
    | some addr =>
        let (s, t) := s.barArrive addr part (s.opCtx o) o.causal
        s.barRecord o addr t
    | none => s
  let s := s.emitN part unitSequencer 0x0707 o.causal (s.startOf o.group) comm
  ((s.modOp o.name (fun x => { x with state := .done, flags := f })).settleOp o).collClean

/-- A rank writes its result (R209); a fault aborts the operation. -/
def State.collWrite (s : State) (o : EngineOp) (c : CollOp) (cl : Coll) : State :=
  let r := CollRec.ofNat (c.recd.getD 0)
  let dst := (r.dst.extractLsb' 0 53).toNat
  let data := (List.range (s.commSize c.comm)).map (fun k =>
    ((cl.issues.find? (fun i => i.rank == k)).map RankIssue.data).getD [])
  let (b, f) := collResult c.ck r c.rank data
  if r.dst.extractLsb' 53 9 ≠ 0 then (s.collAbort o c).collFail o c.comm 0x0702 r.dst 0
  else
    let (s, w) := s.opWrite o dst b false
    match w with
    | .error e =>
        let at_ := if e.err == .notPresent then pageOf e.va else e.va
        (s.collAbort o c).collFail o c.comm e.err.code (BitVec.ofNat 64 at_) 0
    | .ok () =>
        let s := (s.chimeAdd o.group 0 0 dst b).modCollOp o.name (fun c => { c with wrote := some f })
        (s.seqWrote c.comm c.nth c.rank).seqSend c.comm c.rank o.causal (.written c.comm c.nth c.rank)

/-- A rank goes on after its issue (R209, R210; no line stands at a DST that is not canonical): it fails as the sequencers have
decided, or it writes its result, or it completes when the results of all ranks are written, so that no rank has completed when
another's DST faults (log 80). -/
def State.collFinish (s : State) (o : EngineOp) (c : CollOp) (cl : Coll) : State :=
  match cl.abort, c.wrote with
  | some (code, info), w =>
      let r := CollRec.ofNat (c.recd.getD 0)
      let dst := (r.dst.extractLsb' 0 53).toNat
      let s := if w.isSome || r.dst.extractLsb' 53 9 != 0 then s
        else s.collLose o (pieces dst (dstBytes c.ck r (s.commSize c.comm)))
      s.collFail o c.comm code 0 info
  | none, none => s.collWrite o c cl
  | none, some f => s.collDone o f c.comm

/-- The oldest COLL of its wave that has not issued. -/
def State.collNext (s : State) (o : EngineOp) : Bool :=
  (s.ops.find? (fun x => x.wave == o.wave && x.state == .going && (match x.kind with
    | .coll c => !c.issued
    | _ => false))).map EngineOp.name == some o.name

/-- A COLL can issue, or its outcome is decided. -/
def State.collReady (s : State) (op : Nat) : Bool :=
  match s.opAt op with
  | none => false
  | some o =>
      match o.kind, o.state with
      | .coll c, .going =>
          if c.issued then
            match s.collAt c.comm c.nth with
            | some cl => cl.abort.isSome ||
                (if c.wrote.isSome then s.commSize c.comm ≤ cl.wrote.length else s.collFull cl)
            | none => false
          else s.collNext o
      | _, _ => false

/-- COLL_COMPLETE (R209, R210): the rank issues; when every rank has, it writes its result; when all are written, or a fault is
decided, it completes. -/
def execCollComplete (op : Nat) (s : State) : Out :=
  let s := s.unfocus
  gate "COLL_COMPLETE" (s.collReady op) (
    match s.opAt op with
    | none => s
    | some o =>
        match o.kind with
        | .coll c =>
            if c.issued then
              match s.collAt c.comm c.nth with
              | some cl => s.collFinish o c cl
              | none => s
            else s.collIssue o c
        | _ => s)

/-- A rank of a cancelled group leaves its operation (R255): the other ranks get the collective-abort fault. -/
def State.collCancel (s : State) (o : EngineOp) (c : CollOp) : State :=
  let s := if c.issued then s else s.collIssue o c
  match s.opAt o.name with
  | none => s
  | some o =>
      match o.kind with
      | .coll c => if c.issued && o.state == .going then (s.collAbort o c).collFail o c.comm 0x070B 0 c.rank else s.failOp o 0x070B 0 0
      | _ => s

/-! ## The deadline (R210, R390, R391) -/

/-- COLL_DEADLINE (R210): the first rank's sequencer finds the deadline passed, and decides for all ranks. -/
def execCollDeadline (coll : Nat) (s : State) : Out :=
  let s := s.unfocus
  match s.colls.find? (fun c => c.name == coll) with
  | none => .refused (.notEnabled "COLL_DEADLINE")
  | some c =>
      gate "COLL_DEADLINE"
        (c.abort.isNone && s.collKeeper c && !(s.collMissing c).isEmpty && (match c.till with
          | some t => t ≤ s.time
          | none => false)) (s.collExpire c)

end Sys2Proof.Machine
end

