-- ==== Sys2Proof/Machine/Bins.lean ====
section
/-!
DEFINITION. Sys2Proof/Machine/Bins.lean: what the launcher does with graph runs (R245 to R256, R310 to R313): node records,
bins and batches, launches, node faults, the end of groups, and cancellation.
-/

namespace Sys2Proof.Machine

/-! ## Kernel descriptors (R73, R74) -/

/-- A kernel descriptor as the launcher uses it. -/
structure Kernel where
  waves    : Nat
  cluster  : Bool
  matrix   : Bool
  semCount : Nat
  blocks   : Nat
  entry    : Word
  spad     : Nat
  pealTab  : Nat
  pealNum  : Nat
deriving DecidableEq, Repr

/-- A global virtual address of a table: space 00, canonical. -/
def tableVa (a : Dword) : Option Nat := if a.extractLsb' 53 11 = 0 then some a.toNat else none

/-- Read bytes for the launcher, at the home of each line. -/
def State.launcherRead (s : State) (ctx : Nat) (a : Dword) (n : Nat) : State × Option (List Byte) :=
  match tableVa a with
  | none => (s, none)
  | some va =>
      let (s, r) := s.gread 0 none ctx va n
      (s, r.toOption)

/-- The descriptor in 64 bytes; `none` when it is refused: a reserved field, a wrong mark, or a value outside its field's
range (log 82). -/
def kernelOf (x : Nat) : Option Kernel :=
  let waves := bits x 127 120 + 1
  let cluster := bits x 113 113 == 1
  let spad := bits x 159 128
  if bits x 511 384 == 0 && bits x 191 176 == 0 && bits x 119 114 == 0 && bits x 104 100 == 0 && bits x 95 32 == 0 &&
      bits x 31 16 == 1 && bits x 15 0 == 0x474B && 1 ≤ bits x 99 96 && bits x 111 105 ≤ 64 && bits x 175 160 ≤ 64 &&
      waves ≤ (if cluster then 192 else 48) && spad % 4096 == 0 && spad ≤ 2 ^ 20 then
    some ⟨waves, cluster, bits x 112 112 == 1, bits x 111 105, bits x 99 96,
      BitVec.ofNat 32 (bits x 319 256 / 4 + bits x 223 192), spad, bits x 383 320, bits x 175 160⟩
  else none

/-- A peal table entry in 8 bytes; `none` for a reserved bit or a value outside its field's range (log 83). -/
def pealOf (x : Nat) : Option PealDecl :=
  if bits x 63 48 == 0 && bits x 15 0 == 0 && bits x 47 40 ≤ 63 && 1 ≤ bits x 39 32 && bits x 39 32 ≤ 16 &&
      1 ≤ bits x 31 16 && bits x 31 16 ≤ 256 then some ⟨bits x 47 40, bits x 39 32, bits x 31 16⟩
  else none

/-- Read the descriptor and the peal table of a kernel. The descriptor's alignment is not tested, and a value out of range
refuses it like a reserved field (log 82); so does a peal table that cannot be read or has a bad entry (log 83). -/
def State.readKernel (s : State) (ctx : Nat) (va : Dword) : State × Option (Kernel × List PealDecl) :=
  let (s, b) := s.launcherRead ctx va 64
  match b.bind (fun b => kernelOf (leNat b)) with
  | none => (s, none)
  | some k =>
      if k.pealNum = 0 then (s, some (k, []))
      else
        let (s, b) := s.launcherRead ctx (BitVec.ofNat 64 k.pealTab) (8 * k.pealNum)
        (s, b.bind (fun b =>
          ((List.range k.pealNum).mapM (fun j => pealOf (leNat ((b.drop (8 * j)).take 8)))).map (fun l => (k, l))))

/-! ## Node records and bin table entries (R245, R246, R310) -/

/-- A node record that cannot be read, with its bin table entry. -/
def NodeCopy.bad (base : Dword) (slots : Nat) : NodeCopy := ⟨0, 0, false, false, 0, 0, 0, 0, 0, 0, base, slots, false⟩

/-- The node record's own limits (R246). -/
def nodeOk (x : Nat) (ordered : Bool) : Bool :=
  bits x 67 64 == 0 && bits x 70 68 < 2 && bits x 127 108 ≤ 1000000 &&
    (if bits x 70 68 = 0 then bits x 91 80 == 0 && bits x 127 108 == 0 else bits x 107 92 == 0) &&
    !(bits x 72 72 == 1 && !ordered)

/-- The fields of a node record and its bin table entry. -/
def nodeOf (x seed : Nat) (base : Dword) (slots : Nat) (good : Bool) : NodeCopy :=
  ⟨BitVec.ofNat 64 (bits x 63 0), bits x 70 68, bits x 71 71 == 1, bits x 72 72 == 1, bits x 75 73, bits x 79 76,
   bits x 91 80, bits x 107 92, bits x 127 108, BitVec.ofNat 64 (if bits x 79 76 = 0 then 0 else seed), base, slots, good⟩

/-- A bin table entry: SLOT_BASE and BIN_SLOTS, 0 when it is unusable (R250, R310). -/
def entryOf (x stretch : Nat) : Dword × Nat :=
  let base := BitVec.ofNat 64 (bits x 63 0)
  let slots := bits x 95 64
  if bits x 127 96 == 0 && (tableVa base).isSome && base.toNat % 256 == 0 && slots % stretch == 0 then (base, slots)
  else (0, 0)

/-- Read a node record and its bin table entry, and check the record (R246). -/
def State.readNode (s : State) (r : Run) (node : Nat) : State × NodeCopy :=
  let (s, h) := s.launcherRead r.ctx (r.nodeTab + BitVec.ofNat 64 (256 * node)) 32
  let (s, e) := s.launcherRead r.ctx (r.binTab + BitVec.ofNat 64 (16 * node)) 16
  let entry (stretch : Nat) : Dword × Nat := match e with
    | some b => entryOf (leNat b) stretch
    | none => (0, 0)
  match h with
  | none =>
      let (base, slots) := entry 1
      (s, .bad base slots)
  | some b =>
      let x := leNat (b.take 16)
      let (base, slots) := entry (bits x 91 80 + 1)
      let (s, k) := s.readKernel r.ctx (BitVec.ofNat 64 (bits x 63 0))
      (s, nodeOf x (leNat ((b.drop 16).take 8)) base slots (nodeOk x (s.feature 1) && k.isSome))

/-! ## Runs and bins (R246, R247) -/

/-- Change a run. -/
def State.modRun (s : State) (n : Nat) (f : Run → Run) : State := { s with runs := mmod s.runs n f }

/-- Change a bin of a run. -/
def State.modBin (s : State) (run node : Nat) (f : Bin → Bin) : State :=
  s.modRun run (fun r => { r with bins := mmod r.bins node f })

/-- A bin of a run that has been used. -/
def State.binAt (s : State) (run node : Nat) : Option Bin := (mget s.runs run).bind (fun r => mget r.bins node)

/-- The bin of a node: its record and entry are read when it is first used (R246). -/
def State.openBin (s : State) (r : Run) (node : Nat) : State :=
  match mget r.bins node with
  | some _ => s
  | none =>
      let (s, c) := s.readNode r node
      s.modRun r.name (fun r => { r with bins := mset r.bins node ⟨some c, 0, [], none⟩ })

/-- The node record that a bin holds. -/
def Bin.node (b : Bin) : NodeCopy := b.copy.getD (.bad 0 0)

/-- The slot of a position. -/
def Bin.slot (b : Bin) (pos : Nat) : Nat := pos % 2 ^ 32 % max 1 b.node.slots

/-- The address of the slot of a position (R247). -/
def Bin.slotVa (b : Bin) (pos : Nat) : Dword := b.node.base + BitVec.ofNat 64 (256 * b.slot pos)

/-- A slot holds a record. -/
def Bin.busy (b : Bin) (slot : Nat) : Bool :=
  b.batches.any (fun x => (List.range x.count).any (fun j => b.slot (x.first + j) == slot))

/-- The bin has k free slots from its next position. -/
def Bin.free (b : Bin) (k : Nat) : Bool :=
  k ≤ b.node.slots && (List.range k).all (fun j => !b.busy (b.slot (b.next + j)))

/-- Records of a batch stretch, as read (R246). -/
def Bin.stretch (b : Bin) : Nat := b.node.coalesce + 1

/-- A record enters at the next position: it opens a batch or joins the open one, and closes a full stretch (R247). -/
def Bin.enter (b : Bin) (now len : Nat) (causal parent : Dword) : Bin :=
  let next := (b.next + 1) % 2 ^ 32
  match b.batches.getLast? with
  | some x =>
      if x.closed then
        { b with next := next, batches := b.batches ++ [⟨b.next, 1, b.stretch == 1, now, none, len, causal, [(causal, parent)]⟩] }
      else
        { b with
          next := next
          batches := b.batches.dropLast ++
            [{ x with count := x.count + 1, closed := x.count + 1 == b.stretch, placed := x.placed ++ [(causal, parent)] }] }
  | none => { b with next := next, batches := [⟨b.next, 1, b.stretch == 1, now, none, len, causal, [(causal, parent)]⟩] }

/-- Write BATCH into the header of the first record of a closed batch (R248). -/
def State.writeBatch (s : State) (r : Run) (b : Bin) (x : Batch) : State :=
  if x.count ≤ 1 then s
  else (s.gwrite x.causal none r.ctx ((b.slotVa x.first).toNat + 4) (leBytes 2 (x.count - 1)) false).1

/-- Place one record (R248, R375): LEN and payload from the source, CAUSAL from the launcher, its parent what places it. -/
def State.placeRecord (s : State) (run node : Nat) (parent : Dword) (rec_ : List Byte) : State :=
  match mget s.runs run with
  | none => s
  | some r =>
      match mget r.bins node with
      | none => s
      | some b =>
          let id := s.nextId unitLauncher
          let s := s.bumpId unitLauncher
          let bytes := rec_.take 4 ++ leBytes 4 0 ++ leBytes 8 id.toNat ++ rec_.drop 16
          let b' := b.enter s.time (rec_.length / 16) id parent
          let s := s.modBin run node (fun _ => b')
          let s := (s.gwrite id none r.ctx (b.slotVa b.next).toNat bytes false).1
          match b'.batches.getLast? with
          | some x => if x.closed then s.writeBatch r b' x else s
          | none => s

/-- A source record is acceptable: its reserved header bits are 0 (R248). -/
def recordOk (h : List Byte) : Bool := leNat (h.take 4) / 16 == 0

/-- Bytes of a record by its header: LEN + 1 units. -/
def recordLen (h : List Byte) : Nat := (leNat (h.take 1) % 16 + 1) * 16

/-- Read k records at a stride of 256 bytes with a reader of bytes at an offset; `none` when one cannot be read or has a
reserved bit set. -/
def State.readRecords (s : State) (get : State → Nat → Nat → State × Option (List Byte)) :
    List Nat → State × Option (List (List Byte))
  | [] => (s, some [])
  | j :: js =>
      let (s, h) := get s (256 * j) 16
      match h with
      | none => (s, none)
      | some h =>
          if !recordOk h then (s, none)
          else
            let (s, b) := get s (256 * j) (recordLen h)
            match b with
            | none => (s, none)
            | some b =>
                let (s, rest) := s.readRecords get js
                (s, rest.map (fun l => b :: l))

/-! ## Node faults (R256) -/

/-- The first 32 bytes of the record in a slot, as they stand; free bytes when they cannot be read. -/
def State.slotHead (s : State) (ctx : Nat) (va : Dword) : State × List Byte :=
  let (t, b) := s.launcherRead ctx va 32
  match b with
  | some b => (t, b)
  | none =>
      ({ t with oracle := t.oracle + 8 }, (List.range 8).flatMap (fun k => leBytes 4 (Config.freeWord (t.oracle + k)).toNat))

/-- A task record (R283, R284). -/
def State.taskRecord (s : State) (ctx : Nat) (code : Nat) (grp : Word) (causal parent : Dword) (node pos : Nat)
    (head : List Byte) : State :=
  s.faultWrite unitLauncher
    { kind := 2, ctx := ctx, part := s.partOf ctx, grp := grp, precise := false, parked := false, caught := false, slot := 0
      wave := 0, code := code, pc := 0, causal := causal, parent := parent, time := s.time
      hi := hiTask (leDword (head.take 8)) (leNat ((head.drop 16).take 16)) pos node }

/-- A refused ring entry or launch command (R309, R311). -/
def State.refuseEntry (s : State) (ctx : Nat) (causal parent : Dword) : State :=
  s.taskRecord ctx 0x0904 0xFFFFFFFF#32 causal parent 0xFFFF 0 []

/-- Freeze a bin with a record about the batch at fault (R256), or about the command when no record entered. -/
def State.freezeBin (s : State) (run node code pos : Nat) (grp : Word) (batch : Option Batch) : State :=
  match mget s.runs run with
  | none => s
  | some r =>
      let (s, head, causal) : State × List Byte × Dword := match batch, mget r.bins node with
        | some x, some b =>
            let (s, h) := s.slotHead r.ctx (b.slotVa x.first)
            (s, h, x.causal)
        | _, _ => (s, [], r.causal)
      let s := s.modBin run node (fun b => { b with frozen := some (causal, pos, s.time) })
      let s := s.taskRecord r.ctx code grp causal (s.parentOf causal) node pos head
      s.emitN (s.partOf r.ctx) unitLauncher 0x0206 causal (s.parentOf causal) node

/-! ## Queues and launches (R311 to R313) -/

/-- A launcher queue of a context. -/
def State.queueAt (s : State) (ctx q : Nat) : Option LQueue := (mget s.ctxs ctx).bind (fun c => mget c.lq q)

/-- Change a launcher queue. -/
def State.modQueue (s : State) (ctx q : Nat) (f : LQueue → LQueue) : State :=
  s.modCtx ctx (fun c => { c with lq := mmod c.lq q f })

/-- Change a launch. -/
def State.modLaunch (s : State) (n : Nat) (f : Launch → Launch) : State := { s with launches := mmod s.launches n f }

/-- The launches of a queue, in order; `none` is one that has retired after a launch that has not. -/
def State.queuePlaces (s : State) (ctx q : Nat) : List (Option Launch) :=
  match s.queueAt ctx q with
  | none => []
  | some l => l.launches.map (fun n => mget s.launches n)

/-- The launches of a queue that have not retired, in order. -/
def State.queueLaunches (s : State) (ctx q : Nat) : List Launch := (s.queuePlaces ctx q).filterMap id

/-- The live runs of a queue, the run whose command came first in front. -/
def State.queueRuns (s : State) (ctx q : Nat) : List Run :=
  let rs := (s.runs.map Prod.snd).filter (fun r => r.ctx == ctx && r.queue == q)
  rs.foldl (fun l r => l.takeWhile (fun x => x.order < r.order) ++ r :: l.dropWhile (fun x => x.order < r.order)) []

/-- The launch of a batch of a bin stands held. -/
def State.heldLaunch (s : State) (run node : Nat) : Option Launch :=
  (s.launches.map Prod.snd).find? (fun l => l.run == run && l.node == node && l.held)

/-- The lowest closed batch of a bin without a launch, if the bin may form one: it is not frozen, or its node record was
refused and no launch of it is held yet (R256, R311). -/
def State.batchDue (s : State) (run node : Nat) (b : Bin) : Option Batch :=
  if b.frozen.isSome && (b.node.good || (s.heldLaunch run node).isSome) then none
  else b.batches.find? (fun x => x.closed && x.launch.isNone)

/-- Of two nodes with a batch the one to dispatch: higher PRIORITY, then the lower number. -/
def nodeFirst (a b : Nat × Bin × Batch) : Nat × Bin × Batch :=
  if a.2.1.node.prio < b.2.1.node.prio then b else a

/-- The batch of a run that is dispatched next (R312). -/
def State.runBatch (s : State) (r : Run) : Option (Nat × Bin × Batch) :=
  match r.bins.filterMap (fun p => (s.batchDue r.name p.1 p.2).map (fun x => (p.1, p.2, x))) with
  | [] => none
  | x :: xs => some (xs.foldl nodeFirst x)

/-- Group ids that a launch of a node reserves (R311). -/
def NodeCopy.ids (c : NodeCopy) : Nat := if c.kind = 0 then c.fanout + 1 else 1

/-- A run belongs to a serial re-execution. -/
def State.runSerial (s : State) (run : Nat) : Bool := ((mget s.runs run).map Run.serial).getD false

/-- Only a serial re-execution's groups are dispatched for a context (R303, step 1). -/
def State.serialOnly (s : State) (ctx : Nat) : Bool := ((mget s.ctxs ctx).map Ctx.stopped).getD true

/-- Form the next launch of a queue when no launch of it has groups still to dispatch (R312). After a split digest, only the
re-execution forms launches. -/
def State.formLaunch (s : State) (ctx q : Nat) : State :=
  let only := s.serialOnly ctx
  let mine (run : Nat) : Bool := !only || s.runSerial run
  if (s.queueLaunches ctx q).any (fun l => mine l.run && l.started < l.groups) then s
  else match ((s.queueRuns ctx q).filter (fun r => mine r.name)).findSome? (fun r =>
      (s.runBatch r).map (fun x => (r, x))) with
    | none => s
    | some (r, node, b, x) =>
        let c := b.node
        let n := s.names
        let l : Launch :=
          { name := n, lid := r.cmd.launchBase + BitVec.ofNat 32 r.formed, run := r.name, ctx := ctx, queue := q, node := node
            batch := x.first, gbase := r.nextGid, groups := c.ids, started := 0, live := c.ids
            tail := c.tail || (r.formed == 0 && r.cmd.tail), held := !c.good, restore := [] }
        let s := { s.fresh with launches := mset s.launches n l }
        let s := s.modQueue ctx q (fun lq => { lq with launches := lq.launches ++ [n] })
        let s := s.modRun r.name (fun r => { r with formed := r.formed + 1, nextGid := r.nextGid + BitVec.ofNat 32 c.ids })
        let s := s.modBin r.name node (fun b => { b with
          batches := lmod (fun y => y.first == x.first) (fun y => { y with launch := some n }) b.batches })
        if !c.good && b.frozen.isNone then s.freezeBin r.name node 0x0901 x.first 0xFFFFFFFF#32 (some x) else s

/-- Form launches in every queue of a context where one is due. -/
def State.formAll (s : State) (ctx : Nat) : State :=
  match mget s.ctxs ctx with
  | none => s
  | some c => (c.lq.map Prod.fst).foldl (fun s q => s.formLaunch ctx q) s

/-- Push records into a bin (R247, R250): the position of the first, or `none` when the bin has no room. A node record
refused under R246 freezes the bin with the given position, or with the record's own. `parent` is the placing instruction's
or entry's identifier, and `up` its parent. -/
def State.pushRecords (s : State) (run node : Nat) (recs : List (List Byte)) (parent up : Dword) (cmd : Option Nat) :
    State × Option Nat :=
  match s.binAt run node with
  | none => (s, none)
  | some b =>
      if !b.free recs.length then (s, none)
      else
        let first := b.next
        let fresh := b.batches.isEmpty && b.next == 0 && b.frozen.isNone
        let s := recs.foldl (fun s r => s.placeRecord run node parent r) s
        let ctx := ((mget s.runs run).map Run.ctx).getD 0
        let s := s.emitN (s.partOf ctx) unitLauncher 0x0205 parent up (node + (recs.length - 1) * 2 ^ 16)
        let s := if fresh && !b.node.good then
            s.freezeBin run node 0x0901 (cmd.getD first) 0xFFFFFFFF#32 ((s.binAt run node).bind (fun b => b.batches.head?))
          else s
        (match mget s.runs run with
         | some r => s.formLaunch r.ctx r.queue
         | none => s, some first)

/-- The slots into which k records would go can be written. -/
def State.binWritable (s : State) (r : Run) (b : Bin) (recs : List (List Byte)) : Bool :=
  (List.zip (List.range recs.length) recs).all (fun p => s.writable r.ctx (b.slotVa (b.next + p.1)).toNat p.2.length)

/-! ## Completion (R254) -/

/-- Records of a batch that count as not yet dispatched. -/
def State.waitingRecords (s : State) (x : Batch) : Nat :=
  match x.launch with
  | none => x.count
  | some n => match mget s.launches n with
    | some l => if l.held && l.started == 0 then x.count else 0
    | none => 0

/-- The graph counter of a run: records not yet dispatched and groups not yet retired. -/
def State.graphCount (s : State) (r : Run) : Nat :=
  (r.bins.map (fun p => (p.2.batches.map s.waitingRecords).sum)).sum +
    ((s.launches.map Prod.snd).map (fun l => if l.run == r.name && !(l.held && l.started == 0) then l.live else 0)).sum

/-- A run is complete: its command has been consumed, nothing remains and no bin is frozen. -/
def State.runOver (s : State) (r : Run) : Bool :=
  r.placed && s.graphCount r == 0 && r.bins.all (fun p => p.2.frozen.isNone) &&
    !(s.launches.any (fun p => p.2.run == r.name))

/-- End a run that is complete, with its notification (R254, R308, R371). -/
def State.checkRun (s : State) (run : Nat) : State :=
  match mget s.runs run with
  | none => s
  | some r =>
      if s.runOver r then
        let s := { s with runs := mdel s.runs run }
        if r.cmd.notify then s.notify r.ctx 1 r.number.toNat r.causal else s
      else s

/-- A launch whose groups have all retired, and which no frozen bin holds, leaves its queue, and its batch's slots are
free again (R247, R313). -/
def State.checkLaunch (s : State) (n : Nat) : State :=
  match mget s.launches n with
  | none => s
  | some l =>
      let s := if l.live = 0 && !l.held then
          let s := { s with launches := mdel s.launches n }
          let s := s.modQueue l.ctx l.queue (fun q => { q with
            launches := q.launches.dropWhile (fun m => (mget s.launches m).isNone) })
          s.modBin l.run l.node (fun b => { b with batches := b.batches.filter (fun x => x.launch != some n) })
        else s
      (s.formLaunch l.ctx l.queue).checkRun l.run

/-- Groups of a launch count as retired. -/
def State.groupsGone (s : State) (launch k : Nat) : State :=
  (s.modLaunch launch (fun l => { l with live := l.live - k })).checkLaunch launch

/-! ## The end of a group (R127, R301, R317) -/

/-- The launcher adds a group's digest to the phase's log, in one step at the home channel (R301). A group of a re-execution that
is over adds nothing (log 48). An index that no CHIMEMARK set is clipped under the group's start (log 81). -/
def State.chimeLog (s : State) (g : Group) : State :=
  match mget s.ctxs g.ctx with
  | none => s
  | some c =>
      if c.logLen = 0 || (s.runSerial g.run && c.replay.isNone) then s
      else
        let i := (g.chime.getD g.gid).toNat
        let va := (c.logBase.extractLsb' 0 53).toNat + 16 * min i (c.logLen - 1)
        let add (b : List Byte) : List Byte :=
          leBytes 8 (leNat (b.take 8) + g.digest.toNat) ++ leBytes 4 (leNat ((b.drop 8).take 4) + 1) ++ b.drop 12
        let (s, x) := s.chanLine g.start g.ctx (va / 128) .rmw
        let s := match x with
          | .ok x => s.chanPut x (va % 128) (add ((x.data.drop (va % 128)).take 16))
          | .error _ => s
        if i ≤ c.logLen - 1 then s
        else if g.chime.isSome then s.emitN g.part unitLauncher 0x0207 g.chimeId g.start i
        else s.emitN g.part unitLauncher 0x0207 g.start g.parent i

/-- A granule of a group's scratchpads. -/
def Group.holds (g : Group) (a : Nat) : Bool :=
  g.onCore (a / 2 ^ 20) && g.spadBase ≤ a % 2 ^ 20 && a % 2 ^ 20 < g.spadBase + g.spadSize

/-- A group leaves its cores: its waves, its barriers' tracking and watches, its semaphores and its place go. A stream at a
chain input of its cores is dropped (R226). -/
def State.leaveCores (s : State) (g : Group) : State :=
  let s := g.cores.foldl (fun s c => match (s.core c).chainIn with
    | some x => if g.matrix then (s.chainDrop c x).modCore c (fun y => { y with chainIn := none }) else s
    | none => s) s
  let s := { s with
    waves := s.waves.filter (fun p => p.2.group != g.name)
    tracks := s.tracks.filter (fun t => !g.holds t.addr)
    watches := s.watches.filter (fun w => !(w.kind == 1 && g.holds w.subject)) }
  g.cores.foldl (fun s c => s.modCore c (fun x =>
    { x with sems := x.sems.filter (fun p => !(g.semBase ≤ p.1 && p.1 < g.semBase + g.semCount)) })) s

/-- A group retires, or is removed (R317): every resource returns and the launch counts it (R254). -/
def State.retireGroup (s : State) (n : Nat) : State :=
  match mget s.groups n with
  | none => s
  | some g =>
      let s := s.endEnrols n
      let s := (s.leaveCores g).freeRoom g
      let s := { s with groups := mdel s.groups n }
      let s := s.chimeLog g
      let s := s.emitN g.part unitLauncher 0x0202 g.start g.parent g.gid.toNat
      s.groupsGone g.launch 1

/-! ## Ending groups early (R252, R255, R298) -/

/-- A wave that issues nothing further: no lane is live, and nothing is waited for. -/
def Wave.ended (w : Wave) : Wave :=
  { w with
    life := if w.life == .done then .done else .stopped
    live := 0, halted := false, top := .off, cur := 0, resv := Vector.replicate 64 none
    slot0 := { w.slot0 with valid := false, park := .no, stall := .no, mask := 0, level := 0 }
    slot1 := { w.slot1 with valid := false, park := .no, stall := .no, mask := 0, level := 0 } }

/-- A wave that its group's end leaves with operations in flight begins to wait for them (R127, R257; log 71). -/
def State.lingerFrom (s : State) (wave : Nat) : State :=
  match s.waveAt wave with
  | none => s
  | some w =>
      if w.lingers then
        let unit := unitCore w.core 0
        (s.modWave wave (fun w => w.setSlotAt w.cur { w.slotAt w.cur with since := s.time, waitId := s.nextId unit })).bumpId unit
      else s

/-- Every wave of a group stops, and its waits are removed. -/
def State.stopWaves (s : State) (group : Nat) : State :=
  (s.groupWaves group).foldl (fun s w =>
    (((s.dropWaiter w.name 0).dropWaiter w.name 1).modWave w.name Wave.ended).lingerFrom w.name) s

/-- What CANCEL does with an engine operation already issued (R255): copies, gathers and scatters stop; a parked atomic
fails; a collective aborts; a chime check ends without a result. -/
def State.cancelOp (s : State) (o : EngineOp) : State :=
  let stop (s : State) : State := (s.modOp o.name (fun x => { x with state := .done })).settleOp o
  match o.kind, o.state with
  | _, .done | _, .failed _ _ _ => s
  | .copy c, _ =>
      if c.allDone then s
      else stop (match o.bar with
        | some b => s.barFault b
        | none => s)
  | .gather _, _ => stop s
  | .gatom _, .parked p | .gchunk _, .parked p =>
      (s.modOp o.name (fun x => { x with state := .failed 0x0701 p 0 })).settleOp o
  | .coll c, _ => s.collCancel o c
  | .chime _, _ =>
      let s := s.modCtx (s.opCtx o) (fun c => match c.replay with
        | some (n, _) => if n = o.name then { c with replay := none, serial := false, stopped := false } else c
        | none => c)
      (s.modOp o.name (fun x => { x with state := .failed 0 0 0 })).settleOp o
  | _, _ => s

/-- End a group as CANCEL ends it (R255, R282, R298): no unwinding; a saved group's image is freed. -/
def State.cancelGroup (s : State) (n : Nat) : State :=
  match mget s.groups n with
  | none => s
  | some g =>
      match g.state with
      | .cancelled => s
      | .saved => s.retireGroup n
      | _ =>
          let s := s.endEnrols n
          let s := (s.stopWaves n).freeRoom g
          let s := s.modGroup n (fun g => { g with state := .cancelled, trapped := [], current := [] })
          let s := (s.groupWaves n).foldl (fun s w => s.modWave w.name (fun w => { w with traps := [] })) s
          let s := (s.ops.filter (fun o => o.group == n)).foldl State.cancelOp s
          (s.groupWaves n).foldl (fun s w => s.popFrames w.name) s

/-- Cancel a launch (R255): its groups that run are ended, the others count as retired, and no bin holds it. -/
def State.cancelLaunch (s : State) (n : Nat) : State :=
  let s := s.modLaunch n (fun l => { l with
    started := l.groups, live := l.live - (l.groups - l.started), held := false, restore := [] })
  let gs := (s.groups.map Prod.snd).filter (fun g => g.launch == n)
  (gs.foldl (fun s g => s.cancelGroup g.name) s).checkLaunch n

/-- Cancel a run (R255): its records in bins are discarded, its bins thawed, its launches cancelled. -/
def State.cancelRun (s : State) (n : Nat) : State :=
  let s := s.modRun n (fun r => { r with
    placed := true
    bins := r.bins.map (fun p => (p.1, { p.2 with
      frozen := none, batches := p.2.batches.filter (fun x => x.launch.isSome) })) })
  let ls := (s.launches.map Prod.snd).filter (fun l => l.run == n)
  (ls.foldl (fun s l => s.cancelLaunch l.name) s).checkRun n

end Sys2Proof.Machine
end

