-- ==== Sys2Proof/Machine/Tasks.lean ====
section
/-!
DEFINITION. Sys2Proof/Machine/Tasks.lean: the task instructions ENQ, ENQN, LAUNCH, TASKEND, SETPRI, CNTRD and CANCEL (R250 to
R255), and the consumption of a launch command (LAUNCH_GRAPH, R310, R311).
-/

namespace Sys2Proof.Machine

/-! ## Records of ENQ, ENQN and LAUNCH (R187) -/

/-- A record address in the form and alignment of R187. -/
def recordAddrOk (a : Dword) : Bool :=
  a.toNat % 16 == 0 &&
    (match recAt a with
     | .bad => false
     | .global => (tableVa a).isSome
     | .spad _ => true)

/-- Read n bytes at an offset from a record address, for the group in focus. -/
def State.recordGet (a : Dword) (s : State) (off n : Nat) : State × Option (List Byte) :=
  match recAt a with
  | .bad => (s, none)
  | .global => s.launcherRead s.grp.ctx (a + BitVec.ofNat 64 off) n
  | .spad x =>
      match s.spadResolve none (x + BitVec.ofNat 32 off) n with
      | some p => (s, some (s.spadGet p n))
      | none => (s, none)

/-- The task-state trap. -/
def taskState (bad : Bool) : Option Raise := if bad then some { code := 0x0403 } else none

/-! ## ENQ and ENQN (R250) -/

/-- The node of SB. -/
def enqNode (b : Word) : Nat := b.toNat % 2 ^ 16
/-- The record count of SB. -/
def enqCount (b : Word) : Nat := bits b.toNat 27 16 + 1

/-- What an ENQ finds: the records and the bin, or a task-state trap (`some` when only the bin table entry is at fault). Slots of the
bin that cannot be written are such a trap, with nothing pushed (log 96). -/
def State.enqTry (s : State) (many : Bool) (a : Dword) (b : Word) : State × Except (Option Run) (Run × List (List Byte)) :=
  match mget s.runs s.grp.run with
  | none => (s, .error none)
  | some r =>
      if bits b.toNat 31 28 ≠ 0 || (!many && enqCount b != 1) || r.nodes ≤ enqNode b || !recordAddrOk a then (s, .error none)
      else
        let (s, recs) := s.readRecords (State.recordGet a) (List.range (enqCount b))
        match recs with
        | none => (s, .error none)
        | some recs =>
            let s := s.openBin r (enqNode b)
            match s.binAt r.name (enqNode b) with
            | none => (s, .error none)
            | some bin =>
                if bin.node.slots = 0 then (s, .error (some r))
                else if bin.free recs.length && !s.binWritable r bin recs then (s, .error none)
                else (s, .ok (r, recs))

/-- Perform an ENQ that raises nothing: SD is the position, or all ones for a full bin, of which the run keeps the copy that it has
read (log 97). -/
def State.enqDo (s : State) (i : Instr) (many : Bool) (d : SReg) (a : Dword) (b : Word) : State :=
  let id := s.nextId s.issueUnit
  let s := (s.bumpId s.issueUnit).release .rel .device
  let (s, x) := s.enqTry many a b
  match x with
  | .error _ => s.nextPc i
  | .ok (r, recs) =>
      let wave := s.wave.name
      let (t, pos) := s.unfocus.pushRecords r.name (enqNode b) recs id s.grp.start none
      ((t.focus wave).sset d (BitVec.ofNat 32 (pos.getD 0xFFFFFFFF))).nextPc i

/-- Issue an ENQ or ENQN. An unusable bin table entry traps here and at every later ENQ to the node in the run. -/
def State.enq (s : State) (i : Instr) (many : Bool) (d : SReg) (a : SPair) (b : SSrc) : State :=
  let find (s : State) := s.enqTry many (s.pget a) (s.ssrc b)
  match s.check i (fun _ => none) (fun s => taskState (find s).2.toOption.isNone) [] with
  | .wait w => s.stallOn w
  | .trap r =>
      let s := match (find s).2 with
        | .error (some run) => if r.code = 0x0403 then s.openBin run (enqNode (s.ssrc b)) else s
        | _ => s
      s.raise i.words r
  | .go => s.tick.enqDo i many d (s.pget a) (s.ssrc b)

/-- ENQ (R250). -/
def execEnq (d : SReg) (a : SPair) (b : SSrc) (s : State) : Out := .next (s.enq (.enq d a b) false d a b)
/-- ENQN (R250). -/
def execEnqn (d : SReg) (a : SPair) (b : SSrc) (s : State) : Out := .next (s.enq (.enqn d a b) true d a b)

/-! ## Graph runs (R309 to R311) -/

/-- The next graph run number of a context: 0, 0xFFFFFFFE and 0xFFFFFFFF and numbers of live runs are skipped (R311). -/
def State.runNumber (s : State) (ctx : Nat) : Nat → Word → Word
  | 0, n => n
  | f + 1, n =>
      let used := s.runs.any (fun p => p.2.ctx == ctx && p.2.number == n)
      if n = 0 || 0xFFFFFFFD < n.toNat || used then
        s.runNumber ctx f (if 0xFFFFFFFD ≤ n.toNat then 1 else n + 1)
      else n

/-- Take the next graph run number. -/
def State.takeNumber (s : State) (ctx : Nat) : State × Word :=
  let n := s.runNumber ctx (s.runs.length + 4) (((mget s.ctxs ctx).map Ctx.nextRun).getD 1)
  (s.modCtx ctx (fun c => { c with nextRun := n + 1 }), n)

/-- A run as its command makes it. -/
def newRun (name : Nat) (number : Word) (ctx queue : Nat) (phase : Word) (cmd : LaunchCmd) (causal : Dword)
    (pos seq : Nat) (serial : Bool) (parent : Dword) : Run :=
  { name := name, number := number, ctx := ctx, queue := queue, phase := phase, graph := cmd.graph, nodeTab := 0, binTab := 0
    nodes := 0, cmd := cmd, causal := causal, bins := [], formed := 0, nextGid := cmd.groupBase, order := name
    placed := false, pos := pos, seq := seq, serial := serial, parent := parent }

/-- The phase of a run that is placed now: the next one while a phase is being re-executed, whose runs are all over (R303). -/
def State.phaseNow (s : State) (ctx : Nat) : Word :=
  match mget s.ctxs ctx with
  | none => 0
  | some c => if c.stopped then c.phase + 1 else c.phase

/-- Runs of a queue not yet complete (R311). -/
def State.queueFull (s : State) (ctx q : Nat) : Bool := 64 ≤ (s.queueRuns ctx q).length

/-- The 64 bytes of a launch command (R308, R309). -/
def cmdBytes (c : LaunchCmd) (seq : Nat) : List Byte :=
  leBytes 64 (seq % 2 ^ 16 + 2 ^ 16 + b2n c.tail * 2 ^ 24 + b2n c.notify * 2 ^ 25 + c.graph.toNat * 2 ^ 32 +
    c.recAddr.toNat * 2 ^ 96 + c.entryNode * 2 ^ 160 + c.recCount * 2 ^ 176 + c.launchBase.toNat * 2 ^ 192 +
    c.groupBase.toNat * 2 ^ 224)

/-- A launch command read from 64 bytes; `none` when it is refused: another opcode, or an unused bit set (R309). -/
def cmdOf (x : Nat) : Option LaunchCmd :=
  if bits x 23 16 == 1 && bits x 31 26 == 0 && bits x 191 188 == 0 && bits x 511 256 == 0 then
    some ⟨BitVec.ofNat 64 (bits x 95 32), BitVec.ofNat 64 (bits x 159 96), bits x 175 160, bits x 187 176,
      BitVec.ofNat 32 (bits x 223 192), BitVec.ofNat 32 (bits x 255 224), bits x 25 25 == 1, bits x 24 24 == 1⟩
  else none

/-- Copy a run's launch command into the phase's next command slot; beyond CMD_MAX, or where it cannot be written, it is
lost (R301). A serial re-execution copies nothing, and a run of the phase to come is copied when that opens. -/
def State.copyCommand (s : State) (r : Run) : State :=
  match mget s.ctxs r.ctx with
  | none => s
  | some c =>
      let lost (s : State) : State := s.modCtx r.ctx (fun c => { c with replayLost := true })
      if r.serial || r.phase != c.phase then s
      else if c.cmdMax ≤ c.cmdCount then lost s
      else
        let va := (c.logBase.extractLsb' 0 53).toNat + 16 * c.logLen + 64 * c.cmdCount
        let (s, w) := s.gwrite r.causal none r.ctx va (cmdBytes r.cmd r.seq) false
        match w with
        | .ok () => s.modCtx r.ctx (fun c => { c with cmdCount := c.cmdCount + 1, cmdQueues := c.cmdQueues ++ [(r.name, r.queue)] })
        | .error _ => lost s

/-- The graph descriptor of a command: NODES + 1, BIN_TABLE and NODE_TABLE; `none` refuses the command (R310, R311). -/
def State.graphOf (s : State) (ctx : Nat) (cmd : LaunchCmd) : State × Option (Nat × Dword × Dword) :=
  let (s, b) := s.launcherRead ctx cmd.graph 64
  (s, b.bind (fun b =>
    let x := leNat b
    let nodes := bits x 143 128 + 1
    if bits x 511 144 == 0 && cmd.entryNode < nodes then
      some (nodes, BitVec.ofNat 64 (bits x 127 64), BitVec.ofNat 64 (bits x 63 0))
    else none))

/-- Place the initial records of a run (R311, step 3): a failure freezes ENTRY_NODE's bin with the command's position. -/
def State.placeInitial (s : State) (r : Run) : State :=
  let node := r.cmd.entryNode
  let s := s.openBin r node
  let fault (s : State) : State := s.freezeBin r.name node 0x0902 r.pos 0xFFFFFFFF#32 none
  match s.binAt r.name node with
  | none => s
  | some b =>
      if b.node.slots = 0 || !recordAddrOk r.cmd.recAddr then fault s
      else
        let get (s : State) (off n : Nat) := s.launcherRead r.ctx (r.cmd.recAddr + BitVec.ofNat 64 off) n
        let (s, recs) := s.readRecords get (List.range (r.cmd.recCount + 1))
        match recs with
        | none => fault s
        | some recs =>
            if !b.free recs.length || !s.binWritable r b recs then fault s
            else (s.pushRecords r.name node recs r.causal r.parent (some r.pos)).1

/-- Consume the command of a run (R311, steps 1 to 3). -/
def State.placeRun (s : State) (r : Run) (nodes : Nat) (bins tab : Dword) : State :=
  let r := { r with placed := true, nodes := nodes, binTab := bins, nodeTab := tab }
  let s := { s with runs := mset s.runs r.name r }
  ((s.copyCommand r).placeInitial r).checkRun r.name

/-- A live run of the context uses the graph descriptor (R310). -/
def State.graphBusy (s : State) (ctx : Nat) (graph : Dword) (but : Nat) : Bool :=
  s.runs.any (fun p => p.2.ctx == ctx && p.2.graph == graph && p.2.placed && p.2.name != but)

/-- The run of a LAUNCH that stands at the head of its queue with its command not yet consumed. -/
def State.pendingRun (s : State) (src : RingSrc) : Option Run :=
  match (s.queueRuns src.ctx src.queue).find? (fun r => !r.placed) with
  | some r => if r.causal = src.causal then some r else none
  | none => none

/-- A partition's rings are consumed: it is live and no reset of it runs (R402). -/
def State.ringsRun (s : State) (part : Nat) : Bool :=
  match mget s.parts part with
  | some p => p.resetting.isNone
  | none => false

/-- The command at the head of a ring, to be acted on; none while the context is being destroyed or its partition reset. -/
def State.ringHead (s : State) (ctx q : Nat) : Option Instr :=
  match mget s.ctxs ctx with
  | none => none
  | some c => if !s.ringsRun c.part || c.ending then none else (mget c.rings q).bind Ring.ready

/-- The HEAD of a ring. -/
def State.ringPos (s : State) (ctx q : Nat) : Nat :=
  (((mget s.ctxs ctx).bind (fun c => mget c.rings q)).map (fun r => r.head.toNat)).getD 0

/-- Advance HEAD past a consumed entry, with a release at `.system` (R307, R308). -/
def State.ringDone (s : State) (ctx q : Nat) : State :=
  match (mget s.ctxs ctx).bind (fun c => mget c.rings q) with
  | none => s
  | some r =>
      let s := s.applyNotices.modCtx ctx (fun c =>
        { c with rings := mset c.rings q { r with head := r.head + 1, ready := none } })
      (s.gwrite 0 none ctx ((r.block.extractLsb' 0 53).toNat + 16) (leBytes 4 (r.head.toNat + 1)) false).1

/-- A launch command can be consumed now: no live run uses its descriptor, and a ring entry's queue has room. -/
def State.launchReady (s : State) (src : RingSrc) (cmd : LaunchCmd) : Bool :=
  match s.pendingRun src with
  | some r => r.cmd == cmd && !s.graphBusy src.ctx cmd.graph r.name
  | none =>
      s.ringHead src.ctx src.queue == some (.launchGraph src cmd) && !s.queueFull src.ctx src.queue &&
        !s.graphBusy src.ctx cmd.graph 0

/-- LAUNCH_GRAPH (R311): the launcher consumes a launch command, of a ring entry or of a LAUNCH. A LAUNCH's refused command
leaves a run that completes at once, with no work. -/
def execLaunchGraph (src : RingSrc) (cmd : LaunchCmd) (s : State) : Out :=
  let s := s.unfocus
  gate "LAUNCH_GRAPH" (s.launchReady src cmd) (
    match s.pendingRun src with
    | some r =>
        let (s, g) := s.graphOf src.ctx cmd
        match g with
        | none =>
            let s := s.refuseEntry src.ctx src.causal r.parent
            (s.modRun r.name (fun r => { r with placed := true })).checkRun r.name
        | some (nodes, bins, tab) => s.placeRun r nodes bins tab
    | none =>
        let (s, g) := s.graphOf src.ctx cmd
        let s := match g with
          | none => s.refuseEntry src.ctx src.causal 0
          | some (nodes, bins, tab) =>
              let (s, num) := s.takeNumber src.ctx
              let pos := s.ringPos src.ctx src.queue
              let r := newRun s.names num src.ctx src.queue (s.phaseNow src.ctx) cmd src.causal pos (pos % 2 ^ 16) false 0
              s.fresh.placeRun r nodes bins tab
        s.ringDone src.ctx src.queue)

/-! ## LAUNCH (R251) -/

/-- The context of the group in focus owns a launcher queue. -/
def State.ownsQueue (s : State) (q : Word) : Bool := q.toNat < 16 && (s.queueAt s.grp.ctx q.toNat).isSome

/-- The task-state trap of LAUNCH. -/
def State.launchRaise (s : State) (a : Dword) (b : Word) : Option Raise :=
  taskState (!s.ownsQueue b || !recordAddrOk a ||
    (!s.queueFull s.grp.ctx b.toNat && ((s.recordGet a 0 64).2).isNone))

/-- Perform a LAUNCH that raises nothing: the command is copied and waits for the launcher. -/
def State.launchDo (s : State) (a : Dword) (b : Word) : State × Word :=
  let ctx := s.grp.ctx
  let id := s.nextId s.issueUnit
  let s := (s.bumpId s.issueUnit).release .rel .device
  if s.queueFull ctx b.toNat then (s, 0xFFFFFFFF#32)
  else
    let (s, bytes) := s.recordGet a 0 64
    let x := leNat (bytes.getD [])
    match cmdOf x with
    | none => (s.device (fun d => d.refuseEntry ctx id s.grp.start), 0xFFFFFFFE#32)
    | some cmd =>
        let (s, num) := s.takeNumber ctx
        let pos := (Config.freeWord s.oracle).toNat
        let r := newRun s.names num ctx b.toNat (s.phaseNow ctx) cmd id pos (bits x 15 0) false s.grp.start
        ({ s.fresh with runs := mset s.runs r.name r, oracle := s.oracle + 1 }, num)

/-- LAUNCH (R251). -/
def execLaunch (d : SReg) (a : SPair) (b : SSrc) (s : State) : Out :=
  .next (s.issueWith (.launch d a b) (fun _ => none) (fun s => s.launchRaise (s.pget a) (s.ssrc b)) [] (fun s =>
    let (s, x) := s.launchDo (s.pget a) (s.ssrc b)
    (s.sset d x).nextPc (.launch d a b)))

/-! ## TASKEND (R252) and SETPRI (R253) -/

/-- End a group's task: every wave stops and retires when its counters reach zero. A drain that has been asked for goes
on. -/
def State.endTask (s : State) (g : Nat) : State :=
  ((s.endEnrols g).stopWaves g).modGroup g (fun g => { g with state := if g.state == .running then .ending else g.state })

/-- TASKEND (R252). -/
def execTaskend (s : State) : Out :=
  .next (s.issueWith .taskend (fun _ => none) (fun _ => none) [] (fun s =>
    (s.nextPc .taskend).device (fun d => d.endTask s.grp.name)))

/-- SETPRI (R253): a value above the cap is taken as the cap; levels gained by aging stay (R314). -/
def execSetpri (d : SReg) (a b : SSrc) (s : State) : Out :=
  .next (s.issueWith (.setpri d a b) (fun _ => none) (fun s => taskState (!s.ownsQueue (s.ssrc a))) [] (fun s =>
    let q := (s.ssrc a).toNat
    let v := min ((s.ssrc b).toNat % 8) (s.ctxNat Ctx.prioCap)
    let old := ((s.queueAt s.grp.ctx q).map LQueue.prio).getD 0
    let s := s.modQueue s.grp.ctx q (fun l => { l with prio := v, eff := min 7 (max v (l.eff - old + v)) })
    (s.sset d (BitVec.ofNat 32 old)).nextPc (.setpri d a b)))

/-! ## CNTRD and CANCEL (R254, R255) -/

/-- A unit of work of a context. -/
inductive Work where
  | launch (id : Word)
  | graph (n : Word)
  | phase (n : Word)
  | job
deriving DecidableEq, Repr

/-- The unit that an instruction names. -/
def State.workOf (s : State) : WorkUnit → Work
  | .launch b => .launch (s.ssrc b)
  | .graph b => .graph (s.ssrc b)
  | .phase b => .phase (s.ssrc b)
  | .job => .job

/-- The launches that a launch id names in a context. -/
def State.launchesOf (s : State) (ctx : Nat) (id : Word) : List Launch :=
  (s.launches.map Prod.snd).filter (fun l => l.ctx == ctx && l.lid == id)

/-- The live runs of a context that a unit covers. -/
def State.runsOf (s : State) (ctx : Nat) : Work → List Run
  | .launch _ => []
  | .graph n => (s.runs.map Prod.snd).filter (fun r => r.ctx == ctx && r.number == n)
  | .phase n => (s.runs.map Prod.snd).filter (fun r => r.ctx == ctx && r.phase == n)
  | .job => (s.runs.map Prod.snd).filter (fun r => r.ctx == ctx)

/-- The completion counter of a unit (R254); 0 when it names no live one. -/
def State.counter (s : State) (ctx : Nat) (u : Work) : Nat :=
  min 0xFFFFFFFF (match u with
    | .launch id => ((s.launchesOf ctx id).map Launch.live).sum
    | .graph _ => ((s.runsOf ctx u).map s.graphCount).sum
    | _ => (s.runsOf ctx u).length)

/-- CNTRD (R255). -/
def execCntrd (d : SReg) (u : WorkUnit) (s : State) : Out :=
  .next (s.issue (.cntrd d u) (fun s => s.sset d (BitVec.ofNat 32 (s.counter s.grp.ctx (s.workOf u)))))

/-- Cancel a unit of a context (R255). -/
def State.cancelWork (s : State) (ctx : Nat) (u : Work) : State :=
  match u with
  | .launch id => (s.launchesOf ctx id).foldl (fun s l => s.cancelLaunch l.name) s
  | u => (s.runsOf ctx u).foldl (fun s r => s.cancelRun r.name) s

/-- CANCEL (R255): the last instruction of the issuing wave when it belongs to the unit. -/
def execCancel (u : WorkUnit) (s : State) : Out :=
  .next (s.issueWith (.cancel u) (fun _ => none) (fun _ => none) [] (fun s =>
    let x := s.workOf u
    (s.nextPc (.cancel u)).device (fun d => d.cancelWork s.grp.ctx x)))

end Sys2Proof.Machine
end

