-- ==== Sys2Proof/Machine/Launcher.lean ====
section
/-!
DEFINITION. Sys2Proof/Machine/Launcher.lean: dispatch, placement, aging, reserving and pre-emption requests (R312 to R319),
the start and retirement of waves (R36, R127, R249, R317), bin timers (R247), and the ring commands THAW_BIN,
GROUP_RESUME, GROUP_DISCARD, FAULT_RESUME, PREEMPT and NOP (R282, R286, R288, R309, R313).
-/

namespace Sys2Proof.Machine

/-! ## What fits (R315, R316) -/

/-- What a group needs: for each core it occupies its waves and blocks; `fixed`: the scratchpad and semaphore bases that a
saved group must have again (R37). -/
structure Need where
  per     : List (Nat × Nat)
  matrix  : Bool
  sems    : Nat
  spad    : Nat
  ordered : Bool
  fixed   : Option (Nat × Nat)
deriving DecidableEq, Repr

/-- Waves of a group of n waves on its core i (R315). -/
def wavesOn (cluster : Bool) (n i : Nat) : Nat := if cluster then (n + 3 - i) / 4 else n

/-- The need of a fresh group. -/
def needOf (k : Kernel) (ordered : Bool) : Need :=
  ⟨(List.range (if k.cluster then 4 else 1)).map (fun i =>
      let n := wavesOn k.cluster k.waves i
      (n, n * k.blocks)),
    k.matrix, k.semCount, k.spad, ordered, none⟩

/-- The need of a saved group (R297). -/
def needSaved (g : Group) : Need :=
  ⟨(List.range (if g.cluster then 4 else 1)).map (fun i =>
      let mine := (List.range g.waves).filter (fun w => !g.cluster || w % 4 == i)
      (mine.length, (mine.map (fun w => g.saved.getD w 0)).sum)),
    g.matrix, g.semCount, g.spadSize, g.ordered, some (g.spadBase, g.semBase)⟩

/-- Groups on a core, but for one. -/
def State.residents (s : State) (core gone : Nat) : List Group :=
  s.allGroups.filter (fun g => g.resident && g.onCore core && g.name != gone)

/-- Free wave slots of a core. -/
def State.freeSlots (s : State) (core gone : Nat) : Nat :=
  48 - ((s.residents core gone).map (fun g => wavesOn g.cluster g.waves (core % 4))).sum

/-- Free frame blocks of a core. -/
def State.freeBlocks (s : State) (core gone : Nat) : Nat :=
  256 - ((s.allWaves.filter (fun w => w.core == core && w.group != gone)).map (fun w =>
    (w.frames.map (fun p => if p.2.spilled then 0 else p.2.blocks)).sum)).sum

/-- A range of a resource is free. -/
def rangeFree (used : List (Nat × Nat)) (size limit b : Nat) : Bool :=
  b + size ≤ limit && used.all (fun u => u.2 == 0 || u.1 + u.2 ≤ b || b + size ≤ u.1)

/-- The lowest base that fits. -/
def lowestBase (used : List (Nat × Nat)) (size limit : Nat) : Option Nat :=
  let ok := (0 :: used.map (fun u => u.1 + u.2)).filter (rangeFree used size limit)
  match ok with
  | [] => none
  | x :: xs => some (xs.foldl min x)

/-- The bases that a group would get on the given cores, if it fits there. -/
def State.fit (s : State) (cores : List Nat) (n : Need) (gone : Nat) : Option (Nat × Nat) :=
  let res := cores.flatMap (fun c => s.residents c gone)
  let each := (List.zip cores n.per).all (fun p => p.2.1 ≤ s.freeSlots p.1 gone && p.2.2 ≤ s.freeBlocks p.1 gone)
  let spads := res.map (fun g => (g.spadBase, g.spadSize))
  let sems := res.map (fun g => (g.semBase, g.semCount))
  if !each || (n.matrix && res.any Group.matrix) || res.any Group.ordered || (n.ordered && !res.isEmpty) then none
  else match n.fixed with
    | some (a, b) => if rangeFree spads n.spad (2 ^ 20) a && rangeFree sems n.sems 64 b then some (a, b) else none
    | none =>
        match lowestBase spads n.spad (2 ^ 20), lowestBase sems n.sems 64 with
        | some a, some b => some (a, b)
        | _, _ => none

/-- The core sets on which a group could stand in a partition, lowest number first. -/
def State.candidates (s : State) (part : Nat) (cluster : Bool) : List (List Nat) :=
  match mget s.parts part with
  | none => []
  | some p =>
      let cl := (List.range 128).filter (fun i => p.clusters.getLsbD i)
      if cluster then cl.map (fun i => (List.range 4).map (4 * i + ·))
      else cl.flatMap (fun i => (List.range 4).map (fun k => [4 * i + k]))

/-- Free slots and blocks of a candidate, summed. -/
def State.room (s : State) (cores : List Nat) : Nat × Nat :=
  ((cores.map (fun c => s.freeSlots c 0)).sum, (cores.map (fun c => s.freeBlocks c 0)).sum)

/-- Where a group goes: the first in the order of R316 that fits, with its bases. -/
def State.place (s : State) (part : Nat) (n : Need) : Option (List Nat × Nat × Nat) :=
  let ok := (s.candidates part (n.per.length == 4)).filterMap (fun cs => (s.fit cs n 0).map (fun b => (cs, b)))
  match ok with
  | [] => none
  | x :: xs => some (xs.foldl (fun a b =>
      let (sa, ba) := s.room a.1
      let (sb, bb) := s.room b.1
      if sa < sb || (sa == sb && ba < bb) then b else a) x)

/-! ## The choice of a queue (R313, R314, R318) -/

/-- What a queue would start next. -/
inductive Next where
  | fresh (launch : Nat)
  | restore (group : Nat)
deriving DecidableEq, Repr

/-- The first launch of a queue that has groups to dispatch, if it may start now (R313): every launch before its
predecessor has retired (`before`), and the predecessor has too (`prev`) unless the launch is a tail launch. -/
def freshNext : Bool → Bool → List (Option Launch) → Option Next
  | _, _, [] => none
  | before, prev, none :: ls => freshNext (before && prev) true ls
  | before, prev, some l :: ls =>
      if l.held then none
      else if l.started < l.groups then (if before && (prev || l.tail) then some (.fresh l.name) else none)
      else freshNext (before && prev) false ls

/-- The next group of a queue that R313 allows to start: a group to be placed again stands first (R319). -/
def State.nextGroup (s : State) (ctx q : Nat) : Option Next :=
  let ls := s.queuePlaces ctx q
  let ls := if s.serialOnly ctx then ls.filter (fun l => l.all (fun l => s.runSerial l.run)) else ls
  match (ls.filterMap id).findSome? (fun l => l.restore.head?) with
  | some g => some (.restore g)
  | none => freshNext true true ls

/-- A group waits at a CHIMECHK that is not over. -/
def State.atCheck (s : State) (group : Nat) : Bool :=
  s.ops.any (fun o => o.group == group && !o.ended && (match o.kind with
    | .chime _ => true
    | _ => false))

/-- A group of a serial re-execution is on the device (R303); the one that has reached the phase's CHIMECHK again counts no
more (log 48). -/
def State.serialBusy (s : State) : Bool := s.allGroups.any (fun g => s.runSerial g.run && !s.atCheck g.name)

/-- The node copy of a launch. -/
def State.launchNode (s : State) (l : Launch) : NodeCopy := ((s.binAt l.run l.node).map Bin.node).getD (.bad 0 0)

/-- A launch runs in ordered mode: its node says so, or it belongs to a serial re-execution (R303, R321). -/
def State.launchOrdered (s : State) (l : Launch) : Bool :=
  (s.launchNode l).ordered || s.runSerial l.run

/-- Where the next group of a queue would go: `none` when no core can take it. A fresh group whose descriptor is refused
needs no core: its dispatch is a node fault. -/
def State.placeNext (s : State) (part : Nat) : Next → Option (List Nat × Nat × Nat)
  | .restore g => (mget s.groups g).bind (fun g => s.place part (needSaved g))
  | .fresh n =>
      match mget s.launches n with
      | none => none
      | some l =>
          match (s.readKernel l.ctx (s.launchNode l).kernel).2 with
          | none => some ([], 0, 0)
          | some (k, _) =>
              if s.runSerial l.run && s.serialBusy then none
              else s.place part (needOf k (s.launchOrdered l))

/-- A queue that is ready. -/
structure Ready where
  ctx  : Nat
  q    : Nat
  eff  : Nat
  resv : Bool
  next : Next
deriving DecidableEq, Repr

/-- The ready queues of a partition. -/
def State.readyQueues (s : State) (part : Nat) : List Ready :=
  (s.ctxs.filter (fun c => c.2.part == part)).flatMap (fun c =>
    c.2.lq.filterMap (fun q => (s.nextGroup c.1 q.1).map (fun x => ⟨c.1, q.1, q.2.eff, q.2.reserving.isSome, x⟩)))

/-- One ready queue stands before another: higher effective priority, then the order that starts after the pointer. -/
def readyLt (rr : AMap (Nat × Nat)) (a b : Ready) : Bool :=
  let key (r : Ready) : Nat :=
    let n := r.ctx * 16 + r.q
    match mget rr r.eff with
    | some (c, q) => if n ≤ c * 16 + q then n + 2 ^ 16 else n
    | none => n
  b.eff < a.eff || (a.eff == b.eff && key a < key b)

/-- Ready queues in the order of R314. -/
def sortReady (rr : AMap (Nat × Nat)) (l : List Ready) : List Ready :=
  l.foldl (fun o r => o.takeWhile (fun x => !readyLt rr r x) ++ r :: o.dropWhile (fun x => !readyLt rr r x)) []

/-- The group that the launcher of a partition places now, and where. -/
def State.choice (s : State) (part : Nat) : Option (Ready × List Nat × Nat × Nat) :=
  let rs := s.readyQueues part
  let rr := ((mget s.parts part).map Part.rr).getD []
  let open_ (r : Ready) : Bool := rs.all (fun x => !x.resv || x.eff < r.eff || (x.eff == r.eff && r.resv))
  ((sortReady rr rs).filter open_).findSome? (fun r => (s.placeNext part r.next).map (fun p => (r, p)))

/-- A queue has dispatched: its priority, aging and reserving start again, and the pointer moves (R314). -/
def State.dispatched (s : State) (part : Nat) (r : Ready) : State :=
  let s := s.modQueue r.ctx r.q (fun q => { q with eff := q.prio, readyFrom := none, passFrom := none, reserving := none })
  { s with parts := mmod s.parts part (fun p => { p with rr := mset p.rr r.eff (r.ctx, r.q) }) }

/-! ## Starting a group (R249, R317) -/

/-- Wave slots of a core in use. -/
def State.slotsUsed (s : State) (core : Nat) : List Nat := (s.allWaves.filter (fun w => w.core == core)).map Wave.wslot

/-- Put a new wave on its core with the given frames, in the lowest free wave slot. -/
def State.addWave (s : State) (w : Wave) : State :=
  let used := s.slotsUsed w.core
  let slot := ((List.range 48).find? (fun k => !used.contains k)).getD 0
  let w := { w with name := s.names, wslot := slot }
  { s.fresh with waves := mset s.waves w.name w }

/-- A frame of blocks from a core's pool, every register zero. -/
def State.newFrame (s : State) (core blocks : Nat) (ret : Word) (regs : List Lanes) : Frame :=
  ⟨ret, blocks, (s.poolFree core).take blocks, false, regs⟩

/-- Claim a group's place: its scratchpad is zeroed and its semaphores are set to 0 (R25, R26, R317). -/
def State.claim (s : State) (g : Group) : State :=
  let lo (c : Nat) : Nat := spadAddr c g.spadBase
  let s := g.cores.foldl (fun s c => { s with spad := cclear s.spad (lo c) (lo c + g.spadSize) }) s
  let s := g.cores.foldl (fun s c => s.modCore c (fun x =>
    { x with sems := x.sems.filter (fun p => !(g.semBase ≤ p.1 && p.1 < g.semBase + g.semCount)) })) s
  { s with groups := mset s.groups g.name g }

/-- The lowest logical wave of a group on each of its cores: the first current waves of ordered mode (R321). -/
def Group.firstWaves (g : Group) : AMap Nat :=
  (List.zip (List.range g.cores.length) g.cores).foldl (fun m p => if p.1 < g.waves then mset m p.2 p.1 else m) []

/-- Start the next group of a launch on its cores. -/
def State.startGroup (s : State) (l : Launch) (x : Batch) (b : Bin) (k : Kernel) (peals : List PealDecl) (cores : List Nat)
    (spad sem : Nat) : State :=
  let c := b.node
  let i := l.started
  let id := s.nextId unitLauncher
  let part := s.partOf l.ctx
  let ordered := s.launchOrdered l
  let g : Group :=
    { Group.off with
      name := s.names, gid := l.gbase + BitVec.ofNat 32 i, lid := l.lid, ctx := l.ctx, part := part, run := l.run
      launch := l.name, node := l.node, index := i, waves := k.waves, cluster := k.cluster, matrix := k.matrix
      ordered := ordered, semCount := k.semCount, semBase := sem, blocks := k.blocks, entry := k.entry, spadBase := spad
      spadSize := k.spad, core0 := cores.headD 0, peals := peals, seed := c.seed, recAddr := b.slotVa x.first
      recLen := 16 * x.len, state := .running, start := id, parent := x.causal, order := s.names }
  let g := { g with current := if ordered then g.firstWaves else [] }
  let s := (s.fresh.bumpId unitLauncher).claim g
  let s := (List.range k.waves).foldl (fun s w =>
    let core := if k.cluster then g.core0 + w % 4 else g.core0
    let fr := s.newFrame core k.blocks 0 (List.replicate (8 * k.blocks) (Lanes.fill 0))
    s.addWave { Wave.off with group := g.name, core := core, index := w, life := .waiting, frames := [(0, fr)] }) s
  let s := s.emitN part unitLauncher 0x0201 id x.causal g.gid.toNat
  (s.modLaunch l.name (fun l => { l with started := l.started + 1 })).formLaunch l.ctx l.queue

/-- A launch whose kernel descriptor is refused when its groups start: a node fault (R246). -/
def State.kernelFault (s : State) (l : Launch) (x : Batch) : State :=
  let s := s.modBin l.run l.node (fun b => { b with copy := some { b.node with good := false } })
  let s := s.modLaunch l.name (fun l => { l with held := true })
  s.freezeBin l.run l.node 0x0901 x.first 0xFFFFFFFF#32 (some x)

/-- The batch of a launch. -/
def Bin.batchOf (b : Bin) (l : Nat) : Option Batch := b.batches.find? (fun x => x.launch == some l)

/-- GROUP_DISPATCH (R314, R316, R317): the launcher of a partition places the next group of the chosen queue. -/
def execGroupDispatch (part : Nat) (s : State) : Out :=
  let s := s.unfocus
  match s.choice part with
  | some (r, cores, spad, sem) =>
      match r.next with
      | .fresh n =>
          match mget s.launches n, (mget s.launches n).bind (fun l => s.binAt l.run l.node) with
          | some l, some b =>
              match b.batchOf n with
              | some x =>
                  let (s, k) := s.readKernel l.ctx b.node.kernel
                  .next (match k with
                    | some (k, peals) => (s.dispatched part r).startGroup l x b k peals cores spad sem
                    | none => s.kernelFault l x)
              | none => .refused (.notEnabled "GROUP_DISPATCH")
          | _, _ => .refused (.notEnabled "GROUP_DISPATCH")
      | .restore _ => .refused (.notEnabled "GROUP_DISPATCH")
  | none => .refused (.notEnabled "GROUP_DISPATCH")

/-- The state of a wave as R36 has it. -/
def Wave.begin (w : Wave) (g : Group) : Wave :=
  { Wave.off with
    name := w.name, group := w.group, core := w.core, index := w.index, wslot := w.wslot, frames := w.frames
    issueAt := w.issueAt
    life := .running, live := allLanes
    slot0 := { Slot.off with valid := true, pc := g.entry, mask := allLanes, level := allLanes }
    sregs := Vector.ofFn (fun i : Fin 56 =>
      if i.val = 0 then loWord g.recAddr else if i.val = 1 then hiWord g.recAddr
      else if i.val = 2 then BitVec.ofNat 32 g.recLen else if i.val = 3 then BitVec.ofNat 32 g.index else 0) }

/-- A wave may start. -/
def State.waveStarts (s : State) (wave : Nat) : Bool :=
  match mget s.waves wave with
  | some w => w.life == .waiting && s.groupRuns w.group
  | none => false

/-- WAVE_START (R36, R249): an acquire at `.device` of what the records' placing and the retirement of the launch before
released (R267). -/
def execWaveStart (wave : Nat) (s : State) : Out :=
  let s := s.unfocus
  gate "WAVE_START" (s.waveStarts wave) (
    match mget s.waves wave with
    | some w =>
        let g := (s.groupAt w.group).getD .off
        (s.modWave wave (fun w => w.begin g)).applyNotices.snapshot (dieOf w.core)
    | none => s)

/-! ## Retirement (R127, R317) -/

/-- A wave without live lanes retires when its counters are zero and no trap of its operations is pending. -/
def State.waveRetires (s : State) (wave : Nat) : Bool :=
  match mget s.waves wave with
  | none => false
  | some w =>
      w.life == .stopped && w.traps.isEmpty && w.ecnt.toList.all (· == 0) &&
        (match (s.groupAt w.group).map Group.state with
         | some .running | some .ending | some .cancelled => true
         | _ => false)

/-- WAVE_RETIRE (R127): its frames return to the pool; the last wave retires the group. -/
def execWaveRetire (wave : Nat) (s : State) : Out :=
  let s := s.unfocus
  gate "WAVE_RETIRE" (s.waveRetires wave) (
    let g := ((mget s.waves wave).map Wave.group).getD 0
    let s := s.modWave wave (fun w => { w with life := .done, frames := [] })
    let s := (s.focus wave).switchPoint.unfocus
    if (s.groupWaves g).all (fun w => w.life == .done) then s.retireGroup g else s)

/-! ## Bin timers (R247) -/

/-- The timer of a bin's open batch has expired. -/
def State.binDue (s : State) (run node : Nat) : Bool :=
  match s.binAt run node with
  | none => false
  | some b =>
      match b.batches.getLast? with
      | none => false
      | some x => !x.closed && b.node.timer != 0 && x.opened + 16000 * b.node.timer ≤ s.time

/-- BIN_TIMER_EXPIRY (R247): the batch closes and leaves the rest of its stretch unused. -/
def execBinTimerExpiry (run node : Nat) (s : State) : Out :=
  let s := s.unfocus
  gate "BIN_TIMER_EXPIRY" (s.binDue run node) (
    match mget s.runs run, s.binAt run node with
    | some r, some b =>
        match b.batches.getLast? with
        | some x =>
            let s := s.modBin run node (fun b => { b with
              next := (x.first + b.stretch) % 2 ^ 32
              batches := b.batches.dropLast ++ [{ x with closed := true }] })
            (s.writeBatch r b x).formLaunch r.ctx r.queue
        | none => s
    | _, _ => s)

/-! ## Aging and reserving (R314, R318) -/

/-- One millisecond of device time. -/
def msec : Nat := 16000000

/-- Keep the times of a queue: since when it is ready, and since when no core can take its group. -/
def LQueue.keep (q : LQueue) (now : Nat) (ready passed : Bool) : LQueue :=
  { q with
    readyFrom := if ready then some (q.readyFrom.getD now) else none
    passFrom := if passed then some (q.passFrom.getD now) else none
    reserving := if ready then q.reserving else none }

/-- Bring the times of every queue up to date, and form the launches that are due. -/
def State.refreshQueues (s : State) : State :=
  let s := s.ctxs.foldl (fun s c => s.formAll c.1) s
  s.ctxs.foldl (fun s c => c.2.lq.foldl (fun s q =>
    let next := s.nextGroup c.1 q.1
    let passed := match next with
      | some n => (s.placeNext c.2.part n).isNone
      | none => false
    s.modQueue c.1 q.1 (fun l => l.keep s.time next.isSome passed)) s) s

/-- A queue's effective priority is due to rise. -/
def State.agingDue (s : State) (ctx q : Nat) : Bool :=
  match s.queueAt ctx q with
  | some l => l.eff < 7 && (match l.readyFrom with
      | some t => t + 4 * msec ≤ s.time
      | none => false)
  | none => false

/-- QUEUE_AGING (R314): one level for each 4 ms in which a queue is ready and dispatches nothing. -/
def execQueueAging (ctx queue : Nat) (s : State) : Out :=
  let s := s.unfocus
  gate "QUEUE_AGING" (s.agingDue ctx queue)
    (s.modQueue ctx queue (fun l => { l with eff := l.eff + 1, readyFrom := l.readyFrom.map (· + 4 * msec) }))

/-- A queue has been passed over for 1 ms. -/
def State.reservingDue (s : State) (ctx q : Nat) : Bool :=
  match s.queueAt ctx q with
  | some l => l.reserving.isNone && (match l.passFrom with
      | some t => t + msec ≤ s.time
      | none => false)
  | none => false

/-- QUEUE_RESERVING (R318). -/
def execQueueReserving (ctx queue : Nat) (s : State) : Out :=
  let s := s.unfocus
  gate "QUEUE_RESERVING" (s.reservingDue ctx queue)
    (s.modQueue ctx queue (fun l => { l with reserving := some s.time }))

/-! ## Pre-emption requests (R288, R291, R319) -/

/-- The effective priority of the queue that a group belongs to. -/
def State.groupEff (s : State) (g : Group) : Nat :=
  match mget s.launches g.launch with
  | some l => ((s.queueAt l.ctx l.queue).map LQueue.eff).getD 0
  | none => 0

/-- The need of the next group of a queue. -/
def State.needNext (s : State) : Next → Option Need
  | .restore g => (mget s.groups g).map needSaved
  | .fresh n => (mget s.launches n).bind (fun l =>
      ((s.readKernel l.ctx (s.launchNode l).kernel).2).map (fun k => needOf k.1 (s.launchOrdered l)))

/-- Freeing a group would let the next group of a reserving queue of 2 ms fit, two levels above it. -/
def State.victimFor (s : State) (g : Group) : Bool :=
  (s.readyQueues g.part).any (fun r =>
    let since := (s.queueAt r.ctx r.q).bind LQueue.reserving
    (match since with
     | some t => t + 2 * msec ≤ s.time
     | none => false) && s.groupEff g + 2 ≤ r.eff &&
      (match s.needNext r.next with
       | some n => (s.candidates g.part (n.per.length == 4)).any (fun cs => (s.fit cs n g.name).isSome)
       | none => false))

/-- A group that the launcher may pre-empt. -/
def State.mayPreempt (s : State) (g : Group) : Bool :=
  (g.state == .running || g.state == .ending) && !((mget s.ctxs g.ctx).map Ctx.noVictim).getD true && s.victimFor g

/-- The launcher asks for the pre-emption of this group: the lowest priority, and among equals the group that started
last. -/
def State.preemptDue (s : State) (n : Nat) : Bool :=
  match mget s.groups n with
  | none => false
  | some g =>
      s.mayPreempt g && (s.groups.map Prod.snd).all (fun x => !(x.part == g.part && s.mayPreempt x) ||
        s.groupEff g < s.groupEff x || (s.groupEff g == s.groupEff x && x.order ≤ g.order))

/-- A group begins to drain for a pre-emption (R288); `none` when the save area has no room. -/
def State.beginDrain (s : State) (g : Group) : Option State :=
  let (s, ok) := s.takeRoom g
  if ok then some (s.modGroup g.name (fun g => { g with state := .draining 0 0 true })) else none

/-- Tabor records that the save area is full (R291). -/
def State.saveFull (s : State) (g : Group) : State := s.emitN g.part unitLauncher 0x0208 g.start g.parent g.node

/-- The launcher chooses no victim of this context until room is freed (R291). -/
def State.noVictim (s : State) (ctx : Nat) : State := s.modCtx ctx (fun c => { c with noVictim := true })

/-- PREEMPTION_REQUEST (R319, R291): the launcher asks for the pre-emption of a group. -/
def execPreemptionRequest (group : Nat) (s : State) : Out :=
  let s := s.unfocus
  gate "PREEMPTION_REQUEST" (s.preemptDue group) (
    match mget s.groups group with
    | none => s
    | some g =>
        match s.beginDrain g with
        | some t => t.modGroup group (fun g => { g with asked := true })
        | none => (s.noVictim g.ctx).saveFull g)

/-! ## Ring commands (R309) -/

/-- A command stands at the head of its ring. -/
def State.atRing (s : State) (src : RingSrc) (i : Instr) : Bool := s.ringHead src.ctx src.queue == some i

/-- RING_NOP (R309): consumed, without effect. -/
def execRingNop (src : RingSrc) (s : State) : Out :=
  let s := s.unfocus
  gate "RING_NOP" (s.atRing src (.ringNop src)) (s.ringDone src.ctx src.queue)

/-- A live group of a context by its id. -/
def State.groupId (s : State) (ctx : Nat) (gid : Word) : Option Group :=
  (s.groups.map Prod.snd).find? (fun g => g.ctx == ctx && g.gid == gid)

/-- A command that names a group: refused when it names nothing live. -/
def State.groupCmd (s : State) (src : RingSrc) (gid : Word) (f : State → Group → State) : State :=
  (match s.groupId src.ctx gid with
   | none => s.refuseEntry src.ctx src.causal 0
   | some g => f s g).ringDone src.ctx src.queue

/-- The record of a PREEMPT or an image that could not be saved (R291): a task record with the failing address, if any. -/
def State.saveRecord (s : State) (g : Group) (addr : Option Dword) : State :=
  let (s, h) := s.slotHead g.ctx g.recAddr
  let pos := ((mget s.launches g.launch).map Launch.batch).getD 0
  let h := match addr with
    | some a => h.take 24 ++ leBytes 8 a.toNat
    | none => h
  let id := leDword ((h.drop 8).take 8)
  s.taskRecord g.ctx 0x0905 g.gid id (s.parentOf id) g.node pos h

/-- PREEMPT (R288, R291, R319): the named group drains; without room in the save area the command has no effect but its
records. -/
def execPreempt (src : RingSrc) (group : Word) (s : State) : Out :=
  let s := s.unfocus
  gate "PREEMPT" (s.atRing src (.preempt src group)) (s.groupCmd src group (fun s g =>
    if g.state == .running || g.state == .ending then
      match s.beginDrain g with
      | some t => t.modGroup g.name (fun g => { g with asked := false })
      | none => (s.saveRecord g none).saveFull g
    else s))

/-- GROUP_DISCARD (R282, R298). -/
def execGroupDiscard (src : RingSrc) (group : Word) (s : State) : Out :=
  let s := s.unfocus
  gate "GROUP_DISCARD" (s.atRing src (.groupDiscard src group)) (s.groupCmd src group (fun s g =>
    (s.modLaunch g.launch (fun l => { l with restore := l.restore.filter (· != g.name) })).cancelGroup g.name))

/-- The words of the instruction at a program counter, as memory holds them now (1 when they do not decode). -/
def State.wordsAt (s : State) (ctx : Nat) (pc : Word) : Nat :=
  match (s.fetchAt ctx none pc).2 with
  | .instr i => i.words
  | _ => 1

/-- A halted wave restarts after its HALTW (R287). -/
def Wave.unhalt (w : Wave) : Wave :=
  if w.halted then
    let on (f : Slot) : Slot := if f.park == .halt then { f with park := .no, pc := f.pc + 1 } else f
    { w with halted := false, slot0 := on w.slot0, slot1 := on w.slot1 }
  else w

/-- A fragment stopped by a trap restarts at its saved PC, or after it (R282): an instruction skipped waits for nothing more
(R241). -/
def State.skipTrap (s : State) (ctx : Nat) (skip : Bool) (w : Wave) (t : DelTrap) : Wave :=
  let f := w.slotAt t.slot
  if skip && f.valid then
    let n := if t.precise then t.words else s.wordsAt ctx f.pc
    w.setSlotAt t.slot { f with pc := f.pc + BitVec.ofNat 32 n, rewait := none }
  else w

/-- The waves of a group go on after a GROUP_RESUME: traps with SKIP as given, halted waves after their HALTW. -/
def State.resumeWaves (s : State) (g : Group) (skip : Bool) : State :=
  (s.groupWaves g.name).foldl (fun s w => s.modWave w.name (fun w =>
    ((g.trapped.filter (fun p => p.1 == w.index)).foldl (fun w p => s.skipTrap g.ctx skip w p.2) w).unhalt)) s

/-- A wave without open windows. -/
def Wave.noWindows (w : Wave) : Wave :=
  { w with slot0 := { w.slot0 with windows := [] }, slot1 := { w.slot1 with windows := [] } }

/-- A group held in place goes on where it stands (R291): its parked waits go on, and no window is open (R53). -/
def State.resumeInPlace (s : State) (g : Group) (skip : Bool) : State :=
  let s := s.resumeWaves g skip
  let s := (s.groupWaves g.name).foldl (fun s w => s.modWave w.name Wave.noWindows) s
  s.modGroup g.name (fun g => { g with state := .running, trapped := [], heldAt := none })

/-- Restart what a GROUP_RESUME names (R282, R287): a held group is placed again or goes on where it stands; halted waves of
a group that runs or drains go on. -/
def State.resumeGroup (s : State) (g : Group) (skip : Bool) : State :=
  match g.state with
  | .heldInPlace _ => s.resumeInPlace g skip
  | .saved =>
      let s := s.modGroup g.name (fun g => { g with resumed := some skip })
      s.modLaunch g.launch (fun l => { l with restore := if l.restore.contains g.name then l.restore else l.restore ++ [g.name] })
  | .running | .ending | .draining _ _ _ => (s.groupWaves g.name).foldl (fun s w => s.modWave w.name Wave.unhalt) s
  | _ => s

/-- GROUP_RESUME (R282). -/
def execGroupResume (src : RingSrc) (group : Word) (skip : Bool) (s : State) : Out :=
  let s := s.unfocus
  gate "GROUP_RESUME" (s.atRing src (.groupResume src group skip)) (s.groupCmd src group (fun s g => s.resumeGroup g skip))

/-- A parked thing on a page is to try again. -/
def pageHit (page : Dword) (all : Bool) (p : Dword) : Bool := all || p.toNat / 8192 == page.toNat / 8192

/-- A fragment that waits for a page tries again. -/
def Slot.retry (page : Dword) (all : Bool) (f : Slot) : Slot :=
  match f.stall with
  | .page p => if pageHit page all p then { f with stall := .refetch p } else f
  | _ => f

/-- A parked operation tries again (R286). -/
def EngineOp.retryPage (page : Dword) (all : Bool) (o : EngineOp) : EngineOp :=
  match o.state with
  | .parked p => if pageHit page all p then { o with state := .going } else o
  | _ => o

/-- Everything of a context that is parked on the page tries again (R286). -/
def State.retryPage (s : State) (ctx : Nat) (page : Dword) (all : Bool) : State :=
  let mine (g : Nat) : Bool := ((s.groupAt g).map Group.ctx) == some ctx
  let again (w : Wave) : Wave := { w with slot0 := w.slot0.retry page all, slot1 := w.slot1.retry page all }
  { s with
    ops := s.ops.map (fun (o : EngineOp) => if mine o.group then o.retryPage page all else o)
    waves := s.waves.map (fun (p : Nat × Wave) => (p.1, if mine p.2.group then again p.2 else p.2)) }

/-- FAULT_RESUME (R286): every parked operation of the context on the page, or every one, retries. -/
def execFaultResume (src : RingSrc) (page : Dword) (all : Bool) (s : State) : Out :=
  let s := s.unfocus
  gate "FAULT_RESUME" (s.atRing src (.faultResume src page all))
    ((s.retryPage src.ctx page all).ringDone src.ctx src.queue)

/-! ## THAW_BIN (R313) -/

/-- The held launches of a bin. -/
def State.heldOf (s : State) (run node : Nat) : List Launch :=
  (s.launches.map Prod.snd).filter (fun l => l.run == run && l.node == node && l.held)

/-- Thaw with RETRY: the node record and entry are read and checked again; what has not started is dispatched. -/
def State.thawRetry (s : State) (r : Run) (node : Nat) (b : Bin) : State :=
  let (s, c) := s.readNode r node
  let held := s.heldOf r.name node
  let usable := c.slots != 0
  let good := c.good && usable && held.all (fun l => l.groups == c.ids)
  let c := if usable then c else { c with base := b.node.base, slots := b.node.slots }
  let s := s.modBin r.name node (fun b => { b with copy := some { c with good := good } })
  if !good then
    let x := (held.findSome? (fun l => b.batchOf l.name)).or b.batches.head?
    s.freezeBin r.name node 0x0901 ((b.frozen.map (fun f => f.2.1)).getD 0) 0xFFFFFFFF#32 x
  else
    let s := s.modBin r.name node (fun b => { b with frozen := none })
    held.foldl (fun s l => (s.modLaunch l.name (fun l => { l with held := false })).checkLaunch l.name) s

/-- Thaw without RETRY: the groups of the faulting launch that have not started count as retired; a refused node's batch
that has formed no launch is discarded. -/
def State.thawDiscard (s : State) (r : Run) (node : Nat) (b : Bin) : State :=
  let held := s.heldOf r.name node
  let s := s.modBin r.name node (fun b => { b with frozen := none })
  let s := if held.isEmpty && !b.node.good then
      match b.batches.find? (fun x => x.launch.isNone) with
      | some x => s.modBin r.name node (fun b => { b with
          next := if x.closed then b.next else (x.first + b.stretch) % 2 ^ 32
          batches := b.batches.filter (fun y => y.first != x.first) })
      | none => s
    else s
  held.foldl (fun s l => (s.modLaunch l.name (fun l => { l with
    started := l.groups, live := l.live - (l.groups - l.started), held := false })).checkLaunch l.name) s

/-- THAW_BIN (R313): a RUN or NODE that names nothing live refuses the entry. -/
def execThawBin (src : RingSrc) (run : Word) (node : Nat) (retry : Bool) (s : State) : Out :=
  let s := s.unfocus
  gate "THAW_BIN" (s.atRing src (.thawBin src run node retry)) (
    let s := match (s.runs.map Prod.snd).find? (fun r => r.ctx == src.ctx && r.number == run) with
      | none => s.refuseEntry src.ctx src.causal 0
      | some r =>
          if r.nodes ≤ node then s.refuseEntry src.ctx src.causal 0
          else match s.binAt r.name node with
            | none => s
            | some b =>
                if b.frozen.isNone then s
                else ((if retry then s.thawRetry r node b else s.thawDiscard r node b).formLaunch r.ctx r.queue).checkRun r.name
    s.ringDone src.ctx src.queue)

end Sys2Proof.Machine
end

