-- ==== Sys2Proof/Machine/Image.lean ====
section
/-!
DEFINITION. Sys2Proof/Machine/Image.lean: the group image (R292 to R296), the end of a drain (R288 to R291, R229) and the
restore of a saved group (R297).
-/

namespace Sys2Proof.Machine

/-! ## Writing an image (R292 to R296) -/

/-- Zero bytes. -/
def zeros (n : Nat) : List Byte := List.replicate n 0

/-- A place in the queue of a semaphore (R293): 0xFF when the fragment waits for none. -/
def State.semRank (s : State) (w : Wave) (k : Nat) : Nat :=
  match (w.slotAt k).park with
  | .sem core n _ _ => (mgetD (s.core core).sems n (0, [])).2.findIdx (fun x => x.wave == w.name && x.slot == k)
  | _ => 0xFF

/-- The 32 bytes of a slot (R293). -/
def State.slotBytes (s : State) (w : Wave) (k : Nat) : List Byte :=
  let f := w.slotAt k
  leBytes 4 f.pc.toNat ++ leBytes 1 (b2n f.valid) ++ leBytes 1 f.park.code ++ leBytes 1 f.sbase ++ leBytes 1 f.depth ++
    leBytes 8 f.mask.toNat ++ leBytes 8 f.level.toNat ++ leBytes 1 (s.semRank w k) ++ zeros 7

/-- The 64 bytes of a stack entry of a slot (R294). -/
def StkEntry.bytes (slot : Nat) (e : StkEntry) : List Byte :=
  leBytes 4 e.jpc.toNat ++ leBytes 4 e.dpc.toNat ++ leBytes 1 e.token.toNat ++ leBytes 1 e.fdepth ++ leBytes 1 slot ++
    zeros 5 ++ leBytes 8 e.outer.toNat ++ leBytes 8 e.expect.toNat ++ leBytes 8 e.arrived.toNat ++ leBytes 8 e.resume.toNat ++
    leBytes 8 e.deferred.toNat ++ zeros 8

/-- Frame record j (R294). -/
def Wave.frameRecord (w : Wave) (j : Nat) : List Byte :=
  match mget w.frames j with
  | some f => leBytes 8 (f.ret.toNat + f.blocks * 2 ^ 32 + 2 ^ 36)
  | none => zeros 8

/-- Blocks of every frame of a wave. -/
def Wave.allBlocks (w : Wave) : Nat := (w.frames.map (fun p => p.2.blocks)).sum

/-- STATE of R293. -/
def Wave.stateByte (w : Wave) : Nat :=
  w.cur % 2 + 2 * b2n w.cycleHi.isSome + 4 * b2n w.timeHi.isSome + 8 * b2n w.halted + 16 * b2n (!w.traps.isEmpty)

/-- The class counters, 10 bits each. -/
def Wave.ecntBits (w : Wave) : Nat := (List.range 5).foldl (fun x i => x + w.ecnt.toArray.getD i 0 % 1024 * 2 ^ (10 * i)) 0

/-- A wave record with its stack entries and frame blocks (R293). -/
def State.waveBytes (s : State) (w : Wave) : List Byte :=
  w.sregs.toList.flatMap (fun x => leBytes 4 x.toNat) ++ leBytes 4 w.flags.toNat ++ leBytes 2 w.window.toNat ++
    leBytes 1 w.mark ++ leBytes 1 w.tokctr.toNat ++ leBytes 8 w.live.toNat ++ leBytes 8 w.ecntBits ++
    leBytes 1 w.stateByte ++ leBytes 1 (w.slot0.stk.length + w.slot1.stk.length) ++ leBytes 2 w.ftimer ++
    leBytes 4 w.allBlocks ++ leBytes 4 (w.cycleHi.getD 0).toNat ++ leBytes 4 (w.timeHi.getD 0).toNat ++
    leBytes 4 w.top.jpc.toNat ++ leBytes 1 w.top.token.toNat ++ leBytes 1 w.top.hbase ++ leBytes 1 w.top.sdepth ++
    leBytes 1 (b2n w.top.pending) ++ leBytes 8 w.top.outer.toNat ++ leBytes 8 w.top.expect.toNat ++
    leBytes 8 w.top.arrived.toNat ++ leBytes 8 w.top.resume.toNat ++ zeros 16 ++ s.slotBytes w 0 ++ s.slotBytes w 1 ++
    zeros 128 ++ lanesBytes w.draws ++ w.aregs.toList.flatMap lanesBytes ++ (List.range 128).flatMap w.frameRecord ++
    w.slot0.stk.flatMap (StkEntry.bytes 0) ++ w.slot1.stk.flatMap (StkEntry.bytes 1) ++
    w.frames.flatMap (fun p => p.2.regs.flatMap lanesBytes)

/-- The matrix block of a core (R295). -/
def Core.matrixBytes (c : Core) : List Byte :=
  cread 0 c.plane0 0 16384 ++ cread 0 c.plane1 0 16384 ++ cread 0x7F#8 c.scale0 0 1024 ++ cread 0x7F#8 c.scale1 0 1024 ++
    leBytes 1 c.tag0.toNat ++ leBytes 1 c.tag1.toNat ++ leBytes 1 (b2n c.active) ++ zeros 1 ++
    c.msc.toList.flatMap (fun w => leBytes 4 w.toNat) ++ zeros 44

/-- The section of a core (R295). -/
def State.coreBytes (s : State) (g : Group) (core : Nat) : List Byte :=
  let c := s.core core
  let sem (k : Nat) : List Byte :=
    leBytes 2 (if k < g.semCount then (mgetD c.sems (g.semBase + k) (0, [])).1 else 0) ++ zeros 6
  s.spadGet (spadAddr core g.spadBase) g.spadSize ++ (List.range 64).flatMap sem ++ (if g.matrix then c.matrixBytes else [])

/-- The body of a copy (R296): one that has ended is kept with every element done. -/
def copyBody (ended : Bool) (c : Option CopyOp) : List Byte :=
  match c with
  | some c =>
      let x := c.recd.getD 0
      leBytes 64 x ++ leBytes 8 (if ended then 0 else c.doneMap.toNat) ++ leBytes 4 (if ended then copyTotal x else c.low) ++
        leBytes 4 (c.bar.getD 0x80000000#32).toNat ++
        leBytes 1 (c.peal.getD 0) ++ leBytes 1 (b2n c.peal.isSome) ++ leBytes 1 (b2n c.nt) ++ zeros 45
  | none => zeros 72 ++ leBytes 4 1 ++ leBytes 4 0x80000000 ++ zeros 48

/-- The lanes of a gather or scatter that are still to be done: a lane whose destination a later lane has written is done. -/
def GatherOp.left (g : GatherOp) (core : Nat) : Dword :=
  maskOf (fun i => bit g.notDone i && !g.covered core i (fun j => !bit g.notDone j))

/-- The body of a gather or scatter (R296): one that has ended is kept with every lane done. -/
def gatherBody (core : Nat) (ended : Bool) (g : Option GatherOp) : List Byte :=
  match g with
  | some g =>
      leBytes 8 (if ended then 0 else (g.left core).toNat) ++ leBytes 1 (Nat.log2 g.size) ++ leBytes 1 (b2n g.nt) ++ zeros 6 ++
        (List.range 64).flatMap (fun i => leBytes 8 (g.ea.getD i 0).toNat) ++
        (List.range 64).flatMap (fun i => leBytes 4 (g.sa.getD i 0).toNat) ++ zeros 48 ++
        (if g.scatter then (List.range 64).flatMap (fun i => (g.data.getD i [] ++ zeros 16).take 16) else [])
  | none => zeros 832

/-- The body of an operation. -/
def EngineOp.body (o : EngineOp) : List Byte :=
  match o.cls, o.kind with
  | .bcopy, .copy c => copyBody o.ended (some c)
  | .bcopy, _ => copyBody true none
  | _, .gather g => gatherBody o.core o.ended (some g)
  | _, _ => gatherBody o.core true none

/-- Operations that an image saves: copies, gathers and scatters (R191). -/
def EngineOp.saved (o : EngineOp) : Bool :=
  match o.cls with
  | .bcopy | .gather => true
  | .gatom | .matrix | .coll => false

/-- The saved operations of a group, in order of age. -/
def State.savedOps (s : State) (g : Nat) : List EngineOp := s.ops.filter (fun o => o.group == g && o.saved)

/-- An engine record (R296). -/
def State.opBytes (s : State) (o : EngineOp) : List Byte :=
  let index := ((s.waveAt o.wave).map Wave.index).getD 0
  let older := (s.savedOps o.group).takeWhile (fun x => x.name != o.name)
  let ord := (older.filter (fun x => x.wave == o.wave && x.cls == o.cls)).length
  let page := match o.state with
    | .parked p => some p
    | _ => none
  leBytes 8 o.causal.toNat ++ leBytes 4 o.pc.toNat ++ leBytes 1 (clsIndex o.cls) ++ leBytes 1 index ++ leBytes 1 o.slot ++
    leBytes 1 (b2n page.isSome) ++ leBytes 2 ord ++ leBytes 2 o.sel.toNat ++ leBytes 4 o.body.length ++
    leBytes 8 (page.getD 0).toNat ++ zeros 32 ++ o.body

/-- The cores of a group's enrolments, as 4 × peal + core within the cluster: what the launcher keeps to remake them. -/
def State.enrolKeys (s : State) (g : Nat) : List Nat :=
  (s.enrols.filter (fun e => e.group == g)).map (fun e => 4 * e.peal + e.core % 4)

/-- The header (R292). -/
def State.imageHead (s : State) (g : Group) (reason code len records : Nat) : List Byte :=
  let peals := ((s.enrolKeys g.name).map (· / 4)).eraseDups
  let wave := match g.trapped.map Prod.fst with
    | [] => 0
    | x :: xs => xs.foldl min x
  leBytes 64 (0x4749 + 2 ^ 16 + g.spadSize * 2 ^ 32 + s.time % 2 ^ 64 * 2 ^ 64 + g.semCount * 2 ^ 158 +
    b2n g.ordered * 2 ^ 165 + b2n g.matrix * 2 ^ 166 + b2n g.cluster * 2 ^ 167 + (g.waves - 1) * 2 ^ 168 + g.node * 2 ^ 176 +
    g.gid.toNat * 2 ^ 192 + g.lid.toNat * 2 ^ 224 + reason * 2 ^ 256 + wave * 2 ^ 264 + code * 2 ^ 272 +
    (peals.map (2 ^ ·)).sum * 2 ^ 288 + records * 2 ^ 368 + len * 2 ^ 384 +
    (g.chime.getD 0xFFFFFFFF#32).toNat * 2 ^ 416 + g.digest.toNat * 2 ^ 448)

/-- The image of a group (R292). -/
def State.image (s : State) (g : Group) (reason code : Nat) : List Byte :=
  let ops := s.savedOps g.name
  let rest := (s.groupWaves g.name).flatMap s.waveBytes ++ g.cores.flatMap (s.coreBytes g) ++ ops.flatMap s.opBytes
  s.imageHead g reason code (64 + rest.length) ops.length ++ rest

/-! ## When a drain has ended (R288, R289) -/

/-- The lanes of a fragment: those of its arm, and those that its own splits hold (R119). -/
def Slot.lanes (f : Slot) : Dword := (f.stk.drop f.sbase).foldl (fun m e => m ||| e.outer) f.level

/-- A fragment defers the drain (R182): a lane of it holds a valid reservation, and fewer than 16 instructions have issued
since its LDRES, without a park. -/
def Wave.deferring (w : Wave) (k : Nat) : Bool :=
  let f := w.slotAt k
  w.life == .running && !w.halted && f.ready && f.resAge < 16 &&
    (List.range 64).any (fun i => bit f.lanes i && (w.resv.toArray.getD i none).isSome)

/-- Nothing of an operation is under way that the image does not save (R191, R289, R296): copies, gathers and scatters stand
between elements, a copy with every element done has ended, and every operation of the other classes has completed. -/
def EngineOp.quiet (o : EngineOp) : Bool :=
  o.saved && (o.ended || (match o.kind with
    | .copy c => c.sent.isEmpty && !c.allDone
    | .gather g => g.sent == 0
    | _ => false))

/-- The matrix instruction can do something by itself, or its stream can move on. -/
def State.matrixMoves (s : State) (o : EngineOp) : Bool :=
  match o.kind with
  | .mat m =>
      let east := match eastOf o.core with
        | some e => !s.chainTaker e (s.opCtx o) || (s.core e).chainIn.isNone
        | none => true
      s.loadBegins o.name || (m.kind == 0 && m.begun && o.state == .going) || s.streamStarts o.name || s.streamEnds o.name ||
        s.zeroReady o.name || (m.begun && m.forward && east) ||
        (m.role ≥ 2 && !m.begun && (s.forwarder o.core).isSome)
  | _ => s.streamEnds o.name

/-- The matrix instructions of a group that are not finished. -/
def State.matrixLeft (s : State) (g : Nat) : List EngineOp :=
  s.ops.filter (fun o => o.group == g && o.cls == .matrix && !o.ended)

/-- The group's matrix instructions cannot go on: those that wait at a chain are ended (R229). -/
def State.chainStuck (s : State) (g : Nat) : Bool :=
  !(s.matrixLeft g).isEmpty && !(s.matrixLeft g).any s.matrixMoves

/-- End what waits at a chain: a follower whose stream has not begun to arrive fails as chain broken, and an engine that a
full input holds back drops the rest of its forwarding (R229). -/
def State.endChains (s : State) (g : Nat) : State :=
  (s.matrixLeft g).foldl (fun s o =>
    match o.kind with
    | .mat m =>
        if m.role ≥ 2 && !m.begun then s.failOp o 0x070D 0 0
        else if m.begun && m.forward then
          let s := s.modMat o.name (fun m => { m with forward := false })
          match eastOf o.core, m.stream with
          | some e, some st => s.chainDrop e st
          | _, _ => s
        else s
    | _ => s) s

/-- The drain of a group has ended. -/
def State.drained (s : State) (g : Group) : Bool :=
  let ws := s.groupWaves g.name
  (s.ops.filter (fun o => o.group == g.name)).all (fun o => o.quiet && s.answered o.name) && !ws.any (fun w => w.deferring 0 || w.deferring 1) &&
    !ws.any (fun w => w.life != .done && w.traps.any (fun t => !t.recorded)) &&
    g.cores.all (fun c => match (s.core c).spill with
      | some j => !ws.any (fun w => w.name == j.wave)
      | none => true)

/-! ## PREEMPT_DRAIN_COMPLETE (R281, R288, R291) -/

/-- Steps 3 and 4 of R288: streams at the chain inputs are dropped, sleeps end (and CUR leaves a parked fragment for one that slept,
R128), waves that have not started begin, which is an acquire (R267), reservations clear and enrolments end. -/
def State.settleDrain (s : State) (g : Group) : State :=
  let s := g.cores.foldl (fun s c => match (s.core c).chainIn with
    | some x => if g.matrix then (s.chainDrop c x).modCore c (fun y => { y with chainIn := none }) else s
    | none => s) s
  let awake (f : Slot) : Slot := match f.park with
    | .sleep _ => { f with park := .no }
    | _ => f
  let s := if (s.groupWaves g.name).any (fun w => w.life == .waiting) then s.snapshot (dieOf g.core0) else s
  let s := (s.groupWaves g.name).foldl (fun s w => s.modWave w.name (fun w =>
    let w := if w.life == .waiting then w.begin g else w
    ({ w.clearResv with slot0 := awake w.slot0, slot1 := awake w.slot1 } : Wave).turnAway)) s
  s.endEnrols g.name

/-- Operations that have failed but stand behind an older one of their class deliver their fault now: the image keeps them
as ended. -/
def State.deliverFaults (s : State) (g : Nat) : State :=
  (s.savedOps g).foldl (fun s o => match o.state with
    | .failed code addr info =>
        let mask := match o.kind with
          | .gather x => x.notDone
          | .copy _ => o.lead
          | _ => 0
        (s.faultOp o code addr mask info).modOp o.name (fun x => { x with state := .done })
    | _ => s) s

/-- The record of a held trap (R283, R284): its image address stands in ADDR, or in MASK_B for TRAP and BRKPT. -/
def heldRecord (g : Group) (index : Nat) (t : DelTrap) (image : Dword) : FaultRec :=
  let own := t.code == 0x0601 || t.code == 0x0602
  { kind := t.kind, ctx := g.ctx, part := g.part, grp := g.gid, parent := g.start, precise := t.precise, parked := false
    caught := false
    slot := t.slot, wave := index, code := t.code, pc := t.pc, causal := t.causal, time := t.time
    hi := if t.kind == 4 then t.digest
      else hiFault t.maskA (if own then image else t.maskB) (if own then t.addr else image) g.lid t.info }

/-- The records of the held traps of a group, the freeze of its bin and the notification (R281). -/
def State.reportHeld (s : State) (g : Group) (code : Nat) (image : Dword) : State :=
  let s := g.trapped.foldl (fun s p =>
    if p.2.recorded then s
    else s.faultWrite (unitCore g.core0 0) (heldRecord g p.1 p.2 image)) s
  let x := (s.binAt g.run g.node).bind (fun b => b.batchOf g.launch)
  let s := s.modLaunch g.launch (fun l => { l with held := true })
  let s := s.freezeBin g.run g.node code ((x.map Batch.first).getD 0) g.gid x
  let causal := ((g.trapped.head?).map (fun p => p.2.causal)).getD 0
  s.notify g.ctx 2 g.gid.toNat causal

/-- A group that has no image is held in place, or goes on running when it was only pre-empted (R291). -/
def State.stayInPlace (s : State) (g : Group) (reason code : Nat) : State :=
  if reason = 0 then s.modGroup g.name (fun g => { g with state := .running })
  else (s.modGroup g.name (fun g => { g with state := .heldInPlace code })).reportHeld g code 0

/-- An address of a group's core as the group keeps it over a save. -/
def Group.keptAddr (g : Group) (a : Nat) : Nat := g.cores.idxOf (a / 2 ^ 20) * 2 ^ 20 + a % 2 ^ 20
/-- A kept address on the cores where the group is placed again. -/
def keptOn (cores : List Nat) (a : Nat) : Nat := cores.getD (a / 2 ^ 20) 0 * 2 ^ 20 + a % 2 ^ 20

/-- A watch of a barrier of the group, as the group keeps it. -/
def State.keptWatch (s : State) (g : Group) (w : Watch) : Watch :=
  { w with
    subject := g.keptAddr w.subject
    lateOps := (s.ops.filter (fun o => w.lateOps.contains o.name && (!o.ended || o.arrived))).map (fun o => o.causal.toNat) }

/-- A kept watch, on the cores where the group is placed again. -/
def State.watchAgain (s : State) (g : Group) (cores : List Nat) (w : Watch) : Watch :=
  { w with
    subject := keptOn cores w.subject
    lateOps := (s.ops.filter (fun o => o.group == g.name && w.lateOps.contains o.causal.toNat)).map EngineOp.name }

/-- The tracking and watches of a group's barriers come back (R239, R390; log 91): an object for which the unit has no entry left
is not tracked. -/
def State.restoreTracks (s : State) (g : Group) (cores : List Nat) : State :=
  let s := g.tracks.foldl (fun s t =>
    let a := keptOn cores t.addr
    s.setTrack { t with addr := a, tracked := t.tracked && s.trackedIn a < 64 }) s
  { s with watches := s.watches ++ g.watches.map (s.watchAgain g cores) }

/-- Step 6 of R288: what the launcher keeps of a saved group, and the release of its cores. The current waves of ordered mode
stay (R321). -/
def State.releaseGroup (s : State) (g : Group) (len : Nat) (enrolled : List Nat) : State :=
  let ws := s.groupWaves g.name
  let s := s.modCtx g.ctx (fun c => { c with
    saveUsed := c.saveUsed.map (fun u => if c.saveBase + BitVec.ofNat 64 u.1 == g.image then (u.1, len) else u) })
  let s := s.modGroup g.name (fun g => { g with
    state := .saved, imageLen := len, enrolled := enrolled
    unread := (s.savedOps g.name).filterMap (fun o => match o.kind with
      | .copy c => if c.recd.isNone && !o.ended then some (o.causal, c.recAddr) else none
      | _ => none)
    pending := ws.flatMap (fun w => w.traps.map (fun t => (w.index, t)))
    rewaits := ws.flatMap (fun w => [0, 1].filterMap (fun k =>
      (w.slotAt k).rewait.map (fun r => (w.index, k, r.1, r.2))))
    tracks := (s.tracks.filter (fun t => g.holds t.addr)).map (fun t => { t with addr := g.keptAddr t.addr })
    watches := (s.watches.filter (fun w => w.kind == 1 && g.holds w.subject)).map (s.keptWatch g)
    saved := ws.map Wave.allBlocks })
  let s := { s with ops := s.ops.filter (fun o => o.group != g.name) }
  let s := ws.foldl (fun s w => (s.dropWaiter w.name 0).dropWaiter w.name 1) s
  (s.leaveCores g).emitN g.part unitLauncher 0x0203 g.start g.parent len

/-- The image of a drained group is written and the group released; without room, or when a page of the save area fails,
the group stays in place (R291). What the group has written is performed for whatever it does after it resumes (R274). -/
def State.endDrain (s : State) (g : Group) (reason code : Nat) (room : Bool) : State :=
  let s := s.applyNotices
  let enrolled := s.enrolKeys g.name
  let head := s
  let s := (s.settleDrain g).deliverFaults g.name
  let g := (s.groupAt g.name).getD g
  if !room then s.stayInPlace g reason code
  else
    let len := (s.image g reason code).length
    let (s, fits) := if len ≤ g.imageLen then (s, true) else (s.freeRoom g).takeRoom g
    let g := (s.groupAt g.name).getD g
    if !fits then (s.saveFull g).stayInPlace g reason code
    else
      let bytes := { s with enrols := head.enrols }.image g reason code
      let (s, r) := s.gwrite g.start none g.ctx (g.image.extractLsb' 0 53).toNat bytes false
      match r with
      | .error e =>
          let s := ((s.saveRecord g (some (BitVec.ofNat 64 e.va))).saveFull g).freeRoom g
          (if reason = 0 && g.asked then s.noVictim g.ctx else s).stayInPlace g reason code
      | .ok () =>
          let s := s.releaseGroup g len enrolled
          if reason = 0 then s.modLaunch g.launch (fun l => { l with restore := g.name :: l.restore })
          else s.reportHeld g code g.image

/-- PREEMPT_DRAIN_COMPLETE (R288, R289, R291): instructions that only a chain holds back are ended first; when nothing of
the group is under way any more, the image is written. -/
def execPreemptDrainComplete (group : Nat) (s : State) : Out :=
  let s := s.unfocus
  match mget s.groups group with
  | none => .refused (.notEnabled "PREEMPT_DRAIN_COMPLETE")
  | some g =>
      match g.state with
      | .draining reason code room =>
          if s.chainStuck g.name then .next (s.endChains g.name)
          else gate "PREEMPT_DRAIN_COMPLETE" (s.drained g) (s.endDrain g reason code room)
      | _ => .refused (.notEnabled "PREEMPT_DRAIN_COMPLETE")

/-! ## Reading an image (R297) -/

/-- A little-endian field of n bytes at an offset. -/
def fieldAt (b : List Byte) (off n : Nat) : Nat := leNat ((b.drop off).take n)

/-- n bytes at an offset are zero. -/
def zeroAt (b : List Byte) (off n : Nat) : Bool := fieldAt b off n == 0

/-- The 64 lanes at an offset. -/
def lanesAt (b : List Byte) (off : Nat) : Lanes := let c := (b.drop off).take 256; lanesFn (fun i => leWord ((c.drop (4 * i)).take 4))

/-- Bytes of a wave record with what follows it. -/
def waveLen (b : List Byte) : Nat := 3584 + 64 * fieldAt b 249 1 + 2048 * fieldAt b 252 4

/-- Cut n wave records off an image. -/
def cutWaves : Nat → List Byte → List (List Byte) × List Byte
  | 0, b => ([], b)
  | n + 1, b =>
      let k := waveLen b
      let (ws, r) := cutWaves n (b.drop k)
      (b.take k :: ws, r)

/-- Cut n core sections off an image. -/
def cutCores (k : Nat) : Nat → List Byte → List (List Byte) × List Byte
  | 0, b => ([], b)
  | n + 1, b =>
      let (cs, r) := cutCores k n (b.drop k)
      (b.take k :: cs, r)

/-- Cut n engine records off an image. -/
def cutOps : Nat → List Byte → List (List Byte) × List Byte
  | 0, b => ([], b)
  | n + 1, b =>
      let k := 64 + fieldAt b 20 4
      let (os, r) := cutOps n (b.drop k)
      (b.take k :: os, r)

/-- An image in its parts. -/
structure Image where
  head  : Nat
  waves : List (List Byte)
  cores : List (List Byte)
  ops   : List (List Byte)
  rest  : List Byte
deriving DecidableEq, Repr

/-- Cut an image of a group into its parts. -/
def cutImage (g : Group) (b : List Byte) : Image :=
  let x := leNat (b.take 64)
  let (ws, r) := cutWaves g.waves (b.drop 64)
  let (cs, r) := cutCores g.coreBytes g.cores.length r
  let (os, r) := cutOps (bits x 383 368) r
  ⟨x, ws, cs, os, r⟩

/-- The header is that of the group: MAGIC, VERSION, reserved fields, the counts and IMAGE_BYTES (R297). -/
def headOk (g : Group) (len x : Nat) : Bool :=
  bits x 31 0 == 0x14749 && bits x 157 128 == 0 && bits x 263 260 == 0 && bits x 367 352 == 0 && bits x 415 384 == len &&
    bits x 63 32 == g.spadSize && bits x 164 158 == g.semCount && bits x 165 165 == b2n g.ordered &&
    bits x 166 166 == b2n g.matrix && bits x 167 167 == b2n g.cluster && bits x 175 168 == g.waves - 1

/-- Offsets of the two slots in a wave record. -/
def slotOff (k : Nat) : Nat := 320 + 32 * k

/-- The lanes of a slot, if it is valid. -/
def slotLanes (b : List Byte) (k : Nat) : Dword :=
  if fieldAt b (slotOff k + 4) 1 = 1 then BitVec.ofNat 64 (fieldAt b (slotOff k + 8) 8) else 0

/-- A slot's reserved bits and depth (R297). -/
def slotOk (b : List Byte) (k : Nat) : Bool :=
  fieldAt b (slotOff k + 4) 1 < 2 && fieldAt b (slotOff k + 7) 1 ≤ 63 && zeroAt b (slotOff k + 25) 7

/-- Blocks of frame record j, when it is valid. -/
def frameBlocks (b : List Byte) (j : Nat) : Nat :=
  let r := fieldAt b (2560 + 8 * j) 8
  if r.testBit 36 then bits r 35 32 else 0

/-- A stack entry's reserved bytes, slot and depth. -/
def stkOk (b : List Byte) (i : Nat) : Bool :=
  let o := 3584 + 64 * i
  zeroAt b (o + 11) 5 && zeroAt b (o + 56) 8 && fieldAt b (o + 9) 1 ≤ 63 && fieldAt b (o + 10) 1 < 2

/-- A wave record passes R297, with the given numbers of saved records of each class. -/
def waveOk (b : List Byte) (saved : Nat → Nat) : Bool :=
  let live : Dword := BitVec.ofNat 64 (fieldAt b 232 8)
  let m0 := slotLanes b 0
  let m1 := slotLanes b 1
  zeroAt b 304 16 && zeroAt b 384 128 && fieldAt b 248 1 < 32 && fieldAt b 224 4 < 64 && fieldAt b 240 8 < 2 ^ 50 &&
    slotOk b 0 && slotOk b 1 && (m0 &&& m1 == 0) && ((m0 ||| m1) &&& ~~~live == 0) && fieldAt b 249 1 ≤ 64 &&
    (List.range (fieldAt b 249 1)).all (stkOk b) && fieldAt b 230 1 ≤ 63 && fieldAt b 270 1 ≤ 63 && fieldAt b 271 1 < 2 &&
    (List.range 128).all (fun j => fieldAt b (2560 + 8 * j) 8 / 2 ^ 37 == 0) &&
    fieldAt b 252 4 == ((List.range 128).map (frameBlocks b)).sum &&
    (List.range 5).all (fun c => saved c ≤ bits (fieldAt b 240 8) (10 * c + 9) (10 * c))

/-- A core section's reserved bytes. -/
def coreOk (g : Group) (b : List Byte) : Bool :=
  (List.range 64).all (fun k => zeroAt b (g.spadSize + 8 * k + 2) 6 && (k < g.semCount || zeroAt b (g.spadSize + 8 * k) 2)) &&
    (!g.matrix || (zeroAt b (g.spadSize + 512 + 34819) 1 && zeroAt b (g.spadSize + 512 + 34836) 44 &&
      fieldAt b (g.spadSize + 512 + 34818) 1 < 2))

/-- An engine record's class, body length and reserved bytes. -/
def opOk (g : Group) (b : List Byte) : Bool :=
  let body := fieldAt b 20 4
  zeroAt b 32 32 && fieldAt b 13 1 < g.waves && fieldAt b 14 1 < 2 && fieldAt b 15 1 < 2 &&
    (match fieldAt b 12 1 with
     | 0 => body == 128 && zeroAt b 147 45 && fieldAt b 145 1 < 2 && fieldAt b 146 1 < 2
     | 1 => (body == 832 || body == 1856) && zeroAt b 74 6 && zeroAt b 848 48 && fieldAt b 72 1 ≤ 4 && fieldAt b 73 1 < 2
     | _ => false)

/-- The image passes every check of R297; no part is shorter than its counts say. -/
def Image.ok (m : Image) (g : Group) (len : Nat) : Bool :=
  let saved (w c : Nat) : Nat := (m.ops.filter (fun b => fieldAt b 13 1 == w && fieldAt b 12 1 == c)).length
  headOk g len m.head && m.rest.isEmpty && m.waves.all (fun b => b.length == waveLen b) &&
    m.cores.all (fun b => b.length == g.coreBytes) && m.ops.all (fun b => b.length == 64 + fieldAt b 20 4) && (m.waves.mapIdx (fun i b => waveOk b (saved i))).all id && m.cores.all (coreOk g) &&
    m.ops.all (opOk g) &&
    len == 64 + ((m.waves ++ m.cores ++ m.ops).map List.length).sum

/-! ## GROUP_RESTORE (R297) -/

/-- A stack entry of an image. -/
def stkAt (b : List Byte) (i : Nat) : Nat × StkEntry :=
  let o := 3584 + 64 * i
  let d (k : Nat) : Dword := BitVec.ofNat 64 (fieldAt b (o + k) 8)
  (fieldAt b (o + 10) 1,
    { jpc := BitVec.ofNat 32 (fieldAt b o 4), dpc := BitVec.ofNat 32 (fieldAt b (o + 4) 4)
      token := BitVec.ofNat 8 (fieldAt b (o + 8) 1), fdepth := fieldAt b (o + 9) 1, outer := d 16, expect := d 24
      arrived := d 32, resume := d 40, deferred := d 48 })

/-- A slot of an image, not parked. -/
def slotFrom (b : List Byte) (k : Nat) : Slot :=
  let o := slotOff k
  let stk := ((List.range (fieldAt b 249 1)).map (stkAt b)).filter (fun p => p.1 == k)
  { Slot.off with
    valid := fieldAt b (o + 4) 1 == 1, pc := BitVec.ofNat 32 (fieldAt b o 4), sbase := fieldAt b (o + 6) 1
    depth := fieldAt b (o + 7) 1, mask := BitVec.ofNat 64 (fieldAt b (o + 8) 8)
    level := BitVec.ofNat 64 (fieldAt b (o + 16) 8), stk := stk.map Prod.snd }

/-- The frames of an image from record j on, their blocks at an offset; none holds pool blocks yet. -/
def framesFrom (b : List Byte) : Nat → Nat → Nat → AMap Frame
  | 0, _, _ => []
  | n + 1, j, off =>
      let k := frameBlocks b j
      let r := fieldAt b (2560 + 8 * j) 8
      if r.testBit 36 then
        (j, ⟨BitVec.ofNat 32 r, k, [], true, (List.range (8 * k)).map (fun i => lanesAt b (off + 256 * i))⟩) ::
          framesFrom b n (j + 1) (off + 2048 * k)
      else framesFrom b n (j + 1) off

/-- The top split of an image. -/
def topFrom (b : List Byte) : TopSplit :=
  let d (k : Nat) : Dword := BitVec.ofNat 64 (fieldAt b k 8)
  { pending := fieldAt b 271 1 == 1, jpc := BitVec.ofNat 32 (fieldAt b 264 4), token := BitVec.ofNat 8 (fieldAt b 268 1)
    hbase := fieldAt b 269 1, sdepth := fieldAt b 270 1, outer := d 272, expect := d 280, arrived := d 288, resume := d 296 }

/-- A latch word, when its STATE bit says that it is valid. -/
def latchAt (b : List Byte) (k off : Nat) : Option Word :=
  if (fieldAt b 248 1).testBit k then some (BitVec.ofNat 32 (fieldAt b off 4)) else none

/-- The wave of a record, for wave i of a group. A fragment that the host has moved waits for nothing of its old word (R241, R282). -/
def waveFrom (g : Group) (i core : Nat) (b : List Byte) : Wave :=
  let live : Dword := BitVec.ofNat 64 (fieldAt b 232 8)
  let rewait (k : Nat) : Option (Word × Nat) :=
    (g.rewaits.find? (fun r => r.1 == i && r.2.1 == k && r.2.2.1 == (slotFrom b k).pc)).map (fun r => r.2.2)
  { Wave.off with
    group := g.name, core := core, index := i, life := if live = 0 then .stopped else .running
    slot0 := { slotFrom b 0 with rewait := rewait 0 }, slot1 := { slotFrom b 1 with rewait := rewait 1 }, top := topFrom b
    live := live, tokctr := BitVec.ofNat 8 (fieldAt b 231 1), cur := fieldAt b 248 1 % 2, ftimer := fieldAt b 250 2
    sregs := Vector.ofFn (fun r : Fin 56 => BitVec.ofNat 32 (fieldAt b (4 * r.val) 4))
    aregs := Vector.ofFn (fun r : Fin 7 => lanesAt b (768 + 256 * r.val))
    frames := framesFrom b 128 0 (3584 + 64 * fieldAt b 249 1), mark := fieldAt b 230 1
    ecnt := Vector.ofFn (fun c : Fin 5 => bits (fieldAt b 240 8) (10 * c.val + 9) (10 * c.val))
    flags := BitVec.ofNat 6 (fieldAt b 224 4), window := BitVec.ofNat 16 (fieldAt b 228 2), draws := lanesAt b 512
    cycleHi := latchAt b 1 256, timeHi := latchAt b 2 260, halted := (fieldAt b 248 1).testBit 3
    traps := (g.pending.filter (fun p => p.1 == i)).map Prod.snd }

/-- Put a restored wave on its core, its frames with pool blocks. -/
def State.restoreWave (s : State) (g : Group) (core : Nat) (i : Nat) (b : List Byte) : State :=
  let n := s.names
  let w := waveFrom g i core b
  (s.addWave w).unspill n (w.frames.map Prod.fst)

/-- Park a restored fragment again (R293): a top join, a frame wait at a CALL or for frames of its own, a HALTW. -/
def State.reparkSlot (s : State) (code k : Nat) : State :=
  s.inSlot k (fun s =>
    match code with
    | 1 => s.park .topJoin
    | 2 =>
        match s.fetch.2 with
        | .instr (.call dem off) => s.park (.frame (.call dem (s.pc + off.signExtend 32) (s.pc + sizeWord (.call dem off))))
        | .instr (.calli dem a) => s.park (.frame (.call dem (s.ssrc a) (s.pc + sizeWord (.calli dem a))))
        | _ => s.park (.frame .restore)
    | 8 => s.park .halt
    | _ => s)

/-- Issue the SEMACQ of a restored fragment again (R244). -/
def State.requeue (s : State) (k : Nat) : State :=
  s.inSlot k (fun s => match s.fetch.2 with
    | .instr (.semacq d a b) => if s.slot.valid then s.semacq d a b else s
    | _ => s)

/-- Do something to a wave of the group, by its index, in focus. -/
def State.onWave (s : State) (g i : Nat) (f : State → State) : State :=
  match (s.groupWaves g).find? (fun w => w.index == i) with
  | some w => (f (s.focus w.name)).unfocus
  | none => s

/-- The operation of an engine record. A copy with every element done had ended (R296); one that had not read its record reads it
now (log 84). The record names no leader lane, so the record of a later fault of the copy has MASK_A 0 (log 54). -/
def opFrom (g : Group) (name wave core now : Nat) (b : List Byte) : EngineOp :=
  let causal : Dword := BitVec.ofNat 64 (fieldAt b 0 8)
  let unread := (g.unread.find? (fun u => u.1 == causal)).map Prod.snd
  let page : Dword := BitVec.ofNat 64 (fieldAt b 24 8)
  let parked := fieldAt b 15 1 == 1
  let todo : Dword := BitVec.ofNat 64 (fieldAt b 64 8)
  let vb : Word := BitVec.ofNat 32 (fieldAt b 140 4)
  let copy := fieldAt b 12 1 == 0
  let kind : OpKind :=
    if copy then .copy {
      recAddr := unread.getD 0, recd := if unread.isSome then none else some (fieldAt b 64 64), bar := if vb.getLsbD 31 then none else some vb
      peal := if fieldAt b 145 1 = 1 then some (fieldAt b 144 1) else none, left := true, nt := fieldAt b 146 1 == 1
      low := fieldAt b 136 4, doneMap := BitVec.ofNat 64 (fieldAt b 128 8), sent := [], got := [], asked := [], fills := []
      plain := [] }
    else .gather {
      scatter := fieldAt b 20 4 == 1856, size := 2 ^ fieldAt b 72 1, nt := fieldAt b 73 1 == 1
      ea := (List.range 64).map (fun i => BitVec.ofNat 64 (fieldAt b (80 + 8 * i) 8))
      sa := (List.range 64).map (fun i => BitVec.ofNat 32 (fieldAt b (592 + 4 * i) 4))
      data := if fieldAt b 20 4 = 1856 then
          (List.range 64).map (fun i => ((b.drop (896 + 16 * i)).take 16).take (2 ^ fieldAt b 72 1)) else []
      notDone := todo, sent := 0, lanes := todo }
  { name := name, wave := wave, group := g.name, core := core, slot := fieldAt b 14 1, pc := BitVec.ofNat 32 (fieldAt b 8 4)
    causal := causal, cls := if copy then .bcopy else .gather
    sel := BitVec.ofNat 16 (fieldAt b 18 2), kind := kind
    state := if copy && unread.isNone && copyTotal (fieldAt b 64 64) ≤ fieldAt b 136 4 then .done else .going
    flags := 0, since := now, lead := 0
    last := if parked then some page else none, fenced := none }

/-- Restart the engine records in ORDINAL order. -/
def State.restoreOps (s : State) (g : Group) (ops : List (List Byte)) : State :=
  let ordered := (List.range 1024).flatMap (fun n => ops.filter (fun b => fieldAt b 16 2 == n))
  ordered.foldl (fun s b =>
    match (s.groupWaves g.name).find? (fun w => w.index == fieldAt b 13 1) with
    | some w => { s.fresh with ops := s.ops ++ [opFrom g s.names w.name w.core s.time b] }
    | none => s) s

/-- Restore the section of a core. -/
def State.restoreCore (s : State) (g : Group) (core : Nat) (b : List Byte) : State :=
  let s := { s with spad := cwrite 0 s.spad (spadAddr core g.spadBase) (b.take g.spadSize) }
  let sem (k : Nat) : Nat := fieldAt b (g.spadSize + 8 * k) 2
  let s := s.modCore core (fun c => { c with
    sems := (List.range g.semCount).foldl (fun m k => mset m (g.semBase + k) (sem k, [])) c.sems })
  if g.matrix then
    let m := b.drop (g.spadSize + 512)
    s.modCore core (fun c => { c with
      plane0 := cwrite 0 [] 0 (m.take 16384), plane1 := cwrite 0 [] 0 ((m.drop 16384).take 16384)
      scale0 := cwrite 0x7F#8 [] 0 ((m.drop 32768).take 1024)
      scale1 := cwrite 0x7F#8 [] 0 ((m.drop 33792).take 1024)
      tag0 := BitVec.ofNat 3 (fieldAt m 34816 1), tag1 := BitVec.ofNat 3 (fieldAt m 34817 1)
      active := fieldAt m 34818 1 == 1
      msc := Vector.ofFn (fun i : Fin 4 => BitVec.ofNat 32 (fieldAt m (34820 + 4 * i.val) 4)) })
  else s

/-- The core of wave i of a group on the given cores. -/
def coreOf (cores : List Nat) (i : Nat) : Nat := cores.getD (i % max 1 cores.length) 0

/-- Remake the enrolments that the save ended (R198, R297). -/
def State.restoreEnrols (s : State) (g : Group) (cores : List Nat) : State :=
  g.enrolled.foldl (fun s k =>
    match g.peal (k / 4), cores.find? (fun c => cores.length == 1 || c % 4 == k % 4) with
    | some d, some c => (s.enrol g d c).1
    | _, _ => s) s

/-- PARK codes of the two slots of a wave record. -/
def parkAt (b : List Byte) (k : Nat) : Nat := if fieldAt b (slotOff k + 4) 1 = 1 then fieldAt b (slotOff k + 5) 1 else 0

/-- Fragments that waited for a semaphore, as wave and slot, in the order in which they had stood. -/
def queuedSlots (waves : List (List Byte)) : List (Nat × Nat) :=
  let all := (List.zip (List.range waves.length) waves).flatMap (fun p =>
    [0, 1].filterMap (fun k => if parkAt p.2 k = 5 then some (fieldAt p.2 (slotOff k + 24) 1, p.1, k) else none))
  (List.range 256).flatMap (fun r => (all.filter (fun x => x.1 == r)).map Prod.snd)

/-- The current waves of ordered mode on the cores where a group is placed again: a save and a restore are no switch point
(R321). -/
def Group.currentOn (g : Group) (cores : List Nat) : AMap Nat :=
  (List.zip g.cores cores).foldl (fun m p => match mget g.current p.1 with
    | some w => mset m p.2 w
    | none => m) []

/-- Restore a group from an image that has passed, on the given cores. Its accesses come after all that it did before the save
(R274). -/
def State.restoreGroup (s : State) (g : Group) (m : Image) (len : Nat) (cores : List Nat) : State :=
  let chime : Word := BitVec.ofNat 32 (bits m.head 447 416)
  let h : Group := { g with
    state := .running, core0 := cores.headD 0, digest := BitVec.ofNat 64 (bits m.head 511 448)
    chime := if chime = 0xFFFFFFFF#32 then none else some chime, current := g.currentOn cores }
  let s := s.claim h
  let waves := List.zip (List.range m.waves.length) m.waves
  let s := waves.foldl (fun s p => s.restoreWave h (coreOf cores p.1) p.1 p.2) s
  let s := (List.zip cores m.cores).foldl (fun s p => s.restoreCore h p.1 p.2) s
  let s := waves.foldl (fun s p => s.onWave g.name p.1 (fun s =>
    (s.reparkSlot (parkAt p.2 0) 0).reparkSlot (parkAt p.2 1) 1)) s
  let s := match g.resumed with
    | some skip => s.resumeWaves h skip
    | none => s
  let s := ((s.restoreOps g m.ops).restoreTracks h cores).restoreEnrols h cores
  let s := (queuedSlots m.waves).foldl (fun s p => s.onWave g.name p.1 (fun s => s.requeue p.2)) s
  let s := s.emitN g.part unitLauncher 0x0204 g.start g.parent len
  let s := s.applyNotices.snapshot (dieOf h.core0)
  (s.freeRoom h).modGroup g.name (fun g => { g with
    current := h.current, trapped := [], heldAt := none, pending := [], rewaits := [], unread := [], enrolled := [], saved := [], resumed := none
    tracks := [], watches := [] })

/-- A refused image (R297): the group stays held, and a record says so. -/
def State.refuseImage (s : State) (g : Group) : State :=
  let (s, h) := s.slotHead g.ctx g.recAddr
  let pos := ((mget s.launches g.launch).map Launch.batch).getD 0
  let id := leDword ((h.drop 8).take 8)
  let s := s.taskRecord g.ctx 0x0903 g.gid id (s.parentOf id) g.node pos h
  s.modGroup g.name (fun g => { g with resumed := none })

/-- GROUP_RESTORE (R297, R319): the launcher places a saved group again; its image is checked before anything runs. -/
def execGroupRestore (group : Nat) (s : State) : Out :=
  let s := s.unfocus
  match mget s.groups group with
  | none => .refused (.notEnabled "GROUP_RESTORE")
  | some g =>
      match s.choice g.part with
      | some (r, cores, _, _) =>
          gate "GROUP_RESTORE" (r.next == .restore group) (
            let s := s.modLaunch g.launch (fun l => { l with restore := l.restore.filter (· != group) })
            let (s, b) := s.launcherRead g.ctx (g.image &&& 0x1FFFFFFFFFFFFF#64) g.imageLen
            match b with
            | none => s.refuseImage g
            | some b =>
                let m := cutImage g b
                if m.ok g g.imageLen then (s.dispatched g.part r).restoreGroup g m g.imageLen cores
                else s.refuseImage g)
      | none => .refused (.notEnabled "GROUP_RESTORE")

end Sys2Proof.Machine
end

