-- ==== Sys2Proof/Machine/Chime.lean ====
section
/-!
DEFINITION. Sys2Proof/Machine/Chime.lean: phase digests, CHIMECHK and the re-execution of a phase (R301 to R303).
-/

namespace Sys2Proof.Machine

/-! ## The phase digest (R301) -/

/-- `chime64`. -/
def chime64 (h : Dword) : Dword :=
  let lo := mix (loWord h ^^^ 0x9E3779B9#32)
  let hi := mix (hiWord h ^^^ lo)
  pairOf (mix (lo ^^^ hi)) hi

/-- The phase digest over n entries of a log, from entry i on. -/
def phaseDigest : Nat → Nat → List Byte → Dword → Dword
  | 0, _, _, p => p
  | n + 1, i, b, p =>
      let digest := leDword (b.take 8)
      let groups := leNat ((b.drop 8).take 4)
      let p := if groups = 0 then p else chime64 (p ^^^ digest ^^^ BitVec.ofNat 64 (groups * 2 ^ 32 ||| i))
      phaseDigest n (i + 1) (b.drop 16) p

/-- The lowest index at which two logs differ, among the first n entries (R303): all ones when they do not. -/
def lowestDiff : Nat → Nat → List Byte → List Byte → Word
  | 0, _, _, _ => 0xFFFFFFFF#32
  | n + 1, i, a, b => if a.take 12 = b.take 12 then lowestDiff n (i + 1) (a.drop 16) (b.drop 16) else BitVec.ofNat 32 i

/-! ## The record (R302) -/

/-- A chime record. -/
structure ChimeRec where
  base     : Dword
  len      : Nat
  mode     : Nat
  nextBase : Dword
  nextLen  : Nat
  comm     : Nat
  nextMax  : Nat
  expected : Dword
  expLog   : Dword
deriving DecidableEq, Repr

/-- Read a chime record. -/
def ChimeRec.ofNat (x : Nat) : ChimeRec :=
  { base := BitVec.ofNat 64 (bits x 63 0), len := bits x 95 64, mode := bits x 115 112
    nextBase := BitVec.ofNat 64 (bits x 191 128), nextLen := bits x 223 192, comm := bits x 239 224
    nextMax := bits x 255 240, expected := BitVec.ofNat 64 (bits x 319 256), expLog := BitVec.ofNat 64 (bits x 383 320) }

/-- The record's reserved field and codes. -/
def chimeRecOk (x : Nat) : Bool := bits x 127 117 == 0 && bits x 115 112 < 4 && 1 ≤ bits x 95 64 && bits x 95 64 ≤ 2 ^ 24

/-- The rank of a context of this package on a two-rank communicator. -/
def State.chimeRank (s : State) (comm ctx : Nat) : Option Nat :=
  match mget s.comms comm with
  | none => none
  | some c => if c.ranks.length = 2 then [0, 1].find? (fun k => c.ranks[k]? == some (s.hub.config.device, ctx)) else none

/-! ## The operation -/

/-- CHIMECHK (R302). -/
def execChimechk (d : SReg) (a : SPair) (s : State) : Out :=
  .next (s.engineIssue (.chimechk d a) .coll (fun _ => none) (fun _ => none) (fun s =>
    s.startOp .coll (.chime {
      addr := s.pget a, sd := d, recd := none, rerun := false, ready := false, first := 0, own := 0, other := 0
      lowest := 0xFFFFFFFF#32, status := 0 })))

/-- Change the chime check of an operation. -/
def State.modChime (s : State) (n : Nat) (f : ChimeOp → ChimeOp) : State :=
  s.modOp n (fun o => match o.kind with
    | .chime c => { o with kind := .chime (f c) }
    | _ => o)

/-- Read the record and check it. -/
def State.chimeStart (s : State) (o : EngineOp) (c : ChimeOp) : State :=
  if c.addr.extractLsb' 53 11 ≠ 0 then s.failOp o 0x0702 c.addr 0
  else if c.addr.toNat % 64 ≠ 0 then s.failOp o 0x0708 c.addr 0
  else
    let (s, r) := s.collRead o c.addr 64
    match r with
    | .error (code, a) => s.failOp o code a 0
    | .ok b =>
        let x := leNat b
        let rank := s.chimeRank (ChimeRec.ofNat x).comm (s.opCtx o)
        if !chimeRecOk x then s.failOp o 0x0708 c.addr 0
        else if (ChimeRec.ofNat x).mode = 3 && !s.feature 2 then s.failOp o 0x0106 c.addr 0
        else if (ChimeRec.ofNat x).mode = 3 && rank.isNone then s.failOp o 0x0708 c.addr 0
        else s.modChime o.name (fun c => { c with recd := some x })

/-- Write a field of the record. -/
def State.chimeWrite (s : State) (o : EngineOp) (c : ChimeOp) (off : Nat) (b : List Byte) : State × Option MemFail :=
  let (s, r) := s.opWrite o ((c.addr.extractLsb' 0 53).toNat + off) b false
  match r with
  | .ok () => (s, none)
  | .error e => (s, some e)

/-- Write several fields; the first failure ends the writing. -/
def State.chimeWrites (s : State) (o : EngineOp) (c : ChimeOp) : List (Nat × List Byte) → State × Option MemFail
  | [] => (s, none)
  | (off, b) :: rest =>
      match s.chimeWrite o c off b with
      | (s, none) => s.chimeWrites o c rest
      | (s, some e) => (s, some e)

/-- The code and address of a failure in global memory, for an operation that does not park. -/
def MemFail.fatal (e : MemFail) : Nat × Dword :=
  (e.err.code, BitVec.ofNat 64 (if e.err == .notPresent then pageOf e.va else e.va))

/-- The next phase opens (R302, step 3). -/
def Ctx.nextPhase (c : Ctx) (r : ChimeRec) : Ctx :=
  { c with
    phase := c.phase + 1, logBase := r.nextBase, logLen := r.nextLen
    cmdMax := r.nextMax, cmdCount := 0, cmdQueues := []
    replay := none, replayLost := false, serial := false, stopped := false }

/-- The message of a chime check on a communicator. -/
def SeqMsg.saysChime (comm phase rank : Nat) (rerun : Bool) : SeqMsg → Option (Dword × List Byte)
  | .chime c p k d r l => if c = comm && p = phase && k = rank && r = rerun then some (d, l) else none
  | _ => none

/-- What the other rank has said about a phase. -/
def State.chimeSaid (s : State) (comm phase rank : Nat) (rerun : Bool) : Option (Dword × List Byte) :=
  ((mget s.comms comm).map Comm.said).bind (List.findSome? (SeqMsg.saysChime comm phase rank rerun))

/-- A chime message is known to this package. -/
def State.chimeHear (s : State) (comm : Nat) (m : SeqMsg) : State :=
  { s with comms := mmod s.comms comm (fun c => if c.said.contains m then c else { c with said := c.said ++ [m] }) }

/-- The messages of a phase are over. -/
def State.chimeForget (s : State) (comm phase : Nat) : State :=
  let old (m : SeqMsg) : Bool := match m with
    | .chime _ p _ _ _ _ => p < phase
    | _ => false
  { s with comms := mmod s.comms comm (fun c => { c with said := c.said.filter (fun m => !old m) }) }

/-- The phase number of a context. -/
def State.phaseOf (s : State) (ctx : Nat) : Nat := ((mget s.ctxs ctx).map (fun c => c.phase.toNat)).getD 0

/-- REPLAY_LOST of a context. -/
def State.lostOf (s : State) (ctx : Nat) : Bool := ((mget s.ctxs ctx).map Ctx.replayLost).getD false

/-- The next phase opens with the runs that were placed during a re-execution: their commands are copied and their launches
form. -/
def State.openPhase (s : State) (ctx : Nat) (r : ChimeRec) : State :=
  let s := s.modCtx ctx (fun c => c.nextPhase r)
  let rs := (s.runs.map Prod.snd).filter (fun x => x.ctx == ctx && x.placed && x.phase.toNat == s.phaseOf ctx)
  (rs.foldl State.copyCommand s).formAll ctx

/-- End a check with a status and the fields to write (R302). -/
def State.chimeEnd (s : State) (o : EngineOp) (c : ChimeOp) (x status : Nat) (fields : List (Nat × List Byte)) : State :=
  let r := ChimeRec.ofNat x
  let ctx := s.opCtx o
  let flag := (14, leBytes 1 (bits x 115 112 + 16 * b2n (s.lostOf ctx)))
  let (s, e) := s.chimeWrites o c (fields ++ [flag, (60, leBytes 4 status)])
  match e with
  | some e => s.failOp o e.fatal.1 e.fatal.2 0
  | none =>
      let s := s.modChime o.name (fun c => { c with status := status })
      let s := if r.mode = 3 then s.chimeForget r.comm (s.phaseOf ctx) else s
      if status = 3 then
        let s := s.modCtx ctx (fun c => { c with replay := none, serial := false, stopped := true })
        let s := s.notify ctx 4 (s.phaseOf ctx) o.causal
        match s.opAt o.name with
        | some o => s.failOp o 0x0801 0 0
        | none => s
      else
        let s := s.openPhase ctx r
        (s.modOp o.name (fun x => { x with state := .done })).settleOp o

/-- The log of the phase: its bytes. -/
def State.chimeLogBytes (s : State) (o : EngineOp) (r : ChimeRec) : State × Except (Nat × Dword) (List Byte) :=
  s.collRead o r.base (16 * r.len)

/-- Tell the other rank a digest, with the log it comes from. -/
def State.chimeTell (s : State) (o : EngineOp) (r : ChimeRec) (digest : Dword) (rerun : Bool) (log : List Byte) : State :=
  let ctx := s.opCtx o
  match s.chimeRank r.comm ctx with
  | none => s
  | some k =>
      let m : SeqMsg := .chime r.comm (s.phaseOf ctx) k digest rerun log
      (s.chimeHear r.comm m).seqSend r.comm k o.causal m

/-- What the other rank has said to a check of this package. -/
def State.chimePeer (s : State) (o : EngineOp) (r : ChimeRec) (rerun : Bool) : Option (Dword × List Byte) :=
  (s.chimeRank r.comm (s.opCtx o)).bind (fun k => s.chimeSaid r.comm (s.phaseOf (s.opCtx o)) (1 - k) rerun)

/-- The digests differ (R303, steps 1 to 3): nothing is dispatched for the context any more, both digests and LOWEST are
recorded, and the phase is re-executed unless commands of it were lost. -/
def State.chimeDiffer (s : State) (o : EngineOp) (c : ChimeOp) (x : Nat) (other : Dword) (lowest : Word) : State :=
  let r := ChimeRec.ofNat x
  let ctx := s.opCtx o
  let free : Dword := pairOf (Config.freeWord s.oracle) (Config.freeWord (s.oracle + 1))
  let lost := s.lostOf ctx
  let s := if lost then { s with oracle := s.oracle + 2 } else s
  let s := s.modCtx ctx (fun c => { c with stopped := true })
  let s := s.modChime o.name (fun c => { c with other := other, lowest := lowest, own := if lost then free else 0 })
  let o := (s.opAt o.name).getD o
  let fields := [(48, leBytes 8 c.first.toNat), (56, leBytes 4 lowest.toNat)] ++
    (if r.mode = 3 then [(32, leBytes 8 other.toNat)] else [])
  if lost then s.chimeEnd o c x 3 fields
  else
    let (s, e) := s.chimeWrites o c fields
    let (s, e) := match e with
      | some e => (s, some e)
      | none =>
          let (s, w) := s.opWrite o (r.base.extractLsb' 0 53).toNat (zeros (16 * r.len)) false
          match w with
          | .ok () => (s, none)
          | .error e => (s, some e)
    match e with
    | some e => s.failOp o e.fatal.1 e.fatal.2 0
    | none =>
        let s := s.modCtx ctx (fun c => { c with replay := some (o.name, 0), serial := true })
        s.modChime o.name (fun c => { c with rerun := true })

/-- The phase is over: act by MODE (R302, step 2). MODE 0 is said both to write P to RESULT and to write no digest: whether
it does is free. -/
def State.chimeCheck (s : State) (o : EngineOp) (c : ChimeOp) (x : Nat) : State :=
  let r := ChimeRec.ofNat x
  let (s, b) := s.chimeLogBytes o r
  match b with
  | .error (code, a) => s.failOp o code a 0
  | .ok b =>
      let p := phaseDigest r.len 0 b 0
      let s := s.modChime o.name (fun c => { c with ready := true, first := p })
      let c := { c with ready := true, first := p }
      let o := (s.opAt o.name).getD o
      let result := (48, leBytes 8 p.toNat)
      match r.mode with
      | 0 =>
          let writes := Config.pick s.oracle 2 == 0
          let s := { s with oracle := s.oracle + 1 }
          s.chimeEnd o c x 2 (if writes then [result] else [])
      | 1 => s.chimeEnd o c x 2 [result]
      | 2 =>
          if p = r.expected then s.chimeEnd o c x 0 [result]
          else
            let (s, l) : State × List Byte :=
              if r.expLog = 0 then (s, b)
              else
                let (s, l) := s.collRead o r.expLog (16 * r.len)
                (s, match l with
                  | .ok l => l
                  | .error _ => b)
            s.chimeDiffer o c x r.expected (lowestDiff r.len 0 b l)
      | _ => s.chimeTell o r p false b

/-- The replica's digest is here (R302, R303). -/
def State.chimeMeet (s : State) (o : EngineOp) (c : ChimeOp) (x : Nat) (other : Dword) (log : List Byte) : State :=
  let r := ChimeRec.ofNat x
  if c.first = other then
    s.chimeEnd o c x 0 [(48, leBytes 8 c.first.toNat), (32, leBytes 8 other.toNat)]
  else
    let (s, b) := s.chimeLogBytes o r
    match b with
    | .error (code, a) => s.failOp o code a 0
    | .ok b => s.chimeDiffer o c x other (lowestDiff (max r.len (log.length / 16)) 0 b log)

/-! ## CHIMECHK_PHASE_READY (R302, R303) -/

/-- Every run of the phase but the group's own has completed, and every other group of that run has retired. -/
def State.phaseOver (s : State) (g : Group) : Bool :=
  (s.runs.map Prod.snd).all (fun r =>
    if r.name = g.run then s.graphCount r ≤ 1 else r.ctx != g.ctx || r.phase.toNat != s.phaseOf g.ctx)

/-- The oldest chime check of its context. -/
def State.firstChime (s : State) (o : EngineOp) : Bool :=
  ((s.ops.find? (fun x => s.opCtx x == s.opCtx o && !x.ended && (match x.kind with
    | .chime _ => true
    | _ => false))).map EngineOp.name) == some o.name

/-- A chime check can go on: its record is to be read, its phase is over, or the replica has answered. -/
def State.chimeReady (s : State) (op : Nat) : Bool :=
  match s.opAt op with
  | none => false
  | some o =>
      match o.kind, o.state, s.groupAt o.group with
      | .chime c, .going, some g =>
          s.firstChime o && !c.rerun && (match c.recd with
            | none => true
            | some x => if c.ready then (s.chimePeer o (.ofNat x) false).isSome else s.phaseOver g)
      | _, _, _ => false

/-- CHIMECHK_PHASE_READY (R302, R303): the record is read; when the phase is over its digest is compared. -/
def execChimechkPhaseReady (op : Nat) (s : State) : Out :=
  let s := s.unfocus
  gate "CHIMECHK_PHASE_READY" (s.chimeReady op) (
    match s.opAt op with
    | none => s
    | some o =>
        match o.kind with
        | .chime c =>
            match c.recd with
            | none => s.chimeStart o c
            | some x =>
                if c.ready then
                  match s.chimePeer o (.ofNat x) false with
                  | some (d, l) => s.chimeMeet o c x d l
                  | none => s
                else s.chimeCheck o c x
        | _ => s)

/-! ## CHIMECHK_REEXECUTION_DONE (R303) -/

/-- Nothing of a run is left but groups that have reached a CHIMECHK. -/
def State.onlyChecks (s : State) (r : Run) : Bool :=
  let n := (s.allGroups.filter (fun g => g.run == r.name && s.atCheck g.name)).length
  r.placed && 0 < n && s.graphCount r ≤ n

/-- The runs that the serial re-execution of a context has started are over (log 48). -/
def State.serialIdle (s : State) (ctx : Nat) : Bool :=
  (s.runs.map Prod.snd).all (fun r => r.ctx != ctx || !r.serial || s.onlyChecks r)

/-- The next command slot of a re-execution, and its queue. -/
def State.replayNext (s : State) (ctx : Nat) : Option (Nat × Nat) :=
  match mget s.ctxs ctx with
  | none => none
  | some c =>
      match c.replay with
      | none => none
      | some (_, k) =>
          ((List.range c.cmdQueues.length).filterMap (fun i =>
            let q := c.cmdQueues.getD i (0, 0)
            if k ≤ i then some (i, q.2) else none)).head?

/-- Launch the command of a slot again, as a serial run. -/
def State.replayCommand (s : State) (o : EngineOp) (r : ChimeRec) (slot queue : Nat) : State :=
  let ctx := s.opCtx o
  let va := r.base + BitVec.ofNat 64 (16 * r.len + 64 * slot)
  let s := s.modCtx ctx (fun c => { c with replay := some (o.name, slot + 1) })
  let (s, b) := s.launcherRead ctx va 64
  match b.bind (fun b => cmdOf (leNat b)) with
  | none => s.refuseEntry ctx o.causal (s.startOf o.group)
  | some cmd =>
      let (s, g) := s.graphOf ctx cmd
      match g with
      | none => s.refuseEntry ctx o.causal (s.startOf o.group)
      | some (nodes, bins, tab) =>
          let (s, number) := s.takeNumber ctx
          let id := s.nextId unitLauncher
          let s := s.bumpId unitLauncher
          let phase : Word := BitVec.ofNat 32 (s.phaseOf ctx)
          s.fresh.placeRun (newRun s.names number ctx queue phase cmd id 0 0 true o.causal) nodes bins tab

/-- The re-execution is over (R303, steps 4 to 6): the digest again, compared with EXPECTED, or told to the replica. Groups that
have reached the CHIMECHK again are removed (log 48). -/
def State.replayDone (s : State) (o : EngineOp) (c : ChimeOp) (x : Nat) : State :=
  let r := ChimeRec.ofNat x
  let (s, b) := s.chimeLogBytes o r
  match b with
  | .error (code, a) => s.failOp o code a 0
  | .ok b =>
      let p := phaseDigest r.len 0 b 0
      let s := s.modChime o.name (fun c => { c with own := p })
      let s := s.modCtx (s.opCtx o) (fun c => { c with replay := none, serial := false })
      let again := (s.runs.map Prod.snd).filter (fun r => r.ctx == s.opCtx o && r.serial)
      let s := again.foldl (fun s r => s.cancelRun r.name) s
      let o := (s.opAt o.name).getD o
      if r.mode = 3 then s.chimeTell o r p true []
      else s.chimeEnd o c x (if p = r.expected then 1 else 3) []

/-- A re-execution can go on. -/
def State.replayReady (s : State) (op : Nat) : Bool :=
  match s.opAt op with
  | none => false
  | some o =>
      match o.kind, o.state with
      | .chime c, .going =>
          c.rerun && (match c.recd with
            | none => false
            | some x =>
                match (mget s.ctxs (s.opCtx o)).bind Ctx.replay with
                | some (n, _) => n == o.name && s.serialIdle (s.opCtx o)
                | none => (s.chimePeer o (.ofNat x) true).isSome)
      | _, _ => false

/-- CHIMECHK_REEXECUTION_DONE (R303): a command of the phase has been run again and the next one starts; after the last the
digests are compared again, and the phase commits or the group traps. -/
def execChimechkReexecutionDone (op : Nat) (s : State) : Out :=
  let s := s.unfocus
  gate "CHIMECHK_REEXECUTION_DONE" (s.replayReady op) (
    match s.opAt op with
    | none => s
    | some o =>
        match o.kind with
        | .chime c =>
            match c.recd with
            | none => s
            | some x =>
                match (mget s.ctxs (s.opCtx o)).bind Ctx.replay with
                | some _ =>
                    match s.replayNext (s.opCtx o) with
                    | some (slot, q) => s.replayCommand o (.ofNat x) slot q
                    | none => s.replayDone o c x
                | none =>
                    match s.chimePeer o (.ofNat x) true with
                    | some (d, _) => s.chimeEnd o c x (if d = c.own then 1 else 3) []
                    | none => s
        | _ => s)

end Sys2Proof.Machine
end

