-- ==== Sys2Proof/Machine/Rings.lean ====
section
/-!
DEFINITION. Sys2Proof/Machine/Rings.lean: ring control blocks and entries (R307 to R309), control rings and what their
commands share (R396, R397), write-backs (R336), and energy readings (R411).
-/

namespace Sys2Proof.Machine

/-! ## Write-backs (R336) -/

/-- Write a dirty line back under its present translation. A page that is absent or not writable loses the line, and the
context gets a record. -/
def State.writeBack (s : State) (x : L2Line) : State :=
  if !x.dirty || (mget s.ctxs x.ctx).isNone then s
  else
    let (s, t) := s.translate 0 x.ctx x.line
    let lost (s : State) : State :=
      s.faultWrite (unitDie x.die x.slice)
        { kind := 1, ctx := x.ctx, part := s.partOf x.ctx, grp := 0xFFFFFFFF#32, precise := false, parked := false
          caught := false, slot := 0, wave := 0, code := 0x0705, pc := 0, causal := 0, parent := 0, time := s.time
          hi := hiFault 0 0 (BitVec.ofNat 64 (x.line * 128)) 0 0 }
    match t with
    | .ok (phys, leaf) => if leaf.wr then s.channelWrite (s.dramOf x.ctx x.line phys) phys x.data x.poison else lost s
    | .error _ => lost s

/-- Take a line out of its slice, and write it back: a line with an uncorrectable error is mended first (R347). ERTS keeps the
latest lease end of the lines that left (R342). -/
def State.evictLine (s : State) (x : L2Line) : State :=
  match s.l2Mend 0 x false with
  | (s, some x) => (s.l2Drop x).writeBack x
  | (s, none) => s

/-- Evict the lines that satisfy a test, each as it stands when its turn comes: a write-back that fails writes a record, which
may lie in a line of the range. -/
def State.evictAll (p : Nat → Nat → Bool) : Nat → State → State
  | 0, s => s
  | n + 1, s =>
      match s.l2.find? (fun x => p x.ctx x.line) with
      | none => s
      | some x => (s.evictLine x).evictAll p n

/-- Write back and drop every line that satisfies a test, with the copies in the remote-data caches. The bound leaves room for the
two lines of a fault queue that each record of a failed write-back brings back. -/
def State.flushLines (s : State) (p : Nat → Nat → Bool) : State :=
  let s := s.evictAll p (4 * s.l2.length)
  { s with rdc := s.rdc.filter (fun x => !p x.ctx x.line) }

/-- Flush the lines and drop the translations of a context. -/
def State.flushCtx (s : State) (ctx : Nat) : State :=
  let s := s.flushLines (fun c _ => c == ctx)
  { s with tlbs := s.tlbs.filter (fun t => t.ctx != ctx) }

/-! ## Control rings (R396) -/

/-- The control context of a partition. -/
def State.ctrlOf (s : State) (part : Nat) : Nat := ((mget s.parts part).map Part.ctrlCtx).getD 0

/-- The contexts that a command names. -/
def ctxNamed : Instr → Option Nat
  | .ctxDestroy _ c | .tlbInval _ c _ _ _ | .windowSet _ c _ _ | .windowAccept _ c _ _ _ | .windowRetire _ c _ _ _
  | .hostwinSet _ c _ _ | .notifySet _ c _ _ _ | .watchSet _ c _ _ _ | .energyRead _ c _ => some c
  | .qpSet _ _ bind c _ => if bind then none else some c
  | .knell _ scope c _ _ => if scope = 0 then some c else none
  | _ => none

/-- The partition that a command names. -/
def partNamed : Instr → Option Nat
  | .partSet _ p _ | .partReset _ p | .partDestroy _ p => some p
  | _ => none

/-- An earlier command of the ring, not yet ended, names the context or partition of this one. -/
def State.ctlBusy (s : State) (part : Nat) (i : Instr) : Bool :=
  (match ctxNamed i with
   | some c => s.invals.any (fun v => v.src.part == part && v.ctx == c) ||
       s.inbound.any (fun b => b.ctx == c && (match b.retiring with
         | some src => src.part == part && b.awaited
         | none => false))
   | none => false) ||
  (match partNamed i with
   | some p => ((mget s.parts p).bind Part.resetting).isSome
   | none => false)

/-- A command stands at the head of its control ring and may begin. -/
def State.atCtl (s : State) (src : CtlSrc) (i : Instr) : Bool :=
  s.ringHead (s.ctrlOf src.part) 16 == some i && !s.ctlBusy src.part i

/-- The result record of a command can be written. -/
def State.resultOk (s : State) (src : CtlSrc) : Bool :=
  match tableVa src.result with
  | some va => s.writable (s.ctrlOf src.part) va 16
  | none => false

/-- A command ends: its result record is written, with a release at `.system` (R396). -/
def State.ctlEnd (s : State) (src : CtlSrc) (status value : Nat) : State :=
  let s := s.applyNotices
  (s.gwrite src.causal none (s.ctrlOf src.part) (src.result.extractLsb' 0 53).toNat
    (leBytes 16 (status + value % 2 ^ 32 * 2 ^ 32 + src.causal.toNat * 2 ^ 64)) false).1

/-- Consume a command and act on it; one whose result cannot be written is consumed without effect (R396). -/
def State.command (s : State) (name : String) (src : CtlSrc) (i : Instr) (act : State → State) : Out :=
  let s := s.unfocus
  gate name (s.atCtl src i) (
    let d := s.ringDone (s.ctrlOf src.part) 16
    if s.resultOk src then act d else d)

/-- A context is live and belongs to a partition (R397). -/
def State.ownsCtx (s : State) (part ctx : Nat) : Bool := ((mget s.ctxs ctx).map Ctx.part) == some part

/-- STATUS for a context that is not the partition's: not permitted when it is another's, refused when there is none. -/
def State.denied (s : State) (ctx : Nat) : Nat := if (mget s.ctxs ctx).isSome then 2 else 1

/-- A command about a context: refused when it is not one of the partition's. -/
def State.ctxCommand (s : State) (name : String) (src : CtlSrc) (i : Instr) (ctx : Nat) (act : State → State) : Out :=
  s.command name src i (fun s => if s.ownsCtx src.part ctx then act s else s.ctlEnd src (s.denied ctx) 0)

/-- A command of the management partition: STATUS 2 on a tenant ring (R397). -/
def State.mgmtCommand (s : State) (name : String) (src : CtlSrc) (i : Instr) (act : State → State) : Out :=
  s.command name src i (fun s => if src.part = 0 then act s else s.ctlEnd src 2 0)

/-- Read bytes of the control context of a command. -/
def State.ctlRead (s : State) (src : CtlSrc) (a : Dword) (n : Nat) : State × Option (List Byte) :=
  s.launcherRead (s.ctrlOf src.part) a n

/-- Write bytes to a buffer in the control context of a command; false when it cannot be written. -/
def State.ctlWrite (s : State) (src : CtlSrc) (a : Dword) (b : List Byte) : State × Bool :=
  match tableVa a with
  | none => (s, false)
  | some va =>
      if s.writable (s.ctrlOf src.part) va b.length then
        ((s.gwrite src.causal none (s.ctrlOf src.part) va b false).1, true)
      else (s, false)

/-! ## Entries (R308, R309, R397) -/

/-- The instruction of an entry of a launcher queue's ring; `none` when the entry is refused. -/
def queueEntry (src : RingSrc) (x : Nat) : Option Instr :=
  let flags := bits x 31 24
  let only (hi : Nat) (f : Nat) : Bool := bits x 511 hi == 0 && flags % 4 == 0 && flags / 8 == 0 && flags / 4 ≤ f
  let group : Word := BitVec.ofNat 32 (bits x 63 32)
  match bits x 23 16 with
  | 0 => if only 32 0 then some (.ringNop src) else none
  | 1 => (cmdOf x).map (.launchGraph src)
  | 2 => if only 80 1 then some (.thawBin src group (bits x 79 64) (bits x 26 26 == 1)) else none
  | 3 => if only 65 0 then some (.groupResume src group (bits x 64 64 == 1)) else none
  | 4 => if only 64 0 then some (.groupDiscard src group) else none
  | 5 => if only 97 0 then some (.faultResume src (BitVec.ofNat 64 (bits x 95 32)) (bits x 96 96 == 1)) else none
  | 6 => if only 64 0 then some (.preempt src group) else none
  | _ => none

/-- The instruction of an entry of a control ring; `none` gives STATUS 1. -/
def controlEntry (src : CtlSrc) (x : Nat) : Option Instr :=
  let o (hi lo : Nat) : Nat := bits x hi lo
  let d (hi lo : Nat) : Dword := BitVec.ofNat 64 (bits x hi lo)
  let w (hi lo : Nat) : Word := BitVec.ofNat 32 (bits x hi lo)
  let only (hi : Nat) (i : Instr) : Option Instr := if bits x 511 hi == 0 && bits x 31 24 == 0 then some i else none
  match bits x 23 16 with
  | 0x40 => only 160 (.ctxCreate src (d 159 96))
  | 0x41 => only 108 (.ctxDestroy src (o 107 96))
  | 0x42 => only 181 (.tlbInval src (o 107 96) (BitVec.ofNat 40 (o 147 108)) (o 179 148) (o 180 180 == 1))
  | 0x43 => only 184 (.windowSet src (o 107 96) (o 119 108) (d 183 120))
  | 0x44 => only 148 (.windowAccept src (o 107 96) (o 123 108) (o 135 124) (o 147 136))
  | 0x45 => only 148 (.windowRetire src (o 107 96) (o 123 108) (o 135 124) (o 147 136))
  | 0x46 => only 178 (.hostwinSet src (o 107 96) (o 113 108) (d 177 114))
  | 0x47 => only 181 (.qpSet src (o 103 96) (o 104 104 == 1) (o 116 105) (d 180 117))
  | 0x48 => only 184 (.notifySet src (o 107 96) (d 171 108) (o 175 172) (o 183 176))
  | 0x49 => only 186 (.commSet src (o 111 96) (d 175 112) (o 185 176 + 1))
  | 0x4A => only 244 (.traceRead src (o 159 96) (o 179 160 + 1) (d 243 180))
  | 0x4B => only 206 (.knell src (o 97 96) (o 109 98) (d 173 110) (o 205 174))
  | 0x4C => only 204 (.watchSet src (o 107 96) (w 139 108) (w 171 140) (w 203 172))
  | 0x4D => only 172 (.energyRead src (o 107 96) (d 171 108))
  | 0x4E => only 224 (.quote src (d 159 96) (d 223 160))
  | 0x60 => only 164 (.partSet src (o 99 96) (d 163 100))
  | 0x61 => only 100 (.partReset src (o 99 96))
  | 0x62 => only 100 (.partDestroy src (o 99 96))
  | 0x63 => only 176 (.routeSet src (o 111 96) (d 175 112))
  | 0x64 => only 160 (.configWrite src (d 159 96))
  | 0x65 => only 192 (.firmwareWrite src (d 159 96) (o 191 160))
  | _ => none

/-- A ring control block as the launcher reads it: TAIL, the base of the entries and LOG2_SIZE; `none` when the ring is
unusable (R307). -/
def State.ringBlock (s : State) (ctx : Nat) (block : Dword) : State × Option (Nat × Dword × Nat) :=
  let (s, b) := s.launcherRead ctx block 64
  (s, b.bind (fun b =>
    let x := leNat b
    let log2 := bits x 39 32
    if bits x 511 192 == 0 && bits x 63 40 == 0 && bits x 31 3 == 0 && 1 ≤ log2 && log2 ≤ 16 then
      some (bits x 191 160, BitVec.ofNat 64 (bits x 127 64), log2)
    else none))

/-- TAIL of a ring as the launcher takes it (R307): a value more than the ring's size above HEAD stands for HEAD plus the size,
until another value is read (log 85). -/
def Ring.take (r : Ring) (tail : Word) (log2 : Nat) : Ring :=
  if tail = r.seen then r
  else { r with seen := tail, tail := if 2 ^ log2 < (tail - r.head).toNat then r.head + BitVec.ofNat 32 (2 ^ log2) else tail }

/-- The entry at HEAD of a ring that has arrived and may be consumed (R308): its 64 bytes. -/
def State.ringEntry (s : State) (ctx queue : Nat) : State × Option Nat :=
  match mget s.ctxs ctx with
  | none => (s, none)
  | some c =>
      match mget c.rings queue with
      | none => (s, none)
      | some r =>
          if r.ready.isSome || c.ending || !s.ringsRun c.part then (s, none)
          else
            let (s, b) := s.ringBlock ctx r.block
            match b with
            | none => (s, none)
            | some (tail, base, log2) =>
                let r := r.take (BitVec.ofNat 32 tail) log2
                if r.tail = r.head then (s, none)
                else
                  let s := s.modCtx ctx (fun c => { c with rings := mset c.rings queue r })
                  let (s, e) := s.launcherRead ctx (base + BitVec.ofNat 64 (64 * (r.head.toNat % 2 ^ log2))) 64
                  (s, e.bind (fun e =>
                    let x := leNat e
                    if bits x 15 0 = r.head.toNat % 2 ^ 16 then some x else none))

/-- An entry that waits in a ring whose block has become unusable is not consumed: the launcher reads it again when the block is
usable (R307). -/
def State.recheckRing (s : State) (ctx queue : Nat) (r : Ring) : State :=
  if r.ready.isSome && (s.ringBlock ctx r.block).2.isNone then
    s.modCtx ctx (fun c => { c with rings := mmod c.rings queue (fun r => { r with ready := none }) })
  else s

/-- Every ring whose entry waits. -/
def State.recheckRings (s : State) : State :=
  s.ctxs.foldl (fun s c => c.2.rings.foldl (fun s r => s.recheckRing c.1 r.1 r.2) s) s

/-- RING_TAIL_WRITE (R307, R308): the launcher reads the entry at HEAD. One that is refused is consumed at once. -/
def execRingTailWrite (ctx queue : Nat) (s : State) : Out :=
  let s := s.unfocus
  match s.ringEntry ctx queue with
  | (_, none) => .refused (.notEnabled "RING_TAIL_WRITE")
  | (s, some x) => .next (
      let id := s.nextId unitLauncher
      let s := s.bumpId unitLauncher
      let put (i : Instr) : State := s.modCtx ctx (fun c =>
        { c with rings := mmod c.rings queue (fun r => { r with ready := some i }) })
      if queue = 16 then
        let src : CtlSrc := ⟨s.partOf ctx, id, BitVec.ofNat 64 (bits x 95 32)⟩
        match controlEntry src x with
        | some i => put i
        | none =>
            let d := s.ringDone ctx 16
            if s.resultOk src then d.ctlEnd src (if src.part != 0 && 0x60 ≤ bits x 23 16 then 2 else 1) 0 else d
      else
        match queueEntry ⟨ctx, queue, id⟩ x with
        | some i => put i
        | none => (s.refuseEntry ctx id 0).ringDone ctx queue)

/-! ## Energy readings (R411) -/

/-- The 128 bytes of a reading of a partition or of one of its contexts. -/
def State.readingBytes (s : State) (part : Nat) (ctx : Option Nat) (reason seq : Nat) : List Byte :=
  let p := (mget s.parts part).getD .zero
  let e := match ctx with
    | some c => mgetD s.ctxEnergy c .zero
    | none => p.energy
  let q (v k : Nat) : Nat := v % 2 ^ 64 * 2 ^ k
  leBytes 128 (0x4552 + 2 ^ 16 + b2n s.hub.erased * 2 ^ 80 + reason * 2 ^ 88 + ctx.getD 0xFFF * 2 ^ 96 + part * 2 ^ 108 +
    s.hub.config.device * 2 ^ 112 + leNat (s.hub.mr1.take 16) * 2 ^ 256 + q seq 384 + q e.start 448 + q s.hub.counted 512 +
    q (e.core + e.hbm + e.fabric + e.shared) 576 + q e.core 640 + q e.hbm 704 + q e.fabric 768 + q e.shared 832 +
    q (uint 64 s.hub.unattrib) 896 + q s.hub.package 960)

/-- The alias key's material (R407). -/
def State.aliasSeed (s : State) : List Byte :=
  (Config.sha3_512 (Config.seed s.hub.config.device ++ s.hub.mr0 ++ s.hub.mr1)).take 32

/-- A signature of n bytes: zero once the keys are erased. -/
def State.signature (s : State) (b : List Byte) : List Byte :=
  if s.hub.erased then zeros 4627 else (Config.sign s.aliasSeed b ++ zeros 4627).take 4627

/-- A whole slot of 4,864 bytes, and the reading's number counted. Without signed readings there is no signature (R8). -/
def State.takeReading (s : State) (part : Nat) (ctx : Option Nat) (reason : Nat) : State × List Byte :=
  let seq := ((mget s.parts part).map Part.seq).getD 0
  let b := s.readingBytes part ctx reason seq
  let slot := (b ++ (if s.feature 5 then s.signature b else []) ++ zeros 4864).take 4864
  ({ s with parts := mmod s.parts part (fun p => { p with seq := p.seq + 1 }) }, slot)

/-- Write a reading to the partition's energy log, in the slot of its number. Partition 0 has no log. -/
def State.logReading (s : State) (part : Nat) (ctx : Option Nat) (reason : Nat) : State :=
  match mget s.parts part with
  | none => s
  | some p =>
      if p.elog2 = 0 then s
      else
        let (s, b) := s.takeReading part ctx reason
        (s.gwrite 0 none p.ctrlCtx ((p.elog.extractLsb' 0 53).toNat + 4864 * (p.seq % 2 ^ p.elog2)) b false).1

end Sys2Proof.Machine
end

