-- ==== Sys2Proof/Machine/Contexts.lean ====
section
/-!
DEFINITION. Sys2Proof/Machine/Contexts.lean: the control-ring commands about contexts, translations, windows, hosts,
communicators, watches, readings, quotes and routes (R397), and the events that end them.
-/

namespace Sys2Proof.Machine

/-! ## CTX_CREATE (R306) -/

/-- A context descriptor passes the checks of R306 for the ring of a partition, and those of its PT_ROOT (R4, R332). -/
def ctxDescOk (x part : Nat) : Bool :=
  bits x 31 0 == 0x14358 && bits x 63 48 == 0 && bits x 91 88 == 0 && bits x 96 96 == 0 && bits x 127 104 == 0 &&
    bits x 87 80 ≤ 128 && bits x 47 44 == part && rootClean (BitVec.ofNat 64 (bits x 191 128))

/-- The PRIORITY of a queue's control block, clipped to a cap (R307). -/
def State.ringPriority (s : State) (ctx : Nat) (block : Dword) (cap : Nat) : Nat :=
  match (s.launcherRead ctx block 64).2 with
  | some b => min (leNat b % 8) cap
  | none => 0

/-- Clusters that a partition owns. -/
def Part.clusterCount (p : Part) : Nat := ((List.range 128).filter (fun i => p.clusters.getLsbD i)).length

/-- The context of a descriptor. -/
def State.ctxOf (s : State) (x : Nat) : Ctx :=
  let d (hi lo : Nat) : Dword := BitVec.ofNat 64 (bits x hi lo)
  let part := bits x 47 44
  let blocks := bits x 287 256
  let queues := (List.range 16).filter (fun q => x.testBit (64 + q))
  let table := d 511 448
  { Ctx.controlCtx (bits x 43 32) part (d 191 128) 0 with
    control := false, queueTab := table, saveBase := d 447 384, saveKib := bits x 383 352, spillBase := d 351 288
    spillBlks := if blocks = 0 then 2304 * 4 * ((mget s.parts part).map Part.clusterCount).getD 0 else blocks
    fqBase := d 255 192, catchMask := BitVec.ofNat 7 (bits x 103 97), prioCap := bits x 95 93
    promise := x.testBit 92, fairness := if bits x 87 80 = 0 then 256 else 32 * bits x 87 80
    queues := BitVec.ofNat 16 (bits x 79 64)
    rings := queues.map (fun q => (q, ⟨table + BitVec.ofNat 64 (64 * q), 0, none, 0, 0⟩))
    lq := queues.map (fun q => (q, ⟨0, 0, none, none, none, []⟩)) }

/-- Give every queue of a new context its initial priority. -/
def State.initPriorities (s : State) (ctx : Nat) : State :=
  match mget s.ctxs ctx with
  | none => s
  | some c => c.rings.foldl (fun s r =>
      let p := s.ringPriority ctx r.2.block c.prioCap
      s.modQueue ctx r.1 (fun q => { q with prio := p, eff := p })) s

/-- CTX_CREATE (R306): VALUE is the context id. -/
def execCtxCreate (src : CtlSrc) (desc : Dword) (s : State) : Out :=
  s.command "CTX_CREATE" src (.ctxCreate src desc) (fun s =>
    let (s, b) := s.ctlRead src desc 64
    match b with
    | none => s.ctlEnd src 1 0
    | some b =>
        let x := leNat b
        let id := bits x 43 32
        if !ctxDescOk x src.part || (mget s.ctxs id).isSome then s.ctlEnd src 1 0
        else
          let s := { s with
            ctxs := mset s.ctxs id (s.ctxOf x), ctxEnergy := mset s.ctxEnergy id { Energy.zero with start := s.time } }
          (s.initPriorities id).ctlEnd src 0 id)

/-! ## Queue pairs (R370, R371, R398) -/

/-- A queue pair. -/
def State.qpAt (s : State) (q : QpRef) : Option Qp := mget s.qps (qpKey q.part q.qp)

/-- Change a queue pair. -/
def State.modQp (s : State) (q : QpRef) (f : Qp → Qp) : State := { s with qps := mmod s.qps (qpKey q.part q.qp) f }

/-- An RDMA operation of the device ends without success: an engine operation fails with a code, a notification that was
not written is counted. -/
def State.hostFail (s : State) (o : HostOp) (code : Nat) : State :=
  match o.use with
  | .op n elem addr =>
      (match s.opAt n with
       | none => s
       | some x =>
           let s := s.unsend n elem
           if x.ended then s.settleNamed n else s.failOp x code addr 0)
  | .notification ctx | .consumed ctx => s.fqDrop ctx

/-- A queue pair enters the error state: every operation of the device on it fails as window absent (R370, R398). -/
def State.qpError (s : State) (q : QpRef) : State :=
  let lost := s.hostOps.filter (fun o => o.qp == q)
  let s := { s.modQp q (fun p => { p with state := .error, rnrTill := none }) with
    hostOps := s.hostOps.filter (fun o => o.qp != q) }
  lost.foldl (fun s o => s.hostFail o 0x0703) s

/-! ## The end of a context (R397, R402) -/

/-- Retire an inbound window (R367, step 1): its GEN advances, and the source gets a notice. `awaited`: the command is a
WINDOW_RETIRE, which ends when the retirement completes. -/
def State.retireInbound (s : State) (b : Inbound) (src : CtlSrc) (awaited : Bool) : State :=
  let gen := (b.gen + 1) % 4096
  { s with
    inbound := lmod (· == b) (fun b => { b with gen := gen, isOpen := false, retiring := some src, awaited := awaited }) s.inbound
    outbox := s.outbox ++ [.retireNotice b.dev b.sctx b.sel b.gen] }

/-- End the windows of a context for a command: inbound ones are retired, outbound entries become invalid. -/
def State.endWindows (s : State) (src : CtlSrc) (ctx : Nat) : State :=
  let s := (s.inbound.filter (fun b => b.ctx == ctx && b.isOpen)).foldl (fun s b => s.retireInbound b src false) s
  { s with windows := s.windows.map (fun p => (p.1, if p.1 / 4096 = ctx then { p.2 with v := false } else p.2)) }

/-- Nothing of a context is left: no group, run, operation, unanswered packet or window under retirement. -/
def State.ctxQuiet (s : State) (ctx : Nat) : Bool :=
  !(s.groups.any (fun p => p.2.ctx == ctx)) && !(s.runs.any (fun p => p.2.ctx == ctx)) &&
    !(s.launches.any (fun p => p.2.ctx == ctx)) && !(s.unacked.any (fun u => u.pkt.ctx == ctx)) &&
    !(s.inbound.any (fun b => b.ctx == ctx && b.retiring.isSome)) && !(s.invals.any (fun v => v.ctx == ctx))

/-- The queue pairs bound to a context. -/
def State.boundQps (s : State) (ctx : Nat) : List QpRef :=
  (s.qps.filter (fun p => p.2.ctx == ctx && !p.2.control)).map (fun p => ⟨p.1 / 256, p.1 % 256⟩)

/-- Remove a context: its queue pairs enter the error state, its lines are written back and its translations dropped, and its
windows and host windows go (R398, R402). -/
def State.dropCtx (s : State) (ctx : Nat) : State :=
  let s := ((s.boundQps ctx).foldl State.qpError s).flushCtx ctx
  { s with
    ctxs := mdel s.ctxs ctx, ctxEnergy := mdel s.ctxEnergy ctx
    windows := s.windows.filter (fun p => p.1 / 4096 != ctx)
    hostWin := s.hostWin.filter (fun p => p.1 / 64 != ctx)
    hostOps := s.hostOps.filter (fun o => o.use != .notification ctx && o.use != .consumed ctx) }

/-- Begin to end a context: its rings stop, its job is cancelled and its windows end. -/
def State.endCtx (s : State) (src : CtlSrc) (ctx : Nat) : State :=
  ((s.modCtx ctx (fun c => { c with ending := true })).cancelWork ctx .job).endWindows src ctx

/-- CTX_DESTROY (R397): it begins by cancelling the context's job and ending its windows, and stays at the head of its ring
until nothing of the context is left; then the reading is written. The control context is not destroyed by command. -/
def execCtxDestroy (src : CtlSrc) (ctx : Nat) (s : State) : Out :=
  let s := s.unfocus
  let i : Instr := .ctxDestroy src ctx
  let finish (s : State) : State := s.ringDone (s.ctrlOf src.part) 16
  match mget s.ctxs ctx with
  | some c =>
      if !c.ending then
        gate "CTX_DESTROY" (s.atCtl src i) (
          if !s.resultOk src then finish s
          else if c.part != src.part then (finish s).ctlEnd src 2 0
          else if c.control then (finish s).ctlEnd src 1 0
          else s.endCtx src ctx)
      else
        gate "CTX_DESTROY" (s.atCtl src i && s.ctxQuiet ctx)
          ((((finish s).logReading c.part (some ctx) 3).dropCtx ctx).ctlEnd src 0 0)
  | none => gate "CTX_DESTROY" (s.atCtl src i) (if s.resultOk src then (finish s).ctlEnd src 1 0 else finish s)

/-! ## TLB_INVAL (R336) -/

/-- Pages that a leaf of the given kind maps. -/
def kindPages : Nat → Nat
  | 1 => 1
  | 2 => 256
  | _ => 2 ^ 17

/-- A TLB entry translates an address in a range of pages; a walk cache holds no leaf. -/
def Tlb.hits (t : Tlb) (ctx vpn pages : Nat) : Bool :=
  t.ctx == ctx && (256 ≤ t.place ||
    (t.vpn * kindPages t.level < vpn + pages && vpn < (t.vpn + 1) * kindPages t.level))

/-- TLB_INVAL (R336): flush, then drop; it completes when the accesses under the old entries have been performed. -/
def execTlbInval (src : CtlSrc) (ctx : Nat) (vpn : BitVec 40) (pages : Nat) (flush : Bool) (s : State) : Out :=
  s.ctxCommand "TLB_INVAL" src (.tlbInval src ctx vpn pages flush) ctx (fun s =>
    let v := vpn.toNat
    let s := if flush then s.flushLines (fun c l => c == ctx && v ≤ vpnOf l && vpnOf l < v + pages) else s
    let s := { s with tlbs := s.tlbs.filter (fun t => !t.hits ctx v pages) }
    { s.fresh with invals := s.invals ++ [(⟨s.names, src, ctx⟩ : Inval)] })

/-- INVALIDATION_COMPLETE (R336). -/
def execInvalidationComplete (n : Nat) (s : State) : Out :=
  let s := s.unfocus
  match s.invals.find? (fun v => v.name == n) with
  | none => .refused (.notEnabled "INVALIDATION_COMPLETE")
  | some v => .next ({ s with invals := s.invals.filter (fun x => x.name != n) }.ctlEnd v.src 0 0)

/-! ## Windows (R360, R367) -/

/-- A window table entry from its 16 bytes. -/
def winOf (x : Nat) : WinEntry :=
  { pages := bits x 127 88, base := bits x 87 48, device := bits x 47 32, tctx := bits x 31 20, tpart := bits x 19 16
    gen := bits x 15 4, at_ := x.testBit 3, wr := x.testBit 2, rd := x.testBit 1, v := x.testBit 0 }

/-- WINDOW_SET (R360): selector 0 names no entry, and a valid entry has at least one page. While the fabric is absent the entry
is taken all the same, with STATUS 0 (R8; log 88). -/
def execWindowSet (src : CtlSrc) (ctx sel : Nat) (entry : Dword) (s : State) : Out :=
  s.ctxCommand "WINDOW_SET" src (.windowSet src ctx sel entry) ctx (fun s =>
    let (s, b) := s.ctlRead src entry 16
    match b with
    | none => s.ctlEnd src 1 0
    | some b =>
        let e := winOf (leNat b)
        if sel = 0 || (e.v && e.pages == 0) then s.ctlEnd src 1 0
        else { s with windows := mset s.windows (ctx * 4096 + sel) e }.ctlEnd src 0 0)

/-- The inbound entry of a key: source package, source context and selector. -/
def State.inboundAt (s : State) (dev sctx sel : Nat) : Option Inbound :=
  s.inbound.find? (fun b => b.dev == dev && b.sctx == sctx && b.sel == sel)

/-- WINDOW_ACCEPT (R397): opens the inbound entry with GEN 0, or the retired entry's next GEN. -/
def execWindowAccept (src : CtlSrc) (ctx srcDev srcCtx sel : Nat) (s : State) : Out :=
  s.ctxCommand "WINDOW_ACCEPT" src (.windowAccept src ctx srcDev srcCtx sel) ctx (fun s =>
    if sel = 0 then s.ctlEnd src 1 0
    else match s.inboundAt srcDev srcCtx sel with
      | none => { s with inbound := s.inbound ++ [(⟨ctx, srcDev, srcCtx, sel, 0, true, none, false⟩ : Inbound)] }.ctlEnd src 0 0
      | some b =>
          if b.isOpen || b.retiring.isSome then s.ctlEnd src 1 0
          else { s with inbound := lmod (· == b) (fun b => { b with ctx := ctx, isOpen := true }) s.inbound }.ctlEnd src 0 0)

/-- WINDOW_RETIRE (R367): ends when the retire completes. -/
def execWindowRetire (src : CtlSrc) (ctx srcDev srcCtx sel : Nat) (s : State) : Out :=
  s.ctxCommand "WINDOW_RETIRE" src (.windowRetire src ctx srcDev srcCtx sel) ctx (fun s =>
    match s.inboundAt srcDev srcCtx sel with
    | none => s.ctlEnd src 1 0
    | some b => if b.ctx = ctx && b.isOpen then s.retireInbound b src true else s.ctlEnd src 1 0)

/-- RETIRE_COMPLETE (R367, step 5): the source reports that nothing sent under the old GEN is unanswered. -/
def execRetireComplete (n : Nat) (s : State) : Out :=
  let s := s.unfocus
  match s.inbound[n]? with
  | none => .refused (.notEnabled "RETIRE_COMPLETE")
  | some b =>
      match b.retiring with
      | none => .refused (.notEnabled "RETIRE_COMPLETE")
      | some src => .next (
          let s := { s with inbound := lmod (· == b) (fun b => { b with retiring := none }) s.inbound }
          let s := s.emitN (s.partOf b.ctx) unitLauncher 0x0705 src.causal 0 b.sel
          if b.awaited then s.ctlEnd src 0 0 else s)

/-! ## Hosts (R370, R371, R398) -/

/-- A host window table entry from its 32 bytes. -/
def hostWinOf (x : Nat) : HostWin :=
  { va := BitVec.ofNat 64 (bits x 255 192), rkey := BitVec.ofNat 32 (bits x 191 160), size := bits x 159 120
    qp := bits x 119 112, at_ := x.testBit 3, wr := x.testBit 2, rd := x.testBit 1, v := x.testBit 0 }

/-- HOSTWIN_SET (R370): an entry with a reserved bit set is refused (R4). -/
def execHostwinSet (src : CtlSrc) (ctx idx : Nat) (entry : Dword) (s : State) : Out :=
  s.ctxCommand "HOSTWIN_SET" src (.hostwinSet src ctx idx entry) ctx (fun s =>
    let (s, b) := s.ctlRead src entry 32
    match b with
    | none => s.ctlEnd src 1 0
    | some b =>
        let x := leNat b
        if bits x 111 4 != 0 then s.ctlEnd src 1 0
        else { s with hostWin := mset s.hostWin (ctx * 64 + idx) (hostWinOf x) }.ctlEnd src 0 0)

/-- The attribute block is refused (R398), but for its IMM address and the queue pair's number. -/
def attrBad (x : Nat) : Bool :=
  bits x 31 0 != 0x15150 || bits x 170 32 != 0 || bits x 319 296 != 0 || bits x 191 187 == 0 || bits x 199 192 == 0 ||
    16 < bits x 199 192 || bits x 175 173 == 0 || 5 < bits x 175 173

/-- A queue pair set up from its attribute block. -/
def qpOf (x ctx : Nat) (control : Bool) : Qp :=
  { state := .ready, ctx := ctx, control := control, imm := BitVec.ofNat 64 (bits x 511 448), check := bits x 223 208
    gid := BitVec.ofNat 128 (bits x 447 320), qpn := bits x 295 272, sqPsn := bits x 271 248, rqPsn := bits x 247 224
    tclass := bits x 207 200, maxRd := bits x 199 192, timeout := bits x 191 187, rnrTimer := bits x 186 182
    retry := bits x 181 179, rnrRetry := bits x 178 176, mtu := bits x 175 173, port := bits x 172 171, retries := 0
    rnrs := 0, rnrTill := none }

/-- QP_SET (R398). -/
def execQpSet (src : CtlSrc) (qp : Nat) (bind : Bool) (ctx : Nat) (attr : Dword) (s : State) : Out :=
  s.command "QP_SET" src (.qpSet src qp bind ctx attr) (fun s =>
    let ctx := if bind then s.ctrlOf src.part else ctx
    let (s, b) := s.ctlRead src attr 64
    match b with
    | none => s.ctlEnd src 1 0
    | some b =>
        let x := leNat b
        let imm : Dword := BitVec.ofNat 64 (bits x 511 448)
        let immOk := match tableVa imm with
          | some va => va % 4 == 0 && s.writable ctx va 4
          | none => false
        let max := ((mget s.parts src.part).map Part.qpMax).getD 0
        if !s.ownsCtx src.part ctx then s.ctlEnd src (s.denied ctx) 0
        else if attrBad x || !immOk || max < qp then s.ctlEnd src 1 0
        else { s with qps := mset s.qps (qpKey src.part qp) (qpOf x ctx bind) }.ctlEnd src 0 0)

/-- NOTIFY_SET (R371): LOG2 0 stands for 16, the one value that its four bits cannot hold. -/
def execNotifySet (src : CtlSrc) (ctx : Nat) (ring : Dword) (log2 qp : Nat) (s : State) : Out :=
  s.ctxCommand "NOTIFY_SET" src (.notifySet src ctx ring log2 qp) ctx (fun s =>
    let max := ((mget s.parts src.part).map Part.qpMax).getD 0
    if max < qp then s.ctlEnd src 1 0
    else (s.modCtx ctx (fun c => { c with
      notify := some (ring, if log2 = 0 then 16 else log2, qp), notified := 0, consumed := 0 })).ctlEnd src 0 0)

/-! ## Communicators, watches, readings, quotes, routes -/

/-- The ranks of a list of 8-byte entries; `none` when one has a reserved bit or a package above 1,023. -/
def ranksOf : Nat → List Byte → Option (List (Nat × Nat))
  | 0, _ => some []
  | n + 1, b =>
      let x := leNat (b.take 8)
      if bits x 63 28 != 0 || 1023 < bits x 15 0 then none
      else (ranksOf n (b.drop 8)).map (fun l => (bits x 15 0, bits x 27 16) :: l)

/-- COMM_SET (R209, R397): R397's list refuses no identifier that is in use; the communicator is set anew (log 49). -/
def execCommSet (src : CtlSrc) (comm : Nat) (list : Dword) (ranks : Nat) (s : State) : Out :=
  s.command "COMM_SET" src (.commSet src comm list ranks) (fun s =>
    let (s, b) := s.ctlRead src list (8 * ranks)
    match b.bind (ranksOf ranks) with
    | none => s.ctlEnd src 1 0
    | some l =>
        let mine := l.any (fun r => r.1 == s.hub.config.device && s.ownsCtx src.part r.2)
        if list.toNat % 8 ≠ 0 || l.eraseDups.length ≠ l.length || !mine then s.ctlEnd src 1 0
        else { s with comms := mset s.comms comm ⟨src.part, l, [], []⟩ }.ctlEnd src 0 0)

/-- WATCH_SET (R390): 0 leaves a setting unchanged. -/
def execWatchSet (src : CtlSrc) (ctx : Nat) (barrier frame coll : Word) (s : State) : Out :=
  s.ctxCommand "WATCH_SET" src (.watchSet src ctx barrier frame coll) ctx (fun s =>
    let pick (new old : Word) : Word := if new = 0 then old else new
    (s.modCtx ctx (fun c => { c with
      watchBar := pick barrier c.watchBar, watchFrm := pick frame c.watchFrm, watchColl := pick coll c.watchColl })).ctlEnd
      src 0 0)

/-- ENERGY_READ (R411): one reading, of a context or of the partition. -/
def execEnergyRead (src : CtlSrc) (ctx : Nat) (buf : Dword) (s : State) : Out :=
  s.command "ENERGY_READ" src (.energyRead src ctx buf) (fun s =>
    let whole := ctx == 0xFFF
    if !whole && !s.ownsCtx src.part ctx then s.ctlEnd src (s.denied ctx) 0
    else
      let (t, b) := s.takeReading src.part (if whole then none else some ctx) 0
      let (t, ok) := t.ctlWrite src buf b
      if ok then t.ctlEnd src 0 0 else s.ctlEnd src 1 0)

/-- The 384-byte body of a quote (R407). -/
def State.quoteBody (s : State) (part : Nat) (nonce : List Byte) : List Byte :=
  let pmr := ((mget s.parts part).map Part.pmr).getD (zeros 64)
  leBytes 2 0x5451 ++ leBytes 2 s.hub.config.device ++ leBytes 4 part ++ leBytes 4 s.hub.config.recordSvn ++
    leBytes 4 s.hub.svn ++ leBytes 8 s.time ++ zeros 40 ++ s.hub.mr0 ++ s.hub.mr1 ++ s.hub.mr2 ++ pmr ++ nonce

/-- The 2,592-byte alias public key with its 4,627-byte identity signature (R407). -/
def State.aliasPublic (s : State) : List Byte := (Config.aliasKey s.aliasSeed ++ zeros 7219).take 7219

/-- QUOTE (R407): STATUS 3 once the keys are erased (R408). -/
def execQuote (src : CtlSrc) (nonce buf : Dword) (s : State) : Out :=
  s.command "QUOTE" src (.quote src nonce buf) (fun s =>
    if s.hub.erased then s.ctlEnd src 3 0
    else
      let (s, n) := s.ctlRead src nonce 64
      match n with
      | none => s.ctlEnd src 1 0
      | some n =>
          let body := s.quoteBody src.part n
          let (s, ok) := s.ctlWrite src buf (body ++ s.signature body ++ s.aliasPublic)
          s.ctlEnd src (if ok then 0 else 1) 0)

/-- ROUTE_SET (R359): the ports of a destination; bytes above 127 name none (log 99). -/
def execRouteSet (src : CtlSrc) (dst : Nat) (ports : Dword) (s : State) : Out :=
  s.mgmtCommand "ROUTE_SET" src (.routeSet src dst ports) (fun s =>
    let (s, b) := s.ctlRead src ports 8
    match b with
    | none => s.ctlEnd src 1 0
    | some b =>
        if 1023 < dst then s.ctlEnd src 1 0
        else
          let l := (b.map BitVec.toNat).filter (· < 128)
          { s with routes := mset s.routes dst l }.ctlEnd src 0 0)

end Sys2Proof.Machine
end

