-- ==== Sys2Proof/Machine/Fabric.lean ====
section
/-!
DEFINITION. Sys2Proof/Machine/Fabric.lean: the scale-up fabric (R358 to R368): packets as they arrive at this package as a
target and as a source, end-to-end timeouts, the retirement of windows at their source, and links.
-/

namespace Sys2Proof.Machine

/-! ## Arrival (R362, R364, R365) -/

/-- The unit of a fabric port (R374). -/
def portUnit (p : Nat) : Nat := unitDie (p / 32) (0x80 + p % 32)

/-- A port drops a packet (R368). -/
def State.hdrDrop (s : State) (port : Nat) : State := s.modPort port (fun x => { x with drops := satInc 16 x.drops })

/-- A packet arrives whole at a port that is up. One with an uncorrectable header is dropped, and its link is blamed
(R365). One for another package is not this package's. -/
def State.arrive (s : State) (port : Nat) (p : Packet) (act : State → State) : Out :=
  let s := s.unfocus
  .next (
    if s.hub.pkg != .running || !s.portUp port then s
    else
      let s := s.modPort port (fun x => { x with beat := none, failed := 0 })
      match p.hchk with
      | .uncorrectable => (s.hdrDrop port).emitN 0 (portUnit port) 0x0703 0 0 (portUnit port)
      | .good | .corrected => if p.dst = s.hub.config.device then act s else s)

/-! ## This package as the target (R361, R362, R366, R367) -/

/-- The answer to a request: a packet with its identifier. -/
def State.answerTo (s : State) (p : Packet) (off : BitVec 53) (b : List Byte) : Packet :=
  { p with offset := off, cls := 0, dst := p.src, src := s.hub.config.device, len := b.length, hchk := .good, payload := b }

/-- Send an answer. -/
def State.sendAnswer (s : State) (k : PKind) (r : Packet) : State :=
  { s with oracle := s.oracle + 1 }.portSend (s.portFor 0 r.dst r.window none) k r

/-- Answer with an error NACK: the cause stands in OFFSET. -/
def State.refusePacket (s : State) (p : Packet) (code : Nat) : State :=
  s.sendAnswer .errorNack (s.answerTo p (BitVec.ofNat 53 code) [])

/-- The code with which the target refuses an access that fails in its memory (R361). -/
def MemErr.nackCode : MemErr → Nat
  | .notPresent | .permission => 0x0705
  | .poisoned => 0x0706

/-- Serve a request at most once (R366), under the generation it was sent in (R367): `act` performs it at an address of the
target context, and gives the answer's payload or the cause of an error NACK. -/
def State.servePacket (s : State) (p : Packet) (answer : PKind)
    (act : State → Nat → Nat → State × Except Nat (List Byte)) : State :=
  let s : State := { s with performed := s.performed.filter (fun x => s.time ≤ x.time + 16000000) }
  match s.performed.find? (fun x => x.src == p.src && x.causal == p.causal && x.tag == p.tag) with
  | some x => s.sendAnswer x.answer x.reply
  | none =>
      match s.inboundAt p.src p.ctx p.window with
      | none => s.refusePacket p 0x0703
      | some b =>
          if b.gen ≠ p.gen then s.sendAnswer .retireNack (s.answerTo p p.offset [])
          else if !b.isOpen then s.refusePacket p 0x0703
          else
            let va := p.base * 8192 + p.offset.toNat
            if 2 ^ 53 < va + p.len then s.refusePacket p 0x0705
            else
              let (s, r) := act (if p.cls = 2 then s.applyNotices else s) b.ctx va
              match r with
              | .error code => s.refusePacket p code
              | .ok d =>
                  let r := s.answerTo p p.offset d
                  let s : State := { s with performed := s.performed ++ [⟨p.src, p.causal, p.tag, answer, r, s.time⟩] }
                  s.sendAnswer answer r

/-- FABRIC_WRITE (R362): performed at the home slice and acknowledged, or NACKed. -/
def execFabricWrite (port : Nat) (p : Packet) (s : State) : Out :=
  s.arrive port p (fun s => s.servePacket p .ack (fun s ctx va =>
    let (s, r) := s.gwrite p.causal none ctx va p.payload false .ewr
    (s, match r with
      | .ok () => .ok []
      | .error e => .error e.err.nackCode)))

/-- FABRIC_READ_REQUEST (R362): LEN bytes are read at their home slices. -/
def execFabricReadRequest (port : Nat) (p : Packet) (s : State) : Out :=
  s.arrive port p (fun s => s.servePacket p .readResp (fun s ctx va =>
    let (s, r) := s.gread p.causal none ctx va p.len
    (s, match r with
      | .ok b => .ok b
      | .error e => .error e.err.nackCode)))

/-- The atomic of a packet: its operand, then CAS's new value, replace the old bytes. -/
def Packet.atomic (p : Packet) (old : List Byte) : List Byte :=
  let n := if p.w64 then 8 else 4
  leBytes n (atomNew p.op p.w64 (leDword old) (leDword (p.payload.take n)) (leDword ((p.payload.drop n).take n))).1.toNat

/-- FABRIC_ATOMIC_REQUEST (R362): an atomic in one step at the home slice, or the counter record of a GCHUNK, whose request
has a record's length (log 19). -/
def execFabricAtomicRequest (port : Nat) (p : Packet) (s : State) : Out :=
  s.arrive port p (fun s => s.servePacket p .atomResp (fun s ctx va =>
    if p.len = 64 then
      let (s, r) := s.chunkServe none p.causal ctx va
      (s, match r with
        | .ok (start, size, _) => .ok (leBytes 4 start.toNat ++ leBytes 4 size.toNat)
        | .error (.inl e) => .error e.err.nackCode
        | .error (.inr ()) => .error 0x0708)
    else
      let (s, r) := s.gatomic p.causal none ctx va (if p.w64 then 8 else 4) (Packet.atomic p) .ermw
      (s, match r with
        | .ok old => .ok (if p.ret then old else [])
        | .error e => .error e.err.nackCode)))

/-! ## This package as the source (R190, R363, R366) -/

/-- Nothing sent under a retired generation is unanswered: the report goes to the target (R367, step 5). -/
def State.settleOwed (s : State) : State :=
  let waits (o : Owed) : Bool := s.unacked.any (fun u =>
    u.pkt.ctx == o.ctx && u.pkt.window == o.sel && u.pkt.gen == o.gen && u.pkt.dst == o.dev)
  { s with
    owed := s.owed.filter waits
    outbox := s.outbox ++ (s.owed.filter (fun o => !waits o)).map (fun o => .retireReport o.dev o.ctx o.sel o.gen) }

/-- A request has its answer. -/
def State.dropUnacked (s : State) (n : Nat) : State :=
  { s with unacked := s.unacked.filter (fun u => u.name != n) }.settleOwed

/-- The request that an answer belongs to. -/
def State.requestOf (s : State) (p : Packet) : Option Unacked :=
  s.unacked.find? (fun u => u.pkt.tag == p.tag && u.pkt.causal == p.causal && u.pkt.dst == p.src)

/-- An answer for a WAITADDR: the slot that waits for it has its word, or a code. A later request of the slot makes it
stale. -/
def State.waitGot (s : State) (u : Unacked) (code : Nat) (w : Word) : State :=
  if s.unacked.any (fun v => v.op == 0 && v.elem == u.elem && u.name < v.name) then s
  else s.modWave (u.elem / 2) (fun x =>
    let f := x.slotAt (u.elem % 2)
    match f.stall with
    | .remote q => x.setSlotAt (u.elem % 2) { f with stall := .got q code w }
    | _ => x)

/-- An answer that says an element, a lane or a record has been performed or read. An operation that has ended takes no
bytes any more, but what it had performed counts. -/
def State.landAnswer (s : State) (o : EngineOp) (u : Unacked) (k : PKind) (b : List Byte) : State :=
  let off := u.pkt.offset.toNat
  let hash (s : State) (b : List Byte) : State := s.chimeAdd o.group 1 o.sel.toNat off b
  match o.kind, k with
  | .copy _, .readResp =>
      let s := s.unsend o.name u.elem
      if o.ended then s else s.modCopy o.name (fun c => { c with got := mset c.got u.elem b })
  | .copy c, .ack =>
      match c.recd.bind Layout.ofNat with
      | some l => (hash s u.pkt.payload).elemDone o l u.elem
      | none => s
  | .gather g, .readResp =>
      if o.ended then s.unsend o.name u.elem else s.gatherLand o.core o.name g u.elem b
  | .gather _, .ack => (hash s u.pkt.payload).modGather o.name (fun g => g.mark u.elem)
  | .gatom g, .atomResp => s.gatomRemote o g u.elem off (if g.ret then some (leDword b) else none)
  | .gchunk _, .atomResp =>
      let start := leWord (b.take 4)
      let size := leWord (b.drop 4)
      (if size = 0 then s else hash s (leBytes 4 (start + size).toNat)).chunkLand o start size
  | _, _ => s

/-- A response or acknowledgement arrives; one that nothing waits for is dropped. -/
def State.takeAnswer (s : State) (k : PKind) (p : Packet) : State :=
  match s.requestOf p with
  | none => s
  | some u =>
      let s := s.dropUnacked u.name
      if u.op = 0 then s.waitGot u 0 (leWord p.payload)
      else match s.opAt u.op with
        | none => s
        | some o => (s.landAnswer o u k p.payload).settleNamed u.op

/-- A request has failed with a code (R190): so does its operation. -/
def State.failRequest (s : State) (u : Unacked) (code : Nat) : State :=
  let s := s.dropUnacked u.name
  if u.op = 0 then s.waitGot u code 0
  else match s.opAt u.op with
    | none => s
    | some o =>
        let s := s.unsend o.name u.elem
        if o.ended then s.settleNamed u.op else s.failOp o code (u.pkt.offset.setWidth 64 ||| 1#64 <<< 62) 0

/-- FABRIC_READ_RESPONSE (R362). -/
def execFabricReadResponse (port : Nat) (p : Packet) (s : State) : Out :=
  s.arrive port p (fun s => s.takeAnswer .readResp p)

/-- FABRIC_ATOMIC_RESPONSE (R362). -/
def execFabricAtomicResponse (port : Nat) (p : Packet) (s : State) : Out :=
  s.arrive port p (fun s => s.takeAnswer .atomResp p)

/-- FABRIC_ACKNOWLEDGEMENT (R362): a write has been performed. -/
def execFabricAcknowledgement (port : Nat) (p : Packet) (s : State) : Out :=
  s.arrive port p (fun s => s.takeAnswer .ack p)

/-- RETIRE_NACK (R367, step 4): the operation fails with window retired. -/
def execRetireNack (port : Nat) (p : Packet) (s : State) : Out :=
  s.arrive port p (fun s => match s.requestOf p with
    | some u => s.failRequest u 0x0704
    | none => s)

/-- ERROR_NACK (R361, R362): the operation fails with the cause in OFFSET. -/
def execErrorNack (port : Nat) (p : Packet) (s : State) : Out :=
  s.arrive port p (fun s => match s.requestOf p with
    | some u => s.failRequest u (p.offset.toNat % 2 ^ 16)
    | none => s)

/-- END_TO_END_TIMEOUT (R366): no answer for 100 µs. The request is sent again on another port, and fails as window absent
after 8 timeouts. -/
def execEndToEndTimeout (n : Nat) (s : State) : Out :=
  let s := s.unfocus
  match s.unacked.find? (fun u => u.name == n) with
  | none => .refused (.notEnabled "END_TO_END_TIMEOUT")
  | some u =>
      gate "END_TO_END_TIMEOUT" (u.sent + 1600000 ≤ s.time) (
        let outs := u.outs + 1
        let s := s.emitN (s.partOf u.pkt.ctx) (portUnit u.port) 0x0704 u.pkt.causal (s.parentOf u.pkt.causal) outs
        if outs = 8 then s.failRequest u 0x0703
        else
          let port := s.portFor u.pkt.cls u.pkt.dst u.pkt.window (some u.port)
          { s with
            unacked := lmod (fun v => v.name == n) (fun v => { v with port := port, sent := s.time, outs := outs }) s.unacked
            oracle := s.oracle + 1 }.portSend port u.kind u.pkt)

/-- RETIRE_NOTICE (R367, step 3): the source closes its entry; it reports when nothing sent under the generation is
unanswered. -/
def execRetireNotice (dev ctx sel gen : Nat) (s : State) : Out :=
  let s := s.unfocus
  .next (
    if s.hub.pkg != .running then s
    else
      let hit (k : Nat) (e : WinEntry) : Bool := k == ctx * 4096 + sel && e.device == dev && e.gen == gen
      let s : State := { s with
        windows := s.windows.map (fun p => (p.1, if hit p.1 p.2 then { p.2 with v := false } else p.2))
        owed := s.owed ++ [⟨dev, ctx, sel, gen⟩] }
      s.settleOwed)

/-- COLLECTIVE_SEQUENCER_PACKET (R209, R210, R303, R363): a message of another package's sequencer. -/
def execCollectiveSequencerPacket (port : Nat) (p : Packet) (m : SeqMsg) (s : State) : Out :=
  s.arrive port p (fun s => match m with
    | .issue r => s.seqIssue r p.causal
    | .written comm nth rank => s.seqWrote comm nth rank
    | .abort comm nth rank => s.seqAbort comm nth rank p.causal
    | .timeout comm nth missing => s.seqTimeout comm nth missing
    | .chime comm _ _ _ _ _ => s.chimeHear comm m)

/-- RESERVED_KIND_PACKET (R362): dropped at the port and counted. -/
def execReservedKindPacket (port : Nat) (s : State) : Out :=
  let s := s.unfocus
  .next (if s.hub.pkg != .running || !s.portUp port then s else s.hdrDrop port)

/-! ## Links (R358, R364) -/

/-- The packets from the one that holds the n-th kept beat on. -/
def fromBeat : Nat → List (PKind × Packet) → List (PKind × Packet)
  | _, [] => []
  | n, x :: xs => if n < beatsOf x.2 then x :: xs else fromBeat (n - beatsOf x.2) xs

/-- What a port sends again when the far end asks for a replay from a beat (R364): from that beat on, in order. The beats that it
keeps are the last before the next number. -/
def Port.replayFrom (x : Port) (beat : Nat) : List (PKind × Packet) :=
  let kept := (x.replay.map (fun r => beatsOf r.2)).sum
  fromBeat ((beat + kept + 256 - x.next) % 256) x.replay

/-- The port retrains (R364). -/
def State.retrain (s : State) (port beat : Nat) : State :=
  (s.modPort port (fun x => { x with
    retrains := satInc 16 x.retrains, state := 1, beat := none, failed := 0, asked := none, repeats := 0 })).emitN 0
      (portUnit port) 0x0702 0 0 beat

/-- The far end asks for a replay from a beat: the port sends its beats again, and retrains after 16 failed replays of one. -/
def State.farReplay (s : State) (port beat : Nat) : State :=
  let old := s.portAt port
  let n := if old.asked = some beat then old.repeats + 1 else 0
  if n = 16 then s.retrain port beat
  else
    let s := s.modPort port (fun x => { x with asked := some beat, repeats := n })
    let s : State := { s with outbox := s.outbox ++ (old.replayFrom beat).map (fun r => .packet port r.1 r.2) }
    s.emitN 0 (portUnit port) 0x0701 0 0 beat

/-- A beat that arrives at a port fails its CRC: the port asks for a replay, and retrains after 16 failed replays of one beat. -/
def State.askReplay (s : State) (port beat : Nat) : State :=
  let old := s.portAt port
  let failed := if old.beat = some beat then old.failed + 1 else 0
  let s := s.modPort port (fun x => { x with crc := satInc 32 x.crc, beat := some beat, failed := failed })
  if failed = 16 then s.retrain port beat
  else
    let s : State := { s with outbox := s.outbox ++ [.replayRequest port beat] }
    s.emitN 0 (portUnit port) 0x0701 0 0 beat

/-- BEAT_CRC_FAIL (R364): a beat fails its CRC here, or at the far end of the link (log 77). -/
def execBeatCrcFail (port : Nat) (beat : BadBeat) (s : State) : Out :=
  let s := s.unfocus
  .next (
    if s.hub.pkg != .running || !s.portUp port then s
    else match beat with
      | .here n => s.askReplay port n
      | .far n => s.farReplay port n)

/-- RETRAIN_END (R364, R368): training ends. A port that is up resends its replay buffer; one that cannot train goes down
and drops it. -/
def execRetrainEnd (port : Nat) (up : Bool) (peerDev peerPort : Nat) (s : State) : Out :=
  let s := s.unfocus
  .next (
    if s.hub.pkg != .running || !s.portEnabled port || (s.portAt port).state == 2 then s
    else
      let x := s.portAt port
      if up then
        let s := s.modPort port (fun x => { x with state := 2, peerDev := peerDev % 2 ^ 16, peerPort := peerPort % 2 ^ 8 })
        { s with outbox := s.outbox ++ x.replay.map (fun r => .packet port r.1 r.2) }
      else s.modPort port (fun x => { x with state := 0, replay := [] }))

/-- DIE_LINK_FLIT_REPLAY (R358): counted in Tabor, and nothing else. -/
def execDieLinkFlitReplay (die gateway : Nat) (beat : Word) (s : State) : Out :=
  let s := s.unfocus
  .next (s.emit 0 (unitDie (die % 4) (0x62 + gateway % 2)) 0x0701 0 0 beat)

end Sys2Proof.Machine
end

