-- ==== Sys2Proof/Machine/Registers.lean ====
section
/-!
DEFINITION. Sys2Proof/Machine/Registers.lean: the device register window (R349 to R351, R368, R384, R400, R401, R408), the
trace store as software sees it (R380, R382), and the time base (R383).
-/

namespace Sys2Proof.Machine

/-! ## Reading registers -/

/-- The register of a channel's block at a word (R349, R350). HASH belongs to address-hash remapping and reads 0 without it
(R8). -/
def State.chanReg (s : State) (chan word : Nat) : Nat :=
  let c := s.chan chan
  let l := s.layer (layerKey chan)
  match word with
  | 0 => c.corr
  | 1 => c.poisoned * 2 ^ 16 + c.subst
  | 2 => c.parity
  | 3 => if s.feature 6 then c.thresh * 2 ^ 24 + b2n c.migrating * 2 ^ 23 + c.version * 2 ^ 16 + c.boundary % 2 ^ 16 else 0
  | 4 => c.acts / 2 * 2 ^ 16 + c.confl
  | 5 => layerOf chan * 2 ^ 16 + l.interval * 2 ^ 8 + uint 8 l.deg
  | 6 => c.actMax
  | _ => 0

/-- The register of a die's lease block (R351). HOLD_OVF stays while peals are absent: it is taken as a register of the memory
system, not of that feature (R8; log 89). -/
def State.leaseReg (s : State) (d word : Nat) : Nat :=
  match word with
  | 0 => (s.die d).lt
  | 1 => (s.die d).ltHi.toNat
  | 2 => (s.die d).lease
  | _ => (s.die d).holdOvf

/-- The register of a fabric port's block (R368): zero while the fabric is absent (R8). -/
def State.portReg (s : State) (p word : Nat) : Nat :=
  let x := s.portAt p
  if !s.feature 4 then 0
  else match word with
    | 0 => x.crc
    | 1 => x.drops * 2 ^ 16 + x.retrains
    | 2 => b2n (s.portEnabled p) * 4 + x.state.toNat
    | _ => x.peerDev * 2 ^ 16 + x.peerPort * 2 ^ 8

/-- TB_OFFSET: the last estimated offset, saturating to 32 bits. -/
def satOffset (x : Int) : Nat := uint 32 (max (-(2 ^ 31)) (min (2 ^ 31 - 1) x))

/-- The registers of the time base and Tabor (R384). -/
def State.timeReg (s : State) (word : Nat) : Nat :=
  let t := s.tabor
  match word with
  | 0 => s.hub.role.toNat * 4 + s.hub.lock.toNat
  | 1 => satOffset s.hub.offset
  | 2 => t.count
  | 3 => t.wpHi.toNat
  | 4 => t.dropA * 2 ^ 16 + t.dropB
  | 5 => b2n t.frozen * 2 ^ 31 + t.after.toNat * 2 ^ 16 + t.trigger.toNat
  | _ => 0

/-- Fabric ports that are enabled. -/
def State.portCount (s : State) : Nat := ((List.range 128).filter (fun p => s.hub.config.ports.getLsbD p)).length

/-- CAP_ID, PARAM, OPTIONAL and PRESENT of an entry of the capability list (R7, R401). -/
def State.capability (s : State) (k : Nat) : Nat × Nat × Bool × Bool :=
  let opt (param : Nat) : Nat × Nat × Bool × Bool := (0x0101 + (k - 7), param, true, s.feature (k - 7))
  match k with
  | 0 => (1, 1, false, true)
  | 1 => (2, 512, false, true)
  | 2 => (3, 512, false, true)
  | 3 => (4, 4096, false, true)
  | 4 => (5, 16, false, true)
  | 5 => (6, 256, false, true)
  | 6 => (7, 20, false, true)
  | 7 => opt 64
  | 11 => opt s.portCount
  | 13 => opt 8
  | _ => opt 0

/-- A word of the capability list (R6). -/
def State.capWord (s : State) (k word : Nat) : Nat :=
  let (id, param, optional, present) := s.capability k
  match word with
  | 0 => id + 2 ^ 16 + b2n present * 2 ^ 24 + b2n optional * 2 ^ 25
  | 1 => param
  | 2 => if k = 13 then 0 else 16 * (k + 1)
  | _ => 0

/-- What lies at a word of the register window (R400). -/
inductive RegPlace where
  | chan (c word : Nat)
  | lease (d word : Nat)
  | port (p word : Nat)
  | time (word : Nat)
  | tocsin (word : Nat)
  | cap (k word : Nat)
  | nothing
deriving DecidableEq, Repr

/-- The place of a byte offset of the register window. -/
def regPlace (off : Nat) : RegPlace :=
  let w := off / 4
  if off < 0x2000 then .chan (off / 0x20) (w % 8)
  else if off < 0x2040 then .lease (off / 0x10 % 4) (w % 4)
  else if 0x3000 ≤ off && off < 0x3800 then .port (off / 0x10 % 128) (w % 4)
  else if 0x4000 ≤ off && off < 0x4020 then .time (w % 8)
  else if 0x6000 ≤ off && off < 0x6008 then .tocsin (w % 2)
  else if 0x8000 ≤ off && off < 0x80E0 then .cap ((off - 0x8000) / 0x10) (w % 4)
  else .nothing

/-- Latch TR_WP_HI, as a read of TR_WP_LO does (R384). -/
def State.latchWp (s : State) : State :=
  { s with tabor := { s.tabor with wpHi := BitVec.ofNat 32 (s.tabor.count / 2 ^ 32) } }

/-- Latch LT_HI of a die, as a read of LT_LO does (R351). -/
def State.latchLt (s : State) (d : Nat) : State := s.modDie d (fun x => { x with ltHi := BitVec.ofNat 32 (x.lt / 2 ^ 32) })

/-- Read a register: its value, and what the read does. -/
def State.regRead (s : State) (off : Nat) : State × Word :=
  let w (n : Nat) : Word := BitVec.ofNat 32 n
  match regPlace off with
  | .chan c k => (s, w (s.chanReg c k))
  | .lease d k => (if k = 0 then s.latchLt d else s, w (s.leaseReg d k))
  | .port p k => (s, w (s.portReg p k))
  | .time k => (if k = 2 then s.latchWp else s, w (s.timeReg k))
  | .tocsin 0 => (s, w s.hub.cause.toNat)
  | .tocsin _ => (s, w (min s.hub.alarms (2 ^ 30 - 1) * 4 + s.hub.config.policy))
  | .cap k i => (s, w (s.capWord k i))
  | .nothing => (s, 0)

/-! ## Writing registers -/

/-- Resume the store (R380). -/
def State.unfreeze (s : State) : State := { s with tabor := { s.tabor with frozen := false } }

/-- Clear TOCSIN causes (R408). -/
def State.clearCauses (s : State) (m : BitVec 5) : State := { s with hub := { s.hub with cause := s.hub.cause &&& ~~~m } }

/-- Write a channel's register (R349): an ACT_MAX outside 512 to 8,192 is ignored. -/
def State.chanWrite (s : State) (c word : Nat) (v : Nat) : State :=
  match word with
  | 0 => s.modChan c (fun x => { x with corr := v })
  | 1 => s.modChan c (fun x => { x with poisoned := v / 2 ^ 16, subst := v % 2 ^ 16 })
  | 2 => s.modChan c (fun x => { x with parity := v % 2 ^ 16 })
  | 3 => if s.feature 6 then s.modChan c (fun x => { x with thresh := bits v 27 24 }) else s
  | 6 =>
      let m := v % 2 ^ 14
      if 512 ≤ m && m ≤ 8192 then s.modChan c (fun x => { x with actMax := m }) else s
  | _ => s

/-- Write a register of the time base or Tabor (R384). -/
def State.timeWrite (s : State) (word : Nat) (v : Nat) : State :=
  match word with
  | 0 => if bits v 3 2 = 3 then s else { s with hub := { s.hub with role := BitVec.ofNat 2 (bits v 3 2) } }
  | 4 => { s with tabor := { s.tabor with dropA := v / 2 ^ 16, dropB := v % 2 ^ 16 } }
  | 5 =>
      let s := if v.testBit 31 then s.unfreeze else s
      { s with tabor := { s.tabor with
        after := BitVec.ofNat 12 (bits v 27 16), trigger := BitVec.ofNat 8 (bits v 7 0) } }
  | _ => s

/-- Write a register: its RW fields take the value, its W1C fields are cleared where it holds ones, all others keep theirs. -/
def State.regWrite (s : State) (off : Nat) (value : Word) : State :=
  let v := value.toNat
  match regPlace off with
  | .chan c k => s.chanWrite c k v
  | .lease d 2 => if v % 2 ^ 16 = 0 then s else s.modDie d (fun x => { x with lease := v % 2 ^ 16 })
  | .lease d 3 => s.modDie d (fun x => { x with holdOvf := v })
  | .port p 0 => if s.feature 4 then s.modPort p (fun x => { x with crc := v }) else s
  | .port p 1 =>
      if s.feature 4 then s.modPort p (fun x => { x with drops := v / 2 ^ 16, retrains := v % 2 ^ 16 }) else s
  | .time k => s.timeWrite k v
  | .tocsin 0 => s.clearCauses (value.extractLsb' 0 5)
  | _ => s

/-- REGISTER_WRITE (R349): the management core or a host of the management partition writes a register. -/
def execRegisterWrite (off : Nat) (value : Word) (s : State) : Out :=
  let s := s.unfocus
  .next (s.regWrite off value)

/-- TR_WP_LO_READ (R384). -/
def execTrWpLoRead (s : State) : Out :=
  let s := s.unfocus
  .next s.latchWp

/-- LT_LO_READ (R351). -/
def execLtLoRead (die : Nat) (s : State) : Out :=
  let s := s.unfocus
  .next (s.latchLt die)

/-- TOCSIN_CAUSE_CLEAR (R408). -/
def execTocsinCauseClear (causes : BitVec 5) (s : State) : Out :=
  let s := s.unfocus
  .next (s.clearCauses causes)

/-! ## The trace store (R380, R382) -/

/-- TRACE_UNFREEZE (R380). -/
def execTraceUnfreeze (s : State) : Out :=
  let s := s.unfocus
  .next s.unfreeze

/-- TRACE_STORE_FREEZE (R380): the count of further events is done; 0x0807 is the last event before the freeze. -/
def execTraceStoreFreeze (s : State) : Out :=
  let s := s.unfocus
  let t := s.tabor
  gate "TRACE_STORE_FREEZE" (t.left == some 0 && !t.frozen)
    { s with tabor := { t.put ⟨BitVec.ofNat 32 t.causeBit, 0, unitTabor, 0x0807, 0, t.cause, s.time⟩ with
        frozen := true, left := none } }

/-- The 32 bytes of an event record (R376). -/
def Event.bytes (e : Event) : List Byte :=
  leBytes 32 (e.time % 2 ^ 64 + e.causal.toNat * 2 ^ 64 + e.parent.toNat * 2 ^ 128 + e.type % 2 ^ 16 * 2 ^ 192 +
    e.unit % 2 ^ 12 * 2 ^ 208 + e.part % 16 * 2 ^ 220 + e.payload.toNat * 2 ^ 224)

/-- A partition may see an event (R377, R382). -/
def Event.seenBy (e : Event) (part : Nat) : Bool := part == 0 || (e.part == part && !mgmtOnly e.type)

/-- What a TRACE_READ delivers: the events, then the trailer (R382). -/
def Tabor.readout (t : Tabor) (part first count : Nat) : List Byte :=
  let es := (t.store.filter (fun p => first ≤ p.1 && p.1 < first + count && p.2.seenBy part)).map Prod.snd
  let low := (t.store.head?.map Prod.fst).getD t.count
  es.flatMap Event.bytes ++ leBytes 32 (low % 2 ^ 64 + es.length * 2 ^ 64)

/-- TRACE_READ (R382). -/
def execTraceRead (src : CtlSrc) (first count : Nat) (buf : Dword) (s : State) : Out :=
  s.command "TRACE_READ" src (.traceRead src first count buf) (fun s =>
    let (s, ok) := s.ctlWrite src buf (s.tabor.readout src.part first count)
    s.ctlEnd src (if ok then 0 else 1) 0)

/-! ## The time base (R383) -/

/-- Set LOCK; a change is recorded. -/
def State.setLock (s : State) (l : BitVec 2) : State :=
  if s.hub.lock = l then s
  else { s with hub := { s.hub with lock := l } }.emitN 0 unitTime 0x0802 0 0 l.toNat

/-- Step device time by a correction; 0x0801 records the old value. -/
def State.stepTime (s : State) (by_ : Int) : State :=
  let old := s.time
  { s with time := ((old : Int) + by_).toNat }.emitN 0 unitTime 0x0801 0 0 (old % 2 ^ 32)

/-- PTP_SYNC_MESSAGE (R383): a sync interval ends with an estimate of device time minus the grandmaster's time. Before the
first lock, when device time has not been set, an interval is also good where the estimate stays within 64 ns of the last one; after
16 good intervals device time steps to the grandmaster's;
afterwards only a correction forward of more than 1 ms is a step, and smaller ones are slewed, which the free passage of
time covers (log 20). A boundary clock serves its other ports. -/
def execPtpSyncMessage (offset : Int) (s : State) : Out :=
  let s := s.unfocus
  .next (
    if s.hub.pkg != .running || s.hub.role == 0 then s
    else
      let h := s.hub
      let near := offset.natAbs ≤ 1024 || (!h.everLocked && (offset - h.offset).natAbs ≤ 1024)
      let good := if near then min (h.goodSyncs + 1) 16 else 0
      let locked := good == 16
      let first := locked && !h.everLocked
      let step : State :=
        { s with hub := { h with offset := offset, goodSyncs := good, everLocked := h.everLocked || locked } }
      let s := if first || (h.everLocked && offset < -16000000) then step.stepTime (-offset) else step
      let s := s.setLock (if locked then 2 else 1)
      if s.hub.role = 2 then { s with outbox := s.outbox ++ [.timeSync s.time] } else s)

/-- SYNC_LOSS (R383): sync messages stop, and the time base holds over. -/
def execSyncLoss (s : State) : Out :=
  let s := s.unfocus
  .next (
    if s.hub.pkg != .running || s.hub.role == 0 || s.hub.lock == 0 then s
    else { s with hub := { s.hub with goodSyncs := 0 } }.setLock 3)

end Sys2Proof.Machine
end

