-- ==== Sys2Proof/Machine/Knell.lean ====
section
/-!
DEFINITION. Sys2Proof/Machine/Knell.lean: the knell readout (R257, R385 to R388).
-/

namespace Sys2Proof.Machine

/-- A waiter entry (R386): its fields, AWAITED as bytes, and the bytes of its continuation entries. -/
structure Waiter where
  kind    : Nat
  causal  : Dword
  since   : Nat
  part    : Nat
  ctx     : Nat
  unit    : Nat
  wave    : Nat := 0
  slot    : Nat := 0
  group   : Word := 0xFFFFFFFF#32
  watch   : Option Nat := none
  awaited : List Byte := []
  more    : List Byte := []
deriving DecidableEq, Repr

/-- Continuation entries of a waiter: at most 255, so that an awaited set too long for them is cut there (log 91). -/
def Waiter.moreCount (w : Waiter) : Nat := min ((w.more.length + 63) / 64) 255

/-- Bytes filled with zeros to a length. -/
def padTo (n : Nat) (b : List Byte) : List Byte := (b ++ zeros n).take n

/-- WATCH: the µs until a deadline. -/
def watchField (now : Nat) : Option Nat → Nat
  | none => 0xFFFFFFFF
  | some t => min ((t - now) / 16000) 0xFFFFFFFE

/-- The entries of a waiter. -/
def Waiter.bytes (w : Waiter) (now : Nat) : List Byte :=
  leBytes 32 (w.since % 2 ^ 64 + w.causal.toNat * 2 ^ 64 + w.kind * 2 ^ 128 + w.moreCount * 2 ^ 136 +
    w.part % 16 * 2 ^ 144 + w.ctx % 2 ^ 12 * 2 ^ 148 + w.unit % 2 ^ 12 * 2 ^ 160 + w.wave % 2 ^ 8 * 2 ^ 172 +
    w.slot % 2 * 2 ^ 180 + w.group.toNat * 2 ^ 192 + watchField now w.watch * 2 ^ 224) ++
  padTo 32 w.awaited ++ padTo (64 * w.moreCount) w.more

/-! ## The waits of a wave (R387) -/

/-- The mask of a list of bit numbers in n bytes. -/
def maskBytes (n : Nat) (l : List Nat) : List Byte := leBytes n (l.foldl (fun m i => m ||| 2 ^ i) 0)

/-- An entry of a wave's slot, but for its kind and awaited set. -/
def State.slotWaiter (s : State) (w : Wave) (k kind : Nat) : Waiter :=
  let g := (s.groupAt w.group).getD .off
  { kind := kind, causal := (w.slotAt k).waitId, since := (w.slotAt k).since, part := g.part, ctx := g.ctx
    unit := unitCore w.core 0, wave := w.index, slot := k, group := g.gid }

/-- The deadline of a watched object. -/
def State.watchOn (s : State) (p : Watch → Bool) : Option Nat := (s.watches.find? p).map Watch.till

/-- KIND 1: the watch is that of the generation waited for. -/
def State.barWaiter (s : State) (w : Wave) (k addr : Nat) (gen : BitVec 4) : Waiter :=
  let o := s.barGet addr
  let t := s.track addr
  let ops := s.opsOn addr
  { s.slotWaiter w k 1 with
    unit := barUnit addr
    watch := s.watchOn (fun x => x.kind == 1 && x.subject == addr && !x.isOver)
    awaited := leBytes 4 (barName addr) ++ leBytes 1 gen.toNat ++ leBytes 3 o.owner ++ leBytes 2 o.pending ++
      leBytes 2 (b2n t.tracked) ++ leBytes 4 o.inBytes ++ leBytes 4 o.outBytes ++ leBytes 4 ops.length
    more := if t.tracked then maskBytes 24 t.arrived ++ ops.flatMap (fun x => leBytes 8 x.causal.toNat) else [] }

/-- KIND 2: the semaphore by its number relative to SEM_BASE, as its event names it (R243; log 91). -/
def State.semWaiter (s : State) (w : Wave) (k core sem n : Nat) : Waiter :=
  let x := mgetD (s.core core).sems sem (0, [])
  let place := (x.2.takeWhile (fun y => !(y.wave == w.name && y.slot == k))).length
  { s.slotWaiter w k 2 with
    awaited := leBytes 2 (sem - ((s.groupAt w.group).map Group.semBase).getD 0) ++ leBytes 2 n ++ leBytes 2 x.1 ++ leBytes 2 place }

/-- KIND 4: the operations of the class, of the wave or of the full engine. -/
def State.classWaiter (s : State) (w : Wave) (k : Nat) (c : Cls) (full : Bool) : Waiter :=
  let ids := (s.ops.filter (fun o => o.cls == c && (if full then o.core == w.core else o.wave == w.name))).map EngineOp.causal
  { s.slotWaiter w k 4 with
    awaited := leBytes 2 (clsIndex c) ++ leBytes 2 (w.count (clsIndex c)) ++ zeros 4 ++ leBytes 8 ((ids.headD 0).toNat)
    more := (ids.drop 1).flatMap (fun x => leBytes 8 x.toNat) }

/-- KIND 5. -/
def State.frameWaiter (s : State) (w : Wave) (k : Nat) (r : FrameReq) : Waiter :=
  let h : FrameWait := ⟨(0, 0, 0), w.name, k, r⟩
  let head := s.frameHead w.core
  let hw := head.bind (fun h => s.waveAt h.wave)
  let hg := hw.bind (fun x => s.groupAt x.group)
  { s.slotWaiter w k 5 with
    watch := s.watchOn (fun x => x.onFrame w.name k)
    awaited := leBytes 1 (s.demandOf h) ++ leBytes 1 (s.poolFree w.core).length ++
      leBytes 1 ((hw.map Wave.index).getD 0) ++ leBytes 1 ((head.map FrameWait.slot).getD 0) ++
      leBytes 4 ((hg.map Group.gid).getD 0).toNat }

/-- The wait of a fragment slot, if it has one. -/
def State.slotWait (s : State) (w : Wave) (k : Nat) : Option Waiter :=
  let f := w.slotAt k
  if !f.valid then none
  else match f.park, f.stall with
    | .barrier addr gen _, _ => some (s.barWaiter w k addr gen)
    | .sem core sem n _, _ => some (s.semWaiter w k core sem n)
    | .waitaddr a c sc cmp _ _ last, _ => some { s.slotWaiter w k 3 with
        awaited := leBytes 8 a.toNat ++ leBytes 1 c.code ++ leBytes 1 (Scope.code sc) ++ zeros 2 ++ leBytes 4 cmp.toNat ++
          leBytes 4 last.toNat }
    | .count c _ _, _ => some (s.classWaiter w k c false)
    | .frame r, _ => some (s.frameWaiter w k r)
    | .topJoin, _ => some { s.slotWaiter w k 6 with
        awaited := leBytes 1 w.top.token.toNat ++ zeros 7 ++ leBytes 8 (w.top.expect &&& ~~~w.top.arrived).toNat }
    | .halt, _ => some { s.slotWaiter w k 12 with awaited := leBytes 4 f.pc.toNat }
    | .sleep _, _ => none
    | .no, .engine c => some (s.classWaiter w k c true)
    | .no, .matrixQueue => some { s.slotWaiter w k 8 with awaited := leBytes 1 (s.matrixAccepted w.core) }
    | .no, _ => none

/-- KIND 4 of a wave without live lanes that waits for its engines: one entry for each class whose counter is not zero
(R127; log 71). -/
def State.lingerWaits (s : State) (w : Wave) : List Waiter :=
  if w.lingers then
    ([.bcopy, .gather, .gatom, .matrix, .coll].filter (fun c => w.count (clsIndex c) != 0)).map (fun c =>
      s.classWaiter w w.cur c false)
  else []

/-! ## The other waits -/

/-- A follower of a core for which no stream waits at the chain input: one that has not begun and is not the first (R225). -/
def State.lacksStream (s : State) (o : EngineOp) : Bool :=
  let first := s.ops.find? (fun x => x.core == o.core && x.state == .going && (match x.kind with
    | .mat m => m.role ≥ 2 && !m.begun
    | _ => false))
  (s.core o.core).chainIn.isNone || first.map EngineOp.name != some o.name

/-- KIND 7 and KIND 14: a follower that waits for its western stream, and a parked operation. -/
def State.opWait (s : State) (o : EngineOp) : Option Waiter :=
  let g := (s.groupAt o.group).getD .off
  let base : Waiter :=
    { kind := 14, causal := o.causal, since := o.since, part := g.part, ctx := g.ctx, unit := o.unit
      wave := ((s.waveAt o.wave).map Wave.index).getD 0, slot := o.slot, group := g.gid }
  match o.state, o.kind with
  | .parked p, _ => some { base with awaited := leBytes 1 (clsIndex o.cls) ++ zeros 7 ++ leBytes 8 p.toNat }
  | .going, .mat m =>
      if m.role ≥ 2 && !m.begun && s.lacksStream o then some { base with kind := 7, awaited := leBytes 2 ((westOf o.core).getD 0) } else none
  | _, _ => none

/-- KIND 9. -/
def State.holdWait (s : State) (h : Hold) : Waiter :=
  { kind := 9, causal := h.first, since := h.opened, part := s.partOf h.ctx, ctx := h.ctx, unit := sliceUnit h.slice
    watch := some h.till
    awaited := leBytes 1 h.peal ++ leBytes 1 h.expect.length ++ leBytes 1 h.askers.length ++ zeros 5 ++ leBytes 8 (h.line * 128)
    more := maskBytes 64 h.expect ++ maskBytes 64 (h.asked.map Asked.core) }

/-- KIND 10 and KIND 11: the open batch of a bin, and the launch that a frozen bin holds. -/
def State.binWaits (s : State) (r : Run) (node : Nat) (b : Bin) : List Waiter :=
  let base : Waiter := { kind := 10, causal := 0, since := 0, part := s.partOf r.ctx, ctx := r.ctx, unit := unitLauncher }
  let batch := match b.batches.getLast? with
    | some x =>
        if x.closed then []
        else
          let left := if b.node.timer = 0 then 0xFFFFFFFF else (x.opened + 16000 * b.node.timer - s.time) / 16000
          [{ base with
            causal := x.causal, since := x.opened
            awaited := leBytes 4 node ++ leBytes 4 (b.node.coalesce + 1 - x.count) ++ leBytes 4 left }]
    | none => []
  let held := match b.frozen with
    | some (id, pos, t) => [{ base with
        kind := 11, causal := id, since := t, awaited := leBytes 4 node ++ leBytes 4 pos }]
    | none => []
  batch ++ held

/-- KIND 13: a rank of this package that has issued while others have not. -/
def State.collWait (s : State) (o : EngineOp) : Option Waiter :=
  match o.kind, o.state with
  | .coll c, .going =>
      match s.collAt c.comm c.nth with
      | none => none
      | some cl =>
          let late := s.collMissing cl
          if !c.issued || late.isEmpty || cl.abort.isSome then none
          else
            let p := s.commSize c.comm
            let ctx := s.opCtx o
            let since := ((cl.issues.find? (fun i => i.rank == c.rank)).map RankIssue.time).getD o.since
            some {
              kind := 13, causal := o.causal, since := since, part := s.partOf ctx, ctx := ctx, unit := unitSequencer
              watch := cl.till
              awaited := leBytes 2 c.comm ++ leBytes 2 p ++ leBytes 8 o.causal.toNat ++ leBytes 4 late.length
              more := maskBytes ((p + 7) / 8) late }
  | _, _ => none

/-- Every wait of the device. -/
def State.waits (s : State) : List Waiter :=
  s.allWaves.flatMap (fun w => [0, 1].filterMap (s.slotWait w) ++ s.lingerWaits w) ++ s.ops.filterMap s.opWait ++ s.holds.map s.holdWait ++
    s.runs.flatMap (fun r => r.2.bins.flatMap (fun b => s.binWaits r.2 b.1 b.2)) ++ s.ops.filterMap s.collWait

/-- The entries that fit: a waiter that would pass the maximum is left out with its continuations, and TRUNCATED is set. -/
def fitWaiters (max now : Nat) : List Waiter → Nat → List Byte × Nat × Bool
  | [], n => ([], n, false)
  | w :: ws, n =>
      let k := 1 + w.moreCount
      if max < n + k then
        let r := fitWaiters max now ws n
        (r.1, r.2.1, true)
      else
        let r := fitWaiters max now ws (n + k)
        (w.bytes now ++ r.1, r.2)

/-- KNELL (R385): the whole package only for partition 0. Every wait is sampled in one step, so START and END are one
time. -/
def execKnell (src : CtlSrc) (scope ctx : Nat) (buf : Dword) (entries : Nat) (s : State) : Out :=
  s.command "KNELL" src (.knell src scope ctx buf entries) (fun s =>
    if scope = 3 then s.ctlEnd src 1 0
    else if scope = 2 && src.part != 0 then s.ctlEnd src 2 0
    else if scope = 0 && !s.ownsCtx src.part ctx then s.ctlEnd src (s.denied ctx) 0
    else
      let inScope (w : Waiter) : Bool :=
        if scope = 0 then w.ctx == ctx else if scope = 1 then w.part == src.part else true
      let (b, n, cut) := fitWaiters entries s.time (s.waits.filter inScope) 0
      let head := leBytes 64 (s.time % 2 ^ 64 + s.time % 2 ^ 64 * 2 ^ 64 + n * 2 ^ 128 + b2n cut * 2 ^ 160)
      let (s, ok) := s.ctlWrite src buf (head ++ b)
      if ok then (s.emitN src.part unitTabor 0x0806 src.causal 0 n).ctlEnd src 0 0 else s.ctlEnd src 1 0)

end Sys2Proof.Machine
end

