-- ==== Sys2Proof/Machine/Boot.lean ====
section
/-!
DEFINITION. Sys2Proof/Machine/Boot.lean: the configuration record, cold reset and the boot ROM, and the ROM loader (R38, R348,
R404 to R406).
-/

namespace Sys2Proof.Machine

/-! ## The configuration record and the firmware image (R404, R405) -/

/-- A record and its signature in bytes. -/
def signedLen : Nat := 64 + 4627
/-- Where the firmware image lies in flash, and the flash's size. -/
def imageAt : Nat := 2 ^ 20
/-- Bytes of the flash, and of the loader's staging area. -/
def flashLen : Nat := 2 ^ 28

/-- 64 bytes of SHA3-512. -/
def digest512 (b : List Byte) : List Byte := (Config.sha3_512 b ++ zeros 64).take 64

/-- The fields of a configuration record. -/
def configOf (x : Nat) : ConfigRec where
  mgmtPeer := BitVec.ofNat 128 (bits x 511 384)
  ports := BitVec.ofNat 128 (bits x 383 256)
  powerLimit := bits x 255 240
  device := bits x 239 224
  policy := bits x 209 208
  featureOff := BitVec.ofNat 7 (bits x 198 192)
  minSvn := bits x 159 128
  recordSvn := bits x 127 96

/-- The fields of a record pass: its mark, its reserved bits and its power limit. A record that enables no fabric port passes, so
that PARAM of capability 0x0105 can read 0 (R7; log 87). -/
def configFieldsOk (x : Nat) : Bool :=
  bits x 31 0 == 0x14346 && bits x 95 32 == 0 && bits x 191 160 == 0 && bits x 207 199 == 0 && bits x 223 210 == 0 &&
    600 ≤ bits x 255 240 && bits x 255 240 ≤ 3600

/-- A record with its signature is verified (R405). -/
def configOk (b : List Byte) : Bool := configFieldsOk (leNat (b.take 64)) && Config.verify 0 b

/-- A firmware image is verified: its signature, and its security version. -/
def imageOk (minSvn : Nat) (b : List Byte) : Bool := Config.verify 1 b && minSvn ≤ Config.imageSvn b

/-- The image that begins at an offset of a memory, as long as its own first bytes say (log 12), within `room` bytes. -/
def imageIn (m : Cells) (at_ room : Nat) : List Byte :=
  cread 0 m at_ (min room (Config.imageBytes (cread 0 m at_ 4096)))

/-- Write a record, or an image in place of the old one, to flash. -/
def State.flashRecord (s : State) (b : List Byte) : State := { s with hub := { s.hub with flash := cwrite 0 s.hub.flash 0 b } }
/-- Write an image to flash, in place of the old one. -/
def State.flashImage (s : State) (b : List Byte) : State :=
  { s with hub := { s.hub with flash := cwrite 0 (cclear s.hub.flash imageAt flashLen) imageAt b } }

/-! ## Cold reset (R38, R348, R381, R383, R405, R408, R412) -/

/-- The hub after the boot ROM has verified its flash, or in the ROM loader. -/
def Hub.boot (flash : Cells) : Hub :=
  let rec_ := cread 0 flash 0 signedLen
  let image := imageIn flash imageAt (flashLen - imageAt)
  let c := configOf (leNat (rec_.take 64))
  if configOk rec_ && imageOk c.minSvn image then
    { Hub.reset with
      config := c, flash := flash, svn := Config.imageSvn image, mr0 := digest512 rec_, mr1 := digest512 image }
  else { Hub.reset with flash := flash, pkg := .loader }

/-- Cold reset: everything takes its reset value, keys are drawn anew, and the boot ROM starts the firmware or the ROM loader.
The flash, what has left the package and what is still to come are not the package's state. -/
def State.coldReset (s : State) : State :=
  let hub := Hub.boot s.hub.flash
  let t : State := { State.reset with
    hub := hub, homeKey := Config.homeKey s.oracle, vkeys := Vector.ofFn (fun i : Fin 8 => Config.vkey s.oracle i.val)
    outbox := s.outbox, inbox := s.inbox, names := s.names, oracle := s.oracle + 1 }
  match hub.pkg with
  | .loader => { t with ctxs := [], parts := [] }
  | .running | .stopped => t

/-- COLD_RESET (R405). -/
def execColdReset (s : State) : Out := .next s.coldReset

/-! ## The ROM loader (R406) -/

/-- The loader's status word at its staging offset. -/
def State.loaderStatus (s : State) (l : LoaderStatus) (n : Nat) : State :=
  { s with hub := { s.hub with loader := l, staging := cwrite 0 s.hub.staging 0x0FFFFFC0 (leBytes 4 n) } }

/-- The loader begins to verify what an immediate names. -/
def State.loaderTake (s : State) (imm : Word) : State :=
  let s := s.loaderStatus .verifying 1
  { s with hub := { s.hub with loadImm := imm } }

/-- The loader has verified an item: 1 an image, 2 a record, at the start of the staging area. A verified item is written to
flash; any other is refused. -/
def State.loaderVerify (s : State) (imm : Word) : State :=
  let m := s.hub.staging
  let rec_ := cread 0 s.hub.flash 0 signedLen
  let refuse := s.loaderStatus .refused 2
  if imm = 1 then
    let b := imageIn m 0 (flashLen - imageAt)
    if imageOk (configOf (leNat (rec_.take 64))).minSvn b then (s.flashImage b).loaderStatus .written 3 else refuse
  else if imm = 2 then
    let b := cread 0 m 0 signedLen
    if configOk b then (s.flashRecord b).loaderStatus .written 3 else refuse
  else refuse

/-- The loader's next act on an immediate (R406): it begins to verify, it has verified, or it resets the package after what it
has written. An immediate that comes while one is acted on adds nothing (log 86). -/
def State.loaderStep (s : State) (imm : Word) : State :=
  match s.hub.loader with
  | .idle | .refused => s.loaderTake imm
  | .verifying => s.loaderVerify s.hub.loadImm
  | .written => s.coldReset

/-- The loader has begun to act on an immediate. -/
def State.loaderBusy (s : State) : Bool := s.hub.loader == .verifying || s.hub.loader == .written

/-- A host's immediate for the loader: one that comes while another is acted on adds nothing (log 86). -/
def State.loaderHear (s : State) (imm : Word) : State := if s.loaderBusy then s else s.loaderTake imm

/-- LOADER_IMMEDIATE (R406): an immediate on the loader's connection, and what the loader then does about it. -/
def execLoaderImmediate (imm : Word) (s : State) : Out :=
  let s := s.unfocus
  .next (if s.hub.pkg == .loader && (s.hub.loaderConn || s.loaderBusy) then s.loaderStep imm else s)

/-- A request on the loader's one connection. -/
def State.atLoader (s : State) (q : QpRef) : Bool := s.hub.pkg == .loader && s.hub.loaderConn && q.qp == 1

/-- The loader's remote key (R406). -/
def loaderKey : Word := 0x00001EAD

/-- Answer on the loader's connection; a NAK ends it. -/
def State.loaderAnswer (s : State) (q : QpRef) (ok invalid : Bool) (b : List Byte) : State :=
  let s := { s with outbox := s.outbox ++ [.answer q ok invalid b] }
  if ok then s else { s with hub := { s.hub with loaderConn := false } }

/-- The loader serves a request on its staging area: `none` for a write beyond it or a wrong key. -/
def State.loaderServe (s : State) (q : QpRef) (rkey : Word) (va : Dword) (len : Nat) (act : State → State × List Byte) : State :=
  if rkey != loaderKey || flashLen < va.toNat + len || 2 ^ 20 < len then s.loaderAnswer q false false []
  else
    let (s, b) := act s
    s.loaderAnswer q true false b

/-- Write bytes to the staging area. -/
def State.stage (s : State) (va : Dword) (b : List Byte) : State :=
  { s with hub := { s.hub with staging := cwrite 0 s.hub.staging va.toNat b } }

end Sys2Proof.Machine
end

