-- ==== Sys2Proof/Machine/Hosts.lean ====
section
/-!
DEFINITION. Sys2Proof/Machine/Hosts.lean: the host attachment (R275, R369 to R372, R392, R398, R400): requests of hosts, the
device's own RDMA operations, queue pairs and connections (also those of the ROM loader, R406).
-/

namespace Sys2Proof.Machine

/-! ## Requests of hosts (R369, R400) -/

/-- Answer a host's request. -/
def State.hostAck (s : State) (q : QpRef) (b : List Byte) : State :=
  { s with outbox := s.outbox ++ [.answer q true false b] }

/-- Answer with a NAK, invalid-request or remote-access: the queue pair enters the error state. -/
def State.hostNak (s : State) (q : QpRef) (invalid : Bool) : State :=
  ({ s with outbox := s.outbox ++ [.answer q false invalid []] } : State).qpError q

/-- The remote key is the queue pair's: its partition, its context and its check value. -/
def keyOk (q : QpRef) (p : Qp) (rkey : Word) : Bool :=
  let k := rkey.toNat
  bits k 31 28 == q.part && bits k 27 16 == p.ctx && bits k 15 0 == p.check

/-- The register window (R400). -/
def regWindow : Nat := 0x1FFFFFFFF00000

/-- A request arrives on a queue pair that is ready, from a host: the largest message is 1 MiB, and a wrong key is
answered with a NAK. -/
def State.hostRequest (s : State) (q : QpRef) (rkey : Word) (len : Nat) (act : State → Qp → State) : Out :=
  let s := s.unfocus
  .next (
    if s.hub.pkg != .running then s
    else match s.qpAt q with
      | none => s
      | some p =>
          if p.state != .ready then s
          else if 2 ^ 20 < len then s.hostNak q true
          else if !keyOk q p rkey then s.hostNak q false
          else act s p)

/-- An access of a control context that touches the register window. -/
def State.inWindow (s : State) (ctx : Nat) (va : Dword) (len : Nat) : Bool :=
  (((mget s.ctxs ctx).map Ctx.control).getD false) && regWindow < va.toNat + len && va.toNat < regWindow + 2 ^ 20

/-- What a window access is answered with, if it is refused: `some true` the invalid-request NAK, `some false` the
remote-access NAK. -/
def windowNak (part : Nat) (va : Dword) (len : Nat) (write : Bool) : Option Bool :=
  let off := va.toNat - regWindow
  if len != 4 || va.toNat % 4 != 0 then some true
  else match regPlace off with
    | .nothing => some false
    | .cap _ _ => if write && part != 0 then some false else none
    | _ => if part = 0 then none else some false

/-- Check the pieces of a write at the home slices, all before the first is written; a refused write writes nothing. -/
def State.probe (s : State) (ctx : Nat) : List (Nat × Nat × Nat) → State × Bool
  | [] => (s, true)
  | (line, _, n) :: ps =>
      match s.homeLine 0 ctx line .wr (n == 128) with
      | (s, .ok _) => s.probe ctx ps
      | (s, .error _) => (s, false)

/-- A range that leaves the 53-bit space has no page. -/
def spaceOk (va : Dword) (len : Nat) : Bool := va.toNat + len ≤ 2 ^ 53

/-- Perform a write of a host, unless it is refused. Its release at `.system` (R275) is what an acquire at `.system` waits for
(R261). -/
def State.hostWrite (s : State) (ctx : Nat) (va : Dword) (b : List Byte) : State × Bool :=
  if !spaceOk va b.length then (s, false)
  else
    let (s, ok) := s.probe ctx (pieces va.toNat b.length)
    if ok then
      let (s, r) := s.gwrite 0 none ctx va.toNat b false
      (s, r.isOk)
    else (s, false)

/-- The write of a request, with what follows it; a refused one is answered with the remote-access NAK. -/
def State.hostStore (s : State) (q : QpRef) (p : Qp) (va : Dword) (b : List Byte) (next : State → State) : State :=
  if s.inWindow p.ctx va b.length then
    match windowNak q.part va b.length true with
    | some x => s.hostNak q x
    | none => next (s.regWrite (va.toNat - regWindow) (leWord b))
  else
    let (t, ok) := s.hostWrite p.ctx va b
    if ok then next t else t.hostNak q false

/-- RDMA_WRITE (R275, R369): a write at the home slices with a release at `.system`. -/
def execRdmaWrite (q : QpRef) (rkey : Word) (va : Dword) (data : List Byte) (s : State) : Out :=
  if s.atLoader q then .next (s.loaderServe q rkey va data.length (fun s => (s.stage va data, [])))
  else s.hostRequest q rkey data.length (fun s p => s.hostStore q p va data (fun s => s.hostAck q []))

/-- RDMA_READ (R275, R369): a read at the home slices with an acquire at `.system`. -/
def execRdmaRead (q : QpRef) (rkey : Word) (va : Dword) (len : Nat) (s : State) : Out :=
  if s.atLoader q then .next (s.loaderServe q rkey va len (fun s => (s, cread 0 s.hub.staging va.toNat len)))
  else s.hostRequest q rkey len (fun s p =>
    if s.inWindow p.ctx va len then
      match windowNak q.part va len false with
      | some x => s.hostNak q x
      | none =>
          let (s, w) := s.regRead (va.toNat - regWindow)
          s.hostAck q (leBytes 4 w.toNat)
    else if !spaceOk va len then s.hostNak q false
    else
      let (t, r) := s.gread 0 none p.ctx va.toNat len
      match r with
      | .ok b => t.hostAck q b
      | .error _ => t.hostNak q false)

/-- RDMA_WRITE_WITH_IMMEDIATE (R369): the write, then the immediate in the queue pair's IMM word. -/
def execRdmaWriteWithImmediate (q : QpRef) (rkey : Word) (va : Dword) (data : List Byte) (imm : Word) (s : State) : Out :=
  if s.atLoader q then .next (s.loaderServe q rkey va data.length (fun s => ((s.stage va data).loaderHear imm, [])))
  else s.hostRequest q rkey data.length (fun s p =>
    if !s.writable p.ctx (p.imm.extractLsb' 0 53).toNat 4 then s.hostNak q false
    else s.hostStore q p va data (fun s => ((s.hostWrite p.ctx p.imm (leBytes 4 imm.toNat)).1).hostAck q []))

/-- ATOMIC_FETCH_ADD (R275, R369): 8 bytes at the home slice, with acquire and release at `.system`. -/
def execAtomicFetchAdd (q : QpRef) (rkey : Word) (va addend : Dword) (s : State) : Out :=
  s.hostRequest q rkey 8 (fun s p =>
    if s.inWindow p.ctx va 8 || va.toNat % 8 != 0 then s.hostNak q true
    else if !spaceOk va 8 then s.hostNak q false
    else
      let s := s.applyNotices
      let (t, r) := s.gatomic 0 none p.ctx va.toNat 8 (fun b => leBytes 8 (leDword b + addend).toNat)
      match r with
      | .ok b => t.hostAck q b
      | .error _ => t.hostNak q false)

/-- UNSUPPORTED_RDMA_REQUEST (R369). -/
def execUnsupportedRdmaRequest (q : QpRef) (s : State) : Out :=
  let s := s.unfocus
  .next (
    if s.atLoader q then s.loaderAnswer q false true []
    else if s.hub.pkg != .running then s
    else match s.qpAt q with
      | some p => if p.state == .ready then s.hostNak q true else s
      | none => s)

/-! ## Answers of hosts (R370, R371) -/

/-- The host has performed an operation of the device. -/
def State.hostDone (s : State) (o : HostOp) (data : List Byte) : State :=
  match o.use with
  | .op n elem _ =>
      (match s.opAt n with
       | none => s
       | some x =>
           (match x.kind with
            | .copy c =>
                if o.kind = 1 then
                  let s := s.unsend n elem
                  if x.ended then s else s.modCopy n (fun c => { c with got := mset c.got elem data })
                else match c.recd.bind Layout.ofNat with
                  | some l => s.elemDone x l elem
                  | none => s
            | .gatom g => s.gatomLand n g elem (leDword data)
            | _ => s).settleNamed n)
  | .notification _ => s
  | .consumed ctx =>
      let s := s.modCtx ctx (fun c => { c with consumed := leNat (data.take 4) })
      match mget s.ctxs ctx with
      | none => s
      | some c =>
          match c.notify with
          | none => s.fqDrop ctx
          | some (ring, log2, qp) =>
              if 2 ^ log2 ≤ (c.notified + 2 ^ 32 - c.consumed) % 2 ^ 32 then s.fqDrop ctx else s.notePut c ring log2 qp o.data

/-- Units of 10 µs of the receiver-not-ready timer codes (PRESUMED, log 21). -/
def rnrTicks : List Nat :=
  [65536, 1, 2, 3, 4, 6, 8, 12, 16, 24, 32, 48, 64, 96, 128, 192, 256, 384, 512, 768, 1024, 1536, 2048, 3072, 4096, 6144,
   8192, 12288, 16384, 24576, 32768, 49152]

/-- The wait of a queue pair after a receiver-not-ready NAK. -/
def State.rnrBegin (s : State) (q : QpRef) : State :=
  s.modQp q (fun p => { p with rnrTill := some (s.time + 160000 * rnrTicks.getD p.rnrTimer 1) })

/-- HOST_RDMA_RESPONSE (R370, R371, R398): the host answers an operation of the device. After a NAK the operation fails with
0x0705 and the queue pair is in the error state; a receiver-not-ready NAK begins a wait. -/
def execHostRdmaResponse (n : Nat) (a : HostAnswer) (data : List Byte) (s : State) : Out :=
  let s := s.unfocus
  match s.hostOps.find? (fun o => o.name == n && o.out) with
  | none => .refused (.notEnabled "HOST_RDMA_RESPONSE")
  | some o =>
      let gone : State := { s with hostOps := s.hostOps.filter (fun x => x.name != n) }
      .next (match a with
        | .done =>
            let t := (gone.modQp o.qp (fun p => { p with retries := 0, rnrs := 0 })).hostDone o data
            t.postQp t.hostOps.length o.qp
        | .nak => (gone.hostFail o 0x0705).qpError o.qp
        | .rnr => s.rnrBegin o.qp)

/-! ## Timers of queue pairs (R398) -/

/-- Send again what is outstanding on a queue pair. -/
def State.repost (s : State) (q : QpRef) : State :=
  let again := (s.hostOps.filter (fun o => o.qp == q && o.out)).map (fun o => { o with sent := s.time })
  { s with
    hostOps := lmod (fun o => o.qp == q && o.out) (fun o => { o with sent := s.time }) s.hostOps
    outbox := s.outbox ++ again.map Output.rdma }

/-- The acknowledgement timeout of a queue pair has passed for an operation. -/
def State.ackDue (s : State) (q : QpRef) : Bool :=
  match s.qpAt q with
  | none => false
  | some p => p.state == .ready && p.rnrTill.isNone &&
      s.hostOps.any (fun o => o.qp == q && o.out && o.sent + 65536 * 2 ^ p.timeout ≤ s.time)

/-- ACK_TIMEOUT (R398): a retry, or the error state when RETRY is exhausted. -/
def execAckTimeout (q : QpRef) (s : State) : Out :=
  let s := s.unfocus
  gate "ACK_TIMEOUT" (s.ackDue q) (
    match s.qpAt q with
    | none => s
    | some p =>
        if p.retries < p.retry then (s.modQp q (fun p => { p with retries := p.retries + 1 })).repost q
        else s.qpError q)

/-- The receiver-not-ready wait of a queue pair is over. -/
def State.rnrDue (s : State) (q : QpRef) : Bool :=
  match (s.qpAt q).bind Qp.rnrTill with
  | some t => t ≤ s.time
  | none => false

/-- RNR_TIMER_EXPIRY (R398): a retry, or the error state when RNR_RETRY is exhausted; 7 retries without limit. -/
def execRnrTimerExpiry (q : QpRef) (s : State) : Out :=
  let s := s.unfocus
  gate "RNR_TIMER_EXPIRY" (s.rnrDue q) (
    match s.qpAt q with
    | none => s
    | some p =>
        if p.rnrRetry = 7 || p.rnrs < p.rnrRetry then
          let s := (s.modQp q (fun p => { p with rnrTill := none, rnrs := p.rnrs + 1 })).repost q
          s.postQp s.hostOps.length q
        else s.qpError q)

/-! ## Connections (R392, R406) -/

/-- The queue pair on which the management host may connect after boot: its attributes are the host's and firmware's
business, and free values here (log 23). -/
def State.bootQp (s : State) (peer : BitVec 128) : Qp :=
  let x := (List.range 16).foldl (fun x i => x + (Config.freeWord (s.oracle + i)).toNat * 2 ^ (32 * i)) 0
  { qpOf x 0 true with gid := peer }

/-- CONNECTION_REQUEST (R392, R406): queue pair 0 of partition 0 accepts MGMT_PEER; the ROM loader accepts one connection on
queue pair 1. -/
def execConnectionRequest (q : QpRef) (peer : BitVec 128) (s : State) : Out :=
  let s := s.unfocus
  let answer (s : State) (ok : Bool) : State := { s with outbox := s.outbox ++ [.connection q ok] }
  .next (match s.hub.pkg with
    | .loader =>
        if q.qp = 1 && !s.hub.loaderConn then answer { s with hub := { s.hub with loaderConn := true } } true
        else answer s false
    | .running =>
        if q.part = 0 && q.qp = 0 && peer == s.hub.config.mgmtPeer then
          answer { s with qps := mset s.qps (qpKey 0 0) (s.bootQp peer), oracle := s.oracle + 16 } true
        else answer s false
    | .stopped => s)

end Sys2Proof.Machine
end

