-- ==== Sys2Proof/Machine/Dram.lean ====
section
/-!
DEFINITION. Sys2Proof/Machine/Dram.lean: events of the memory system: leases (R342), hash versions (R344), layer temperatures
and refresh (R345, R346), and the patrol scrub (R347).
-/

namespace Sys2Proof.Machine

/-! ## Leases (R342) -/

/-- REMOTE_READ (R342): a home slice serves a read of a line from another die, and grants a lease. -/
def execRemoteRead (die ctx : Nat) (va : BitVec 53) (s : State) : Out :=
  let s := s.unfocus
  let line := va.toNat / 128
  gate "REMOTE_READ" (die < 4 && (mget s.ctxs ctx).isSome && s.homeDie ctx line != die)
    (s.readLine 0 (some die) ctx line .rd).1

/-- HOME_WRITE (R342): a write within one line reaches its home slice; the home's logical time may move and notices go out. -/
def execHomeWrite (ctx : Nat) (va : BitVec 53) (data : List Byte) (s : State) : Out :=
  let s := s.unfocus
  let off := va.toNat % 128
  gate "HOME_WRITE" ((mget s.ctxs ctx).isSome && off + data.length ≤ 128)
    (s.writeLine 0 none ctx (va.toNat / 128) off data false .wr).1

/-- The notices on their way from a die to another, oldest first. -/
def State.noticesTo (s : State) (home die : Nat) : List Notice := s.notices.filter (fun n => n.home == home && n.die == die)

/-- LEASE_NOTICE (R342): the oldest notice from a die is applied on another. -/
def execLeaseNotice (home die : Nat) (s : State) : Out :=
  let s := s.unfocus
  match s.noticesTo home die with
  | [] => .refused (.notEnabled "LEASE_NOTICE")
  | n :: _ => .next { s.applyNotice n with notices := s.notices.erase n }

/-- LEASE_SNAPSHOT (R342): a die takes its view and drops the copies whose lease has ended. -/
def execLeaseSnapshot (die : Nat) (s : State) : Out :=
  let s := s.unfocus
  gate "LEASE_SNAPSHOT" (die < 4) (s.snapshot die)

/-! ## Errors of physical lines (R347) -/

/-- A line found uncorrectable stays so until it is written whole; poison stays poison (R347). -/
def State.spoil (s : State) (phys : Nat) : State :=
  match mget s.badLines phys with
  | some .bad | some .poisoned => s
  | _ => { s with badLines := mset s.badLines phys .bad }

/-- A line rewritten with good codes has no single-symbol error. -/
def State.heal (s : State) (phys : Nat) : State :=
  if s.isSoft phys then { s with badLines := mdel s.badLines phys } else s

/-- Read a line and write it again where it lies: a single-symbol error is counted and gone (R347). -/
def State.rewrite (s : State) (chan phys : Nat) : State := (s.countSoft chan phys).heal phys

/-- The lines with a single-symbol error in a row group of a channel (R344). -/
def State.softRows (s : State) (chan row : Nat) : List Nat :=
  (s.badLines.filter (fun p => p.2 == .soft chan && p.1 / 64 % 2 ^ 24 / 256 == row)).map Prod.fst

/-! ## Hash versions (R344) -/

/-- HASH_WINDOW_END (R344): 65,536 activates have been counted. -/
def execHashWindowEnd (chan : Nat) (s : State) : Out :=
  let s := s.unfocus
  gate "HASH_WINDOW_END" (65536 ≤ (s.chan chan).acts) (s.windowEnd chan)

/-- ROW_GROUP_MIGRATION (R344): the next row group is moved, which activates its rows; after the last the new version applies
to all. -/
def execRowGroupMigration (chan : Nat) (s : State) : Out :=
  let s := s.unfocus
  let c := s.chan chan
  gate "ROW_GROUP_MIGRATION" c.migrating
    (((s.softRows chan c.boundary).foldl (fun s p => s.rewrite chan p) (s.touchGroup chan c.boundary)).modChan chan (fun c =>
      if c.boundary < 65535 then { c with boundary := c.boundary + 1 } else { c with boundary := 0, migrating := false }))

/-! ## Temperatures, refresh and rows (R345, R346) -/

/-- The refresh interval code after a sample: it changes only 2 °C past a boundary. -/
def nextInterval (old : Nat) (deg : Int) : Nat :=
  let bounds : List Int := [45, 85, 95, 105]
  let up := (bounds.filter (fun b => b + 2 ≤ deg)).length
  let down := (bounds.filter (fun b => b - 2 < deg)).length
  if old < up then up else if down < old then down else old

/-- LAYER_TEMP_SAMPLE (R345): the sample of a layer sets its refresh interval; above 105 °C the layer is held until it falls
below 100 °C. -/
def execLayerTempSample (stack layer : Nat) (deg : Int) (s : State) : Out :=
  let s := s.unfocus
  .next (
    if 7 < stack || 15 < layer then s
    else
      let k := stack * 16 + layer
      let l := s.layer k
      let hold := if 105 < deg then true else if deg < 100 then false else l.hold
      let chan := stack * 32 + layer * 2
      let s := { s with layers := mset s.layers k ⟨deg, nextInterval l.interval deg, hold⟩ }
      if hold && !l.hold then s.emitN 0 (chanUnit chan) 0x0604 0 0 (layer + uint 8 deg * 2 ^ 8) else s)

/-- BANK_REFRESH (R345): a bank is refreshed, which closes its open row. -/
def execBankRefresh (chan bank : Nat) (s : State) : Out :=
  let s := s.unfocus
  gate "BANK_REFRESH" (chan < 256 && bank < 32) (
    match mget (s.chan chan).openRows bank with
    | some row => s.closeRow chan bank row
    | none => s)

/-- ROW_PRECHARGE (R346): an open row closes, and its activation counter is checked. -/
def execRowPrecharge (chan bank row : Nat) (s : State) : Out :=
  let s := s.unfocus
  gate "ROW_PRECHARGE" (mget (s.chan chan).openRows bank == some row) (s.closeRow chan bank row)

/-! ## The patrol scrub (R347) -/

/-- PATROL_SCRUB (R347): a channel reads and rewrites a physical line of its die. An error that the codes correct is counted;
after one that they do not, the line is uncorrectable until it is written whole. -/
def execPatrolScrub (chan line : Nat) (e : LineError) (s : State) : Out :=
  let s := s.unfocus
  gate "PATROL_SCRUB" (chan < 256 && line / 2 ^ 30 == chan / 64) (
    let s := s.touchRow chan line
    match e with
    | .none => s.rewrite chan line
    | .corrected => (s.modChan chan (fun c => { c with corr := satInc 32 c.corr })).heal line
    | .uncorrectable => s.spoil line)

/-! ## Physical upsets (R346, R347; log 68) -/

/-- A cell is upset. An uncorrectable error in a copy of the remote-data cache makes its line be fetched again. -/
def State.upset (s : State) : Upset → State
  | .hbm chan phys true => if (mget s.badLines phys).isSome then s else { s with badLines := mset s.badLines phys (.soft chan) }
  | .hbm _ phys false => s.spoil phys
  | .l2 ctx line => { s with l2 := lmod (·.at_ ctx line) (fun x => { x with upset := true }) s.l2 }
  | .remote die ctx line => s.dropCopy (some die) ctx line
  | .counter chan bank row =>
      { s with rowCnt := mset s.rowCnt (rowKey chan bank row) ((mgetD s.rowCnt (rowKey chan bank row) (0, false)).1, true) }

/-- The upsets whose time has come. -/
def State.upsetAll (s : State) : State :=
  if s.upsets.isEmpty then s
  else
    let now := s.upsets.filter (fun p => p.1 ≤ s.time)
    now.foldl (fun s p => s.upset p.2) { s with upsets := s.upsets.filter (fun p => s.time < p.1) }

end Sys2Proof.Machine
end

