-- ==== Sys2Proof/Machine/Package.lean ====
section
/-!
DEFINITION. Sys2Proof/Machine/Package.lean: partitions and their reset (R392 to R394, R402, R403), the configuration and
firmware commands (R404, R405), Tocsin (R408), energy (R409, R410), warm reset (R38, R348, R381, R412) and the package's limits
(R414).
-/

namespace Sys2Proof.Machine

/-! ## PART_SET (R393, R394) -/

/-- The HBM units of a partition record: (BASE, COUNT) of each die. -/
def unitsOf (x : Nat) : List (Nat × Nat) :=
  (List.range 4).map (fun d => (bits x (256 + 16 * d + 7) (256 + 16 * d), bits x (256 + 16 * d + 15) (256 + 16 * d + 8)))

/-- Two unit ranges meet. -/
def unitsMeet (a b : Nat × Nat) : Bool := a.1 < b.1 + b.2 && b.1 < a.1 + a.2 && 0 < a.2 && 0 < b.2

/-- A partition as its record describes it. -/
def partOfRecord (x now : Nat) : Part where
  ctrlCtx := bits x 115 104
  clusters := BitVec.ofNat 128 (bits x 255 128)
  units := unitsOf x
  elog := BitVec.ofNat 64 (bits x 383 320)
  elog2 := bits x 127 124
  qpMax := bits x 123 116
  mesh := bits x 103 102
  hbmShare := bits x 101 95
  fabShare := bits x 94 88
  pmr := zeros 64
  seq := 0
  energy := { Energy.zero with start := now }
  resetting := none
  rr := []

/-- The record is refused (R394, whose list does not name MAGIC and VERSION; log 32); PT_ROOT's must-be-zero bits are reserved
(R4, R332). -/
def State.partRefused (s : State) (part x : Nat) : Bool :=
  let p := partOfRecord x 0
  let tenants := (s.parts.filter (fun q => q.1 != 0)).map Prod.snd
  let clash (q : Part) : Bool :=
    p.clusters &&& q.clusters != 0 || (List.zip p.units q.units).any (fun u => unitsMeet u.1 u.2)
  bits x 87 32 != 0 || part == 0 || (mget s.parts part).isSome ||
    p.units.any (fun u => 128 < u.1 + u.2) || p.elog2 == 0 || 12 < p.elog2 || p.elog.toNat % 256 != 0 ||
    (s.parts.map Prod.snd).any clash || (mget s.ctxs p.ctrlCtx).isSome ||
    !rootClean (BitVec.ofNat 64 (bits x 511 448)) || 64 < (tenants.map Part.hbmShare).sum + p.hbmShare || 64 < (tenants.map Part.fabShare).sum + p.fabShare

/-- PART_SET (R394, R405): the partition and its control context, and the measurements. -/
def execPartSet (src : CtlSrc) (part : Nat) (record : Dword) (s : State) : Out :=
  s.mgmtCommand "PART_SET" src (.partSet src part record) (fun s =>
    let (s, b) := s.ctlRead src record 64
    match b with
    | none => s.ctlEnd src 1 0
    | some b =>
        let x := leNat b
        if s.partRefused part x then s.ctlEnd src 1 0
        else
          let p := { partOfRecord x s.time with pmr := digest512 (zeros 64 ++ b) }
          let c := Ctx.controlCtx p.ctrlCtx part (BitVec.ofNat 64 (bits x 511 448)) (BitVec.ofNat 64 (bits x 447 384))
          let s : State := { s with
            parts := mset s.parts part p, ctxs := mset s.ctxs p.ctrlCtx c
            ctxEnergy := mset s.ctxEnergy p.ctrlCtx { Energy.zero with start := s.time }
            hub := { s.hub with mr2 := digest512 (s.hub.mr2 ++ b) } }
          s.ctlEnd src 0 0)

/-! ## PART_RESET and PART_DESTROY (R39, R402, R403) -/

/-- The contexts of a partition, but for its control context. -/
def State.ctxsOf (s : State) (part : Nat) : List Nat :=
  ((s.ctxs.map Prod.snd).filter (fun c => c.part == part && !c.control)).map Ctx.id

/-- Every context of a partition. -/
def State.allCtxsOf (s : State) (part : Nat) : List Nat := ((s.ctxs.map Prod.snd).filter (fun c => c.part == part)).map Ctx.id

/-- The cores of a partition. -/
def Part.cores (p : Part) : List Nat :=
  ((List.range 128).filter (fun c => p.clusters.getLsbD c)).flatMap (fun c => (List.range 4).map (4 * c + ·))

/-- Change a partition. -/
def State.modPart (s : State) (n : Nat) (f : Part → Part) : State := { s with parts := mmod s.parts n f }

/-- An atomic or a GCHUNK of a partition that is reset performs nothing more (R39): what it has sent is waited for. -/
def State.stopAtomics (s : State) (part : Nat) : State :=
  (s.ops.filter (fun o => s.partOf (s.opCtx o) == part && !o.ended)).foldl (fun s o => match o.kind with
    | .gatom _ | .gchunk _ => (s.modOp o.name (fun x => { x with state := .done })).settleOp o
    | _ => s) s

/-- What the operations of a partition that is reset had still to post to hosts is not posted any more (R39). -/
def State.stopPosts (s : State) (part : Nat) : State :=
  s.hostOps.foldl (fun s h => match h.use with
    | .op n elem _ =>
        (match s.opAt n with
         | some o =>
             if !h.out && s.partOf (s.opCtx o) == part then
               (({ s with hostOps := s.hostOps.filter (fun x => x.name != h.name) } : State).unsend n elem).settleNamed n
             else s
         | none => s)
    | .notification _ | .consumed _ => s) s

/-- Steps 1 to 4 of R402 begin: no entry is consumed any more, the work is cancelled, hold and residual entries are dropped,
inbound windows are retired and outbound ones invalid. -/
def State.resetBegin (s : State) (part : Nat) (src : CtlSrc) (destroy : Bool) : State :=
  let s := s.modPart part (fun p => { p with resetting := some (4, src, destroy) })
  let s := (((s.ctxsOf part).foldl (fun s c => s.cancelWork c .job) s).stopAtomics part).stopPosts part
  let s := { s with
    holds := s.holds.filter (fun h => s.partOf h.ctx != part)
    lates := s.lates.filter (fun l => s.partOf l.ctx != part)
    resid := s.resid.filter (fun r => r.part != part) }
  (s.allCtxsOf part).foldl (fun s c => s.endWindows src c) s

/-- Steps 2 to 4 have ended: no group and no engine operation of the partition is left, nothing that it sent is unanswered,
and its inbound windows are retired. -/
def State.partQuiet (s : State) (part : Nat) : Bool :=
  (s.allCtxsOf part).all s.ctxQuiet && !(s.groups.any (fun g => g.2.part == part))

/-- Step 5 (R38, R348): the partition's cores are cleared, its lines written back and dropped, its translations dropped; ERTS of
every die stays. -/
def State.clearPart (s : State) (part : Nat) : State :=
  let dies := s.dies
  let cores := ((mget s.parts part).map Part.cores).getD []
  let s := { s with
    spad := s.spad.filter (fun c => !cores.contains (c.1 / 2 ^ 20)), cores := s.cores.filter (fun c => !cores.contains c.1) }
  { (s.allCtxsOf part).foldl State.flushCtx s with dies := dies }

/-- Steps 5 to 7 of R402: the REASON 1 reading, the event, and the notification to the control context. -/
def State.resetEnd (s : State) (part : Nat) (src : CtlSrc) : State :=
  let s := s.clearPart part
  let s := (s.ctxsOf part).foldl State.dropCtx s
  let s := s.logReading part none 1
  let s := s.emitN part unitManagement 0x0804 src.causal 0 part
  (s.notify (s.ctrlOf part) 5 0 src.causal).modPart part (fun p => { p with resetting := none, rr := [] })

/-- Return the physical bytes of a partition's HBM units to zero. -/
def State.scrubUnits (s : State) (p : Part) : State :=
  (List.zip (List.range 4) p.units).foldl (fun s u =>
    let lo := (u.1 * 2 ^ 24 + u.2.1 * 131072) * 8192
    let hi := (u.1 * 2 ^ 24 + (u.2.1 + u.2.2) * 131072) * 8192
    { s with
      hbm := cclear s.hbm lo hi, badLines := s.badLines.filter (fun l => decide (l.1 * 128 < lo) || decide (hi ≤ l.1 * 128)) }) s

/-- The contexts of a partition end, with its queue pairs and communicators, and its units are scrubbed. The GENs of its inbound
entries stay, for a later WINDOW_ACCEPT (R367). -/
def State.emptyPart (s : State) (part : Nat) : State :=
  let mine := s.allCtxsOf part
  let s := mine.foldl State.dropCtx s
  let s := { s with
    qps := s.qps.filter (fun q => q.1 / 256 != part), comms := s.comms.filter (fun c => c.2.part != part)
    inbound := lmod (fun b => b.isOpen && mine.contains b.ctx) (fun b => { b with gen := (b.gen + 1) % 4096, isOpen := false }) s.inbound
    hostOps := s.hostOps.filter (fun o => o.qp.part != part) }
  match mget s.parts part with
  | none => s
  | some p => s.scrubUnits p

/-- The end of a partition without a reading. -/
def State.dropPart (s : State) (part : Nat) : State :=
  let s := s.emptyPart part
  { s with parts := mdel s.parts part }

/-- Where the 38 lines of an energy log's next slot lie, as the control context maps them: number, channel and physical line. -/
def State.logLines (s : State) (p : Part) : List (Nat × Nat × Nat) :=
  let va := (p.elog.extractLsb' 0 53).toNat + 4864 * (p.seq % 2 ^ p.elog2)
  (List.range 38).filterMap (fun k => match (s.translate 0 p.ctrlCtx (va / 128 + k)).2 with
    | .ok (phys, leaf) => if leaf.wr then some (k, s.dramOf p.ctrlCtx (va / 128 + k) phys, phys) else none
    | .error _ => none)

/-- The end of a partition by PART_DESTROY (R397): its contexts end, its units are scrubbed, and a reading with REASON 4 is
written where its energy log lay (log 33). -/
def State.destroyPart (s : State) (part : Nat) : State :=
  let lines := ((mget s.parts part).map s.logLines).getD []
  let s := s.emptyPart part
  let (s, b) := s.takeReading part none 4
  let s := lines.foldl (fun s x =>
    s.channelWrite x.2.1 x.2.2 ((b.drop (128 * x.1)).take 128) false) s
  { s with parts := mdel s.parts part }

/-- PART_RESET (R402): partition 0 cannot be reset by command. -/
def execPartReset (src : CtlSrc) (part : Nat) (s : State) : Out :=
  s.mgmtCommand "PART_RESET" src (.partReset src part) (fun s =>
    if part = 0 || (mget s.parts part).isNone then s.ctlEnd src 1 0 else s.resetBegin part src false)

/-- PART_DESTROY (R397): a PART_RESET, then the partition ends. -/
def execPartDestroy (src : CtlSrc) (part : Nat) (s : State) : Out :=
  s.mgmtCommand "PART_DESTROY" src (.partDestroy src part) (fun s =>
    if part = 0 || (mget s.parts part).isNone then s.ctlEnd src 1 0 else s.resetBegin part src true)

/-- PART_RESET_ENGINES_ENDED (R402): steps 5 to 7; for a PART_DESTROY the end of the partition and the REASON 4 reading
follow. -/
def execPartResetEnginesEnded (part : Nat) (s : State) : Out :=
  let s := s.unfocus
  match (mget s.parts part).bind Part.resetting with
  | none => .refused (.notEnabled "PART_RESET_ENGINES_ENDED")
  | some (_, src, destroy) =>
      gate "PART_RESET_ENGINES_ENDED" (s.partQuiet part) (
        let s := s.resetEnd part src
        let s := if destroy then s.destroyPart part else s
        s.ctlEnd src 0 0)

/-! ## CONFIG_WRITE and FIRMWARE_WRITE (R397, R405) -/

/-- CONFIG_WRITE: a verified record goes to flash; it applies at the next cold reset. -/
def execConfigWrite (src : CtlSrc) (record : Dword) (s : State) : Out :=
  s.mgmtCommand "CONFIG_WRITE" src (.configWrite src record) (fun s =>
    let (s, b) := s.ctlRead src record signedLen
    match b with
    | some b => if configOk b then (s.flashRecord b).ctlEnd src 0 0 else s.ctlEnd src 1 0
    | none => s.ctlEnd src 1 0)

/-- FIRMWARE_WRITE: a verified image goes to flash; it applies at the next cold reset. -/
def execFirmwareWrite (src : CtlSrc) (image : Dword) (bytes : Nat) (s : State) : Out :=
  s.mgmtCommand "FIRMWARE_WRITE" src (.firmwareWrite src image bytes) (fun s =>
    if flashLen - imageAt < bytes then s.ctlEnd src 1 0
    else
      let (s, b) := s.ctlRead src image bytes
      match b with
      | some b => if imageOk s.hub.config.minSvn b then (s.flashImage b).ctlEnd src 0 0 else s.ctlEnd src 1 0
      | none => s.ctlEnd src 1 0)

/-! ## Warm reset (R38, R348, R381, R408, R412) -/

/-- Write back one dirty line at a warm reset, with an uncorrectable error mended first (R347): a line that cannot be written is
lost and counted. -/
def State.warmBack (s : State) (x : L2Line) : State :=
  if !x.dirty then s
  else
    let (s, y) := s.l2Mend 0 x false
    let x := y.getD x
    let (s, t) := s.translate 0 x.ctx x.line
    let chan := s.dramOf x.ctx x.line x.phys
    let lost (s : State) : State := s.modChan chan (fun c => { c with poisoned := satInc 16 c.poisoned })
    match t with
    | .ok (phys, leaf) => if leaf.wr then s.channelWrite chan phys x.data x.poison else lost s
    | .error _ => lost s

/-- A context after a warm reset: its settings and rings stay, its work is gone (log 24). -/
def Ctx.warm (c : Ctx) : Ctx :=
  { c with
    rings := c.rings.map (fun r => (r.1, { r.2 with ready := none }))
    lq := c.lq.map (fun q => (q.1, ⟨q.2.prio, q.2.prio, none, none, none, []⟩))
    replay := none, replayLost := false, serial := false, stopped := false, saveUsed := [], noVictim := false
    cmdCount := 0, cmdQueues := [] }

/-- What a warm reset clears: cores, waves, groups, operations, caches and leases; memory, keys, partitions, contexts, windows,
queue pairs, counters, the trace store and device time are retained. -/
def State.warmClear (s : State) : State :=
  { s with
    wave := .off, grp := .off, waves := [], groups := [], spad := [], cores := [], ops := [], enrols := [], holds := []
    lates := [], resid := [], tracks := [], watches := [], evals := [], ctxs := s.ctxs.map (fun c => (c.1, c.2.warm)), runs := []
    launches := [], l2 := [], rdc := [], tlbs := []
    dies := vmap (fun (d : Die) => { d with lt := 0, view := #v[0, 0, 0, 0], snap := #v[0, 0, 0, 0], erts := 0 }) s.dies
    notices := [], invals := [], unacked := [], owed := [], hostOps := [], colls := [], cycles := 0 }

/-- 0x0803 enters the store as the first event after a warm reset; the events that were in flight are dropped (R381). -/
def State.traceWarm (s : State) : State :=
  let e : Event := ⟨0, 0, unitManagement, 0x0803, 0, 0, s.time⟩
  let t := s.tabor.lose
  { s with tabor := if t.frozen then t.drop e.unit (classA e.type) else (t.put e).fire e }

/-- A warm reset; `keep`: dirty lines are written back and every partition gets a reading with REASON 2 first. The energy that it
uses goes to partition 0 (R412). -/
def State.warmReset (s : State) (keep : Bool) : State :=
  let s := s.unfocus
  let s := if keep then
      let s := (s.parts.map Prod.fst).foldl (fun s p => s.logReading p none 2) s
      s.l2.foldl State.warmBack s
    else s
  let s := s.warmClear.traceWarm
  { s with hub := { s.hub with resetUse := true } }

/-- WARM_RESET (R38, R348). -/
def execWarmReset (s : State) : Out :=
  let s := s.unfocus
  .next (if s.hub.pkg == .running then s.warmReset true else s)

/-! ## Tocsin (R408) -/

/-- The place of an alarm among the cause bits. -/
def alarmBit : Alarm → Nat
  | .voltage => 0
  | .clock => 1
  | .temperature => 2
  | .seed => 3
  | .selfTest => 4

/-- Policy 2: the keys of the memory are erased, every tenant is destroyed without readings, HBM is scrubbed, and the package
warm-resets. No line is written back, and no held layer delays it (log 34). -/
def State.tocsinWipe (s : State) : State :=
  let tenants := (s.parts.filter (fun p => p.1 != 0)).map Prod.fst
  let s := tenants.foldl State.dropPart { s with l2 := [], rdc := [] }
  let s := { s with
    homeKey := 0, vkeys := Vector.replicate 8 0, hbm := [], badLines := [] }
  { s.warmReset false with heldUp := false }

/-- TOCSIN_ALARM (R408): the cause is recorded, then the policy acts. -/
def execTocsinAlarm (a : Alarm) (s : State) : Out :=
  let s := s.unfocus
  .next (
    let h := s.hub
    let s := { s with hub := { h with
      cause := h.cause ||| 1#5 <<< alarmBit a, alarms := min (h.alarms + 1) (2 ^ 30 - 1)
      erased := h.erased || h.config.policy != 0 } }
    if 2 ≤ h.config.policy then s.tocsinWipe else s)

/-! ## Energy (R409, R410) -/

/-- The quotient rounded to the nearest integer, ties to even; 0 for a zero divisor. -/
def roundDiv (a b : Nat) : Nat :=
  let q := a / b
  let r := a % b
  if b = 0 then 0 else if 2 * r < b then q else if b < 2 * r then q + 1 else q + q % 2

/-- A context has groups that run. -/
def State.ctxRuns (s : State) (ctx : Nat) : Bool := s.allGroups.any (fun g => g.ctx == ctx && g.runs)

/-- An estimate of one interval (R410; log 13), `num / den` µJ, of category 0 CORE, 1 HBM, 2 FABRIC or 3 SHARED, for a partition
and perhaps one of its contexts. -/
structure Estimate where
  ctx : Option Nat
  cat : Nat
  num : Nat
  den : Nat
deriving DecidableEq, Repr

/-- Units of each die, clusters and fabric share of a partition; partition 0 has what no tenant owns. -/
def State.owned (s : State) (part : Nat) : List Nat × Nat × Nat :=
  let of (p : Part) : List Nat × Nat × Nat := (p.units.map Prod.snd, p.clusterCount, p.fabShare)
  if part ≠ 0 then ((mget s.parts part).map of).getD ([0, 0, 0, 0], 0, 0)
  else
    let ts := (s.parts.filter (fun p => p.1 != 0)).map (fun p => of p.2)
    ((List.range 4).map (fun d => 128 - (ts.map (fun t => t.1.getD d 0)).sum), 128 - (ts.map (fun t => t.2.1)).sum,
      64 - (ts.map (fun t => t.2.2)).sum)

/-- A partition owns a cluster; partition 0 has those that no tenant owns. -/
def State.ownsCluster (s : State) (part c : Nat) : Bool :=
  let has (p : Nat) : Bool := p != 0 && ((mget s.parts p).map (fun p => p.clusters.getLsbD c)).getD false
  if part ≠ 0 then has part else !(s.parts.any (fun p => has p.1))

/-- Wave-slot cycles of a context on a cluster in the interval. -/
def State.slotCycles (s : State) (c ctx : Nat) : Nat := mgetD s.hub.slotUse (c * 4096 + ctx) 0

/-- The estimates of a cluster's cores: shared among the contexts of its partition by their wave-slot cycles. -/
def State.coreEstimates (s : State) (part c : Nat) : List Estimate :=
  let e := Config.energy s.oracle 0 c 4096
  let l := (s.allCtxsOf part).filter (fun x => s.slotCycles c x != 0)
  if l.isEmpty then [⟨none, 0, e, 1⟩]
  else l.map (fun x => ⟨some x, 0, e * s.slotCycles c x, (l.map (s.slotCycles c)).sum⟩)

/-- All estimates of a partition (R410): its clusters, its accesses and flits, its shares of refresh, of idle SerDes power and of
leakage, and for partition 0 what a warm reset used (R412). -/
def State.estimates (s : State) (part : Nat) : List Estimate :=
  let o := s.oracle
  let (units, clusters, share) := s.owned part
  let named (cat : Nat) : List Estimate :=
    ⟨none, cat, Config.energy o cat part 4096, 1⟩ ::
      (s.allCtxsOf part).map (fun x => ⟨some x, cat, Config.energy o cat part x, 1⟩)
  ((List.range 128).filter (s.ownsCluster part)).flatMap (s.coreEstimates part) ++ named 1 ++ named 2 ++
    (List.range 4).map (fun d => ⟨none, 1, Config.energy o 1 (16 + d) 4096 * units.getD d 0, 128⟩) ++
    [⟨none, 3, Config.energy o 3 0 4096 * share, 64⟩, ⟨none, 3, Config.energy o 3 1 4096 * clusters, 128⟩] ++
    (if part = 0 && s.hub.resetUse then [⟨none, 3, Config.energy o 3 2 4096, 1⟩] else [])

/-- The sum of all estimates of an interval, with that of flits whose header was uncorrectable. -/
def State.estimated (s : State) : Nat :=
  let o := s.oracle
  let named (cat : Nat) : Nat :=
    (s.parts.map (fun p => ((4096 :: s.allCtxsOf p.1).map (Config.energy o cat p.1)).sum)).sum
  ((List.range 128).map (fun c => Config.energy o 0 c 4096)).sum + named 1 + named 2 +
    ((List.range 4).map (fun d => Config.energy o 1 (16 + d) 4096)).sum + Config.energy o 3 0 4096 +
    Config.energy o 3 1 4096 + (if s.hub.resetUse then Config.energy o 3 2 4096 else 0) + Config.energy o 4 0 4096

/-- Add energy of a category. -/
def Energy.put (e : Energy) (cat n : Nat) : Energy :=
  match cat with
  | 0 => { e with core := e.core + n }
  | 1 => { e with hbm := e.hbm + n }
  | 2 => { e with fabric := e.fabric + n }
  | _ => { e with shared := e.shared + n }

/-- Add estimates, each scaled to the rail energy and rounded (R410). -/
def Energy.add (e : Energy) (l : List Estimate) (rail total : Nat) : Energy :=
  l.foldl (fun e x => e.put x.cat (roundDiv (x.num * rail) (x.den * total))) e

/-- The counters' sum. -/
def Energy.total (e : Energy) : Nat := e.core + e.hbm + e.fabric + e.shared

/-- ENERGY_INTERVAL (R409, R410): the rail energy of 1 ms, in µJ, is shared among the buckets; the remainder of the rounding is
unattributed, so that the buckets sum to the rail energy. -/
def execEnergyInterval (rail : Nat) (s : State) : Out :=
  let s := s.unfocus
  .next (
    let total := s.estimated
    let parts := s.parts.map (fun p => (p.1, { p.2 with energy := p.2.energy.add (s.estimates p.1) rail total }))
    let ran (ctx : Nat) : Bool := s.ctxRuns ctx || s.hub.slotUse.any (fun u => u.1 % 4096 == ctx)
    let ctxs := s.ctxEnergy.map (fun e =>
      (e.1, if ran e.1 then
          e.2.add ((s.estimates (s.partOf e.1)).filter (fun x => x.ctx == some e.1)) rail total
        else e.2))
    let given := (s.parts.map (fun p => (Energy.zero.add (s.estimates p.1) rail total).total)).sum
    { s with
      parts := parts, ctxEnergy := ctxs, oracle := s.oracle + 1
      hub := { s.hub with
        package := s.hub.package + rail, unattrib := s.hub.unattrib + ((rail : Int) - given), counted := s.time
        slotUse := [], resetUse := false } })

/-! ## The package's limits (R414) -/

/-- CLOCK_LIMITING (R414): the arithmetic clock, in units of 10 MHz, falls or rises by 0.05 GHz. -/
def execClockLimiting (power : Nat) (hotspot : Int) (s : State) : Out :=
  let s := s.unfocus
  let limit := s.hub.config.powerLimit
  let clock := s.hub.clock
  let next :=
    if limit < power || 105 < hotspot then max 35 (clock - 5)
    else if power < limit && hotspot < 100 then min 70 (clock + 5)
    else clock
  .next { s with hub := { s.hub with clock := next } }

/-- THERMAL_STOP (R414): at 115 °C the package stops and needs a cold reset. -/
def execThermalStop (s : State) : Out :=
  let s := s.unfocus
  .next { s with hub := { s.hub with pkg := .stopped } }

end Sys2Proof.Machine
end

