-- ==== Sys2Proof/Machine/Dispatch.lean ====
section
/-!
DEFINITION. Sys2Proof/Machine/Dispatch.lean: the one table from operations to their meanings.
-/

namespace Sys2Proof.Machine

def exec (i : Instr) (s : State) : Host.Outcome State Fault Refusal :=
  match i with
  | .vadd k d a b h => Sys2Proof.Machine.execVadd k d a b h s
  | .vsub k d a b h => Sys2Proof.Machine.execVsub k d a b h s
  | .vmul d a b h => Sys2Proof.Machine.execVmul d a b h s
  | .vmulh t d a b h => Sys2Proof.Machine.execVmulh t d a b h s
  | .vmad d a b h => Sys2Proof.Machine.execVmad d a b h s
  | .vmin t d a b h => Sys2Proof.Machine.execVmin t d a b h s
  | .vmax t d a b h => Sys2Proof.Machine.execVmax t d a b h s
  | .vand d a b h => Sys2Proof.Machine.execVand d a b h s
  | .vor d a b h => Sys2Proof.Machine.execVor d a b h s
  | .vxor d a b h => Sys2Proof.Machine.execVxor d a b h s
  | .vshl d a b h => Sys2Proof.Machine.execVshl d a b h s
  | .vshr d a b h => Sys2Proof.Machine.execVshr d a b h s
  | .vsra d a b h => Sys2Proof.Machine.execVsra d a b h s
  | .vnot d a h => Sys2Proof.Machine.execVnot d a h s
  | .vpop d a h => Sys2Proof.Machine.execVpop d a h s
  | .vclz d a h => Sys2Proof.Machine.execVclz d a h s
  | .vmov d a h => Sys2Proof.Machine.execVmov d a h s
  | .vabs float d a h => Sys2Proof.Machine.execVabs float d a h s
  | .vneg float d a h => Sys2Proof.Machine.execVneg float d a h s
  | .vbfe t d a b h => Sys2Proof.Machine.execVbfe t d a b h s
  | .vbfi d a b h => Sys2Proof.Machine.execVbfi d a b h s
  | .vclamp t d a b h => Sys2Proof.Machine.execVclamp t d a b h s
  | .vdot4 t d a b h => Sys2Proof.Machine.execVdot4 t d a b h s
  | .vaddF t d a b h => Sys2Proof.Machine.execVaddF t d a b h s
  | .vsubF t d a b h => Sys2Proof.Machine.execVsubF t d a b h s
  | .vmulF t d a b h => Sys2Proof.Machine.execVmulF t d a b h s
  | .vfma t d a b h => Sys2Proof.Machine.execVfma t d a b h s
  | .vminF t d a b h => Sys2Proof.Machine.execVminF t d a b h s
  | .vmaxF t d a b h => Sys2Proof.Machine.execVmaxF t d a b h s
  | .vcmp c t p a b => Sys2Proof.Machine.execVcmp c t p a b s
  | .vsel d a p h => Sys2Proof.Machine.execVsel d a p h s
  | .vmovs d b h => Sys2Proof.Machine.execVmovs d b h s
  | .vlane d a b h => Sys2Proof.Machine.execVlane d a b h s
  | .vlrot d a b h => Sys2Proof.Machine.execVlrot d a b h s
  | .vperm d a b h => Sys2Proof.Machine.execVperm d a b h s
  | .vshuf d a b h => Sys2Proof.Machine.execVshuf d a b h s
  | .vpack bytes d a b h => Sys2Proof.Machine.execVpack bytes d a b h s
  | .vunpack t d a b h => Sys2Proof.Machine.execVunpack t d a b h s
  | .vcvt td ts rm d a => Sys2Proof.Machine.execVcvt td ts rm d a s
  | .vcvtSat td ts rm d a => Sys2Proof.Machine.execVcvtSat td ts rm d a s
  | .vcvts td ts rm sat d a => Sys2Proof.Machine.execVcvts td ts rm sat d a s
  | .vrand float d h => Sys2Proof.Machine.execVrand float d h s
  | .vrcp t d a l => Sys2Proof.Machine.execVrcp t d a l s
  | .vrsq t d a l => Sys2Proof.Machine.execVrsq t d a l s
  | .vsqrt t d a l => Sys2Proof.Machine.execVsqrt t d a l s
  | .vlog2 t d a l => Sys2Proof.Machine.execVlog2 t d a l s
  | .vsin t d a l => Sys2Proof.Machine.execVsin t d a l s
  | .vcos t d a l => Sys2Proof.Machine.execVcos t d a l s
  | .vtanh t d a l => Sys2Proof.Machine.execVtanh t d a l s
  | .vexp2s d m c l => Sys2Proof.Machine.execVexp2s d m c l s
  | .vredadd t d a l => Sys2Proof.Machine.execVredadd t d a l s
  | .vredmin t d a l => Sys2Proof.Machine.execVredmin t d a l s
  | .vredmax t d a l => Sys2Proof.Machine.execVredmax t d a l s
  | .vargmin t d a l => Sys2Proof.Machine.execVargmin t d a l s
  | .vargmax t d a l => Sys2Proof.Machine.execVargmax t d a l s
  | .vscan f t d a l => Sys2Proof.Machine.execVscan f t d a l s
  | .vcompress d a sd l => Sys2Proof.Machine.execVcompress d a sd l s
  | .vexpand d a sd l => Sys2Proof.Machine.execVexpand d a sd l s
  | .lds z o c d a l => Sys2Proof.Machine.execLds z o c d a l s
  | .sts z o c d a h => Sys2Proof.Machine.execSts z o c d a h s
  | .ldw z o c d a l => Sys2Proof.Machine.execLdw z o c d a l s
  | .stw z o c d a h => Sys2Proof.Machine.execStw z o c d a h s
  | .ldsu z o c d a l => Sys2Proof.Machine.execLdsu z o c d a l s
  | .ldres o c d a l => Sys2Proof.Machine.execLdres o c d a l s
  | .stcond o c p x a => Sys2Proof.Machine.execStcond o c p x a s
  | .ats op o c b a l => Sys2Proof.Machine.execAts op o c b a l s
  | .atw op o c b a l => Sys2Proof.Machine.execAtw op o c b a l s
  | .bcopy a b nt => Sys2Proof.Machine.execBcopy a b nt s
  | .bcopyp a b peal => Sys2Proof.Machine.execBcopyp a b peal s
  | .gather z a b => Sys2Proof.Machine.execGather z a b s
  | .scatter z nt a b => Sys2Proof.Machine.execScatter z nt a b s
  | .gatom op o c ret w64 a b => Sys2Proof.Machine.execGatom op o c ret w64 a b s
  | .mstream f z d a l => Sys2Proof.Machine.execMstream f z d a l s
  | .mstreamc f z d a l => Sys2Proof.Machine.execMstreamc f z d a l s
  | .mzeroacc d l => Sys2Proof.Machine.execMzeroacc d l s
  | .sadd k d a b => Sys2Proof.Machine.execSadd k d a b s
  | .ssub k d a b => Sys2Proof.Machine.execSsub k d a b s
  | .smul d a b => Sys2Proof.Machine.execSmul d a b s
  | .smulh t d a b => Sys2Proof.Machine.execSmulh t d a b s
  | .smad d a b => Sys2Proof.Machine.execSmad d a b s
  | .sand d a b => Sys2Proof.Machine.execSand d a b s
  | .sor d a b => Sys2Proof.Machine.execSor d a b s
  | .sxor d a b => Sys2Proof.Machine.execSxor d a b s
  | .sshl d a b => Sys2Proof.Machine.execSshl d a b s
  | .sshr d a b => Sys2Proof.Machine.execSshr d a b s
  | .ssra d a b => Sys2Proof.Machine.execSsra d a b s
  | .smin t d a b => Sys2Proof.Machine.execSmin t d a b s
  | .smax t d a b => Sys2Proof.Machine.execSmax t d a b s
  | .scmp c t d a b => Sys2Proof.Machine.execScmp c t d a b s
  | .ssel d a b c => Sys2Proof.Machine.execSsel d a b c s
  | .smov d a => Sys2Proof.Machine.execSmov d a s
  | .sclz d a => Sys2Proof.Machine.execSclz d a s
  | .spop d a => Sys2Proof.Machine.execSpop d a s
  | .slit d imm => Sys2Proof.Machine.execSlit d imm s
  | .saddc d a b => Sys2Proof.Machine.execSaddc d a b s
  | .slea t sh d a b => Sys2Proof.Machine.execSlea t sh d a b s
  | .sbfe t w p d a => Sys2Proof.Machine.execSbfe t w p d a s
  | .sbfi w p d a => Sys2Proof.Machine.execSbfi w p d a s
  | .sld d a imm => Sys2Proof.Machine.execSld d a imm s
  | .sst d a imm => Sys2Proof.Machine.execSst d a imm s
  | .sget d n => Sys2Proof.Machine.execSget d n s
  | .sset a n => Sys2Proof.Machine.execSset a n s
  | .sreadl d a b => Sys2Proof.Machine.execSreadl d a b s
  | .mand d a b => Sys2Proof.Machine.execMand d a b s
  | .mor d a b => Sys2Proof.Machine.execMor d a b s
  | .mxor d a b => Sys2Proof.Machine.execMxor d a b s
  | .mandn d a b => Sys2Proof.Machine.execMandn d a b s
  | .mnot d a => Sys2Proof.Machine.execMnot d a s
  | .mpop d a => Sys2Proof.Machine.execMpop d a s
  | .mfirst d a => Sys2Proof.Machine.execMfirst d a s
  | .msetx d a => Sys2Proof.Machine.execMsetx d a s
  | .br off => Sys2Proof.Machine.execBr off s
  | .brc t off => Sys2Proof.Machine.execBrc t off s
  | .brd p off joff => Sys2Proof.Machine.execBrd p off joff s
  | .brdn p off joff => Sys2Proof.Machine.execBrdn p off joff s
  | .call dem off => Sys2Proof.Machine.execCall dem off s
  | .calli dem a => Sys2Proof.Machine.execCalli dem a s
  | .nop => Sys2Proof.Machine.execNop s
  | .join => Sys2Proof.Machine.execJoin s
  | .exit => Sys2Proof.Machine.execExit s
  | .ret => Sys2Proof.Machine.execRet s
  | .unwind => Sys2Proof.Machine.execUnwind s
  | .umark => Sys2Proof.Machine.execUmark s
  | .yield => Sys2Proof.Machine.execYield s
  | .sleepc n => Sys2Proof.Machine.execSleepc n s
  | .trap n => Sys2Proof.Machine.execTrap n s
  | .brkpt n => Sys2Proof.Machine.execBrkpt n s
  | .haltw => Sys2Proof.Machine.execHaltw s
  | .waitcnt c n => Sys2Proof.Machine.execWaitcnt c n s
  | .drain c => Sys2Proof.Machine.execDrain c s
  | .fence o c => Sys2Proof.Machine.execFence o c s
  | .waitaddr k c d a b => Sys2Proof.Machine.execWaitaddr k c d a b s
  | .gchunk d a => Sys2Proof.Machine.execGchunk d a s
  | .coll k a b => Sys2Proof.Machine.execColl k a b s
  | .pealjoin d a => Sys2Proof.Machine.execPealjoin d a s
  | .pealleave d a => Sys2Proof.Machine.execPealleave d a s
  | .pealq d a => Sys2Proof.Machine.execPealq d a s
  | .winsel d a => Sys2Proof.Machine.execWinsel d a s
  | .mloadw f a b => Sys2Proof.Machine.execMloadw f a b s
  | .mswap => Sys2Proof.Machine.execMswap s
  | .mscale n d a => Sys2Proof.Machine.execMscale n d a s
  | .mqry q d => Sys2Proof.Machine.execMqry q d s
  | .barinit a b => Sys2Proof.Machine.execBarinit a b s
  | .bararr d a b => Sys2Proof.Machine.execBararr d a b s
  | .barwait d a b => Sys2Proof.Machine.execBarwait d a b s
  | .bararw d a b => Sys2Proof.Machine.execBararw d a b s
  | .sempost d a b => Sys2Proof.Machine.execSempost d a b s
  | .semacq d a b => Sys2Proof.Machine.execSemacq d a b s
  | .semtry d a b => Sys2Proof.Machine.execSemtry d a b s
  | .enq d a b => Sys2Proof.Machine.execEnq d a b s
  | .enqn d a b => Sys2Proof.Machine.execEnqn d a b s
  | .taskend => Sys2Proof.Machine.execTaskend s
  | .launch d a b => Sys2Proof.Machine.execLaunch d a b s
  | .cancel u => Sys2Proof.Machine.execCancel u s
  | .cntrd d u => Sys2Proof.Machine.execCntrd d u s
  | .setpri d a b => Sys2Proof.Machine.execSetpri d a b s
  | .chimemark d a => Sys2Proof.Machine.execChimemark d a s
  | .chimechk d a => Sys2Proof.Machine.execChimechk d a s
  | .ctxq d q => Sys2Proof.Machine.execCtxq d q s
  | .deliveredTrap wave => Sys2Proof.Machine.execDeliveredTrap wave s
  | .fairnessRotation wave => Sys2Proof.Machine.execFairnessRotation wave s
  | .sleepcWake wave slot => Sys2Proof.Machine.execSleepcWake wave slot s
  | .waitaddrEvaluation wave slot => Sys2Proof.Machine.execWaitaddrEvaluation wave slot s
  | .frameGrant core => Sys2Proof.Machine.execFrameGrant core s
  | .escapeSpill core => Sys2Proof.Machine.execEscapeSpill core s
  | .spillCopyDone core => Sys2Proof.Machine.execSpillCopyDone core s
  | .frameRestoreDone core => Sys2Proof.Machine.execFrameRestoreDone core s
  | .copyElement op elem => Sys2Proof.Machine.execCopyElement op elem s
  | .bcopyComplete op => Sys2Proof.Machine.execBcopyComplete op s
  | .gatherComplete op => Sys2Proof.Machine.execGatherComplete op s
  | .gatomComplete op => Sys2Proof.Machine.execGatomComplete op s
  | .gchunkServe op => Sys2Proof.Machine.execGchunkServe op s
  | .pealRequest op line => Sys2Proof.Machine.execPealRequest op line s
  | .pealHoldTimeout hold => Sys2Proof.Machine.execPealHoldTimeout hold s
  | .multicastResidual n => Sys2Proof.Machine.execMulticastResidual n s
  | .mloadwReadsBegin op => Sys2Proof.Machine.execMloadwReadsBegin op s
  | .mloadwFinish op => Sys2Proof.Machine.execMloadwFinish op s
  | .mstreamStart op => Sys2Proof.Machine.execMstreamStart op s
  | .mstreamFinish op => Sys2Proof.Machine.execMstreamFinish op s
  | .chainStreamArrival core => Sys2Proof.Machine.execChainStreamArrival core s
  | .collComplete op => Sys2Proof.Machine.execCollComplete op s
  | .collDeadline coll => Sys2Proof.Machine.execCollDeadline coll s
  | .chimechkPhaseReady op => Sys2Proof.Machine.execChimechkPhaseReady op s
  | .chimechkReexecutionDone op => Sys2Proof.Machine.execChimechkReexecutionDone op s
  | .watchExpired n => Sys2Proof.Machine.execWatchExpired n s
  | .waveStart wave => Sys2Proof.Machine.execWaveStart wave s
  | .waveRetire wave => Sys2Proof.Machine.execWaveRetire wave s
  | .binTimerExpiry run node => Sys2Proof.Machine.execBinTimerExpiry run node s
  | .groupDispatch part => Sys2Proof.Machine.execGroupDispatch part s
  | .queueAging ctx queue => Sys2Proof.Machine.execQueueAging ctx queue s
  | .queueReserving ctx queue => Sys2Proof.Machine.execQueueReserving ctx queue s
  | .preemptionRequest group => Sys2Proof.Machine.execPreemptionRequest group s
  | .preemptDrainComplete group => Sys2Proof.Machine.execPreemptDrainComplete group s
  | .groupRestore group => Sys2Proof.Machine.execGroupRestore group s
  | .ringTailWrite ctx queue => Sys2Proof.Machine.execRingTailWrite ctx queue s
  | .ringNop src => Sys2Proof.Machine.execRingNop src s
  | .launchGraph src cmd => Sys2Proof.Machine.execLaunchGraph src cmd s
  | .thawBin src run node retry => Sys2Proof.Machine.execThawBin src run node retry s
  | .groupResume src group skip => Sys2Proof.Machine.execGroupResume src group skip s
  | .groupDiscard src group => Sys2Proof.Machine.execGroupDiscard src group s
  | .faultResume src page all => Sys2Proof.Machine.execFaultResume src page all s
  | .preempt src group => Sys2Proof.Machine.execPreempt src group s
  | .ctxCreate src desc => Sys2Proof.Machine.execCtxCreate src desc s
  | .ctxDestroy src ctx => Sys2Proof.Machine.execCtxDestroy src ctx s
  | .tlbInval src ctx vpn pages flush => Sys2Proof.Machine.execTlbInval src ctx vpn pages flush s
  | .invalidationComplete n => Sys2Proof.Machine.execInvalidationComplete n s
  | .windowSet src ctx sel entry => Sys2Proof.Machine.execWindowSet src ctx sel entry s
  | .windowAccept src ctx srcDev srcCtx sel => Sys2Proof.Machine.execWindowAccept src ctx srcDev srcCtx sel s
  | .windowRetire src ctx srcDev srcCtx sel => Sys2Proof.Machine.execWindowRetire src ctx srcDev srcCtx sel s
  | .hostwinSet src ctx idx entry => Sys2Proof.Machine.execHostwinSet src ctx idx entry s
  | .qpSet src qp bind ctx attr => Sys2Proof.Machine.execQpSet src qp bind ctx attr s
  | .notifySet src ctx ring log2 qp => Sys2Proof.Machine.execNotifySet src ctx ring log2 qp s
  | .commSet src comm list ranks => Sys2Proof.Machine.execCommSet src comm list ranks s
  | .traceRead src first count buf => Sys2Proof.Machine.execTraceRead src first count buf s
  | .knell src scope ctx buf entries => Sys2Proof.Machine.execKnell src scope ctx buf entries s
  | .watchSet src ctx barrier frame coll => Sys2Proof.Machine.execWatchSet src ctx barrier frame coll s
  | .energyRead src ctx buf => Sys2Proof.Machine.execEnergyRead src ctx buf s
  | .quote src nonce buf => Sys2Proof.Machine.execQuote src nonce buf s
  | .partSet src part record => Sys2Proof.Machine.execPartSet src part record s
  | .partReset src part => Sys2Proof.Machine.execPartReset src part s
  | .partResetEnginesEnded part => Sys2Proof.Machine.execPartResetEnginesEnded part s
  | .partDestroy src part => Sys2Proof.Machine.execPartDestroy src part s
  | .routeSet src dst ports => Sys2Proof.Machine.execRouteSet src dst ports s
  | .configWrite src record => Sys2Proof.Machine.execConfigWrite src record s
  | .firmwareWrite src image bytes => Sys2Proof.Machine.execFirmwareWrite src image bytes s
  | .endToEndTimeout n => Sys2Proof.Machine.execEndToEndTimeout n s
  | .leaseNotice home die => Sys2Proof.Machine.execLeaseNotice home die s
  | .leaseSnapshot die => Sys2Proof.Machine.execLeaseSnapshot die s
  | .hashWindowEnd chan => Sys2Proof.Machine.execHashWindowEnd chan s
  | .rowGroupMigration chan => Sys2Proof.Machine.execRowGroupMigration chan s
  | .traceStoreFreeze => Sys2Proof.Machine.execTraceStoreFreeze s
  | .illegalInstructionWord c => Sys2Proof.Machine.execIllegalInstructionWord c s
  | .codeFetchFault f => Sys2Proof.Machine.execCodeFetchFault f s
  | .mzeroaccComplete op => Sys2Proof.Machine.execMzeroaccComplete op s
  | .ackTimeout q => Sys2Proof.Machine.execAckTimeout q s
  | .rnrTimerExpiry q => Sys2Proof.Machine.execRnrTimerExpiry q s
  | .retireComplete n => Sys2Proof.Machine.execRetireComplete n s
  | .fabricWrite port p => Sys2Proof.Machine.execFabricWrite port p s
  | .fabricReadRequest port p => Sys2Proof.Machine.execFabricReadRequest port p s
  | .fabricReadResponse port p => Sys2Proof.Machine.execFabricReadResponse port p s
  | .fabricAtomicRequest port p => Sys2Proof.Machine.execFabricAtomicRequest port p s
  | .fabricAtomicResponse port p => Sys2Proof.Machine.execFabricAtomicResponse port p s
  | .fabricAcknowledgement port p => Sys2Proof.Machine.execFabricAcknowledgement port p s
  | .retireNack port p => Sys2Proof.Machine.execRetireNack port p s
  | .errorNack port p => Sys2Proof.Machine.execErrorNack port p s
  | .collectiveSequencerPacket port p m => Sys2Proof.Machine.execCollectiveSequencerPacket port p m s
  | .retireNotice dev ctx sel gen => Sys2Proof.Machine.execRetireNotice dev ctx sel gen s
  | .beatCrcFail port beat => Sys2Proof.Machine.execBeatCrcFail port beat s
  | .retrainEnd port up peerDev peerPort => Sys2Proof.Machine.execRetrainEnd port up peerDev peerPort s
  | .dieLinkFlitReplay die gateway beat => Sys2Proof.Machine.execDieLinkFlitReplay die gateway beat s
  | .rdmaWrite q rkey va data => Sys2Proof.Machine.execRdmaWrite q rkey va data s
  | .rdmaRead q rkey va len => Sys2Proof.Machine.execRdmaRead q rkey va len s
  | .rdmaWriteWithImmediate q rkey va data imm => Sys2Proof.Machine.execRdmaWriteWithImmediate q rkey va data imm s
  | .atomicFetchAdd q rkey va addend => Sys2Proof.Machine.execAtomicFetchAdd q rkey va addend s
  | .hostRdmaResponse n a data => Sys2Proof.Machine.execHostRdmaResponse n a data s
  | .remoteRead die ctx va => Sys2Proof.Machine.execRemoteRead die ctx va s
  | .homeWrite ctx va data => Sys2Proof.Machine.execHomeWrite ctx va data s
  | .layerTempSample stack layer deg => Sys2Proof.Machine.execLayerTempSample stack layer deg s
  | .bankRefresh chan bank => Sys2Proof.Machine.execBankRefresh chan bank s
  | .rowPrecharge chan bank row => Sys2Proof.Machine.execRowPrecharge chan bank row s
  | .patrolScrub chan line e => Sys2Proof.Machine.execPatrolScrub chan line e s
  | .energyInterval rail => Sys2Proof.Machine.execEnergyInterval rail s
  | .clockLimiting power hotspot => Sys2Proof.Machine.execClockLimiting power hotspot s
  | .ptpSyncMessage offset => Sys2Proof.Machine.execPtpSyncMessage offset s
  | .syncLoss => Sys2Proof.Machine.execSyncLoss s
  | .traceUnfreeze => Sys2Proof.Machine.execTraceUnfreeze s
  | .trWpLoRead => Sys2Proof.Machine.execTrWpLoRead s
  | .ltLoRead die => Sys2Proof.Machine.execLtLoRead die s
  | .tocsinCauseClear causes => Sys2Proof.Machine.execTocsinCauseClear causes s
  | .registerWrite off value => Sys2Proof.Machine.execRegisterWrite off value s
  | .tocsinAlarm a => Sys2Proof.Machine.execTocsinAlarm a s
  | .coldReset => Sys2Proof.Machine.execColdReset s
  | .warmReset => Sys2Proof.Machine.execWarmReset s
  | .loaderImmediate imm => Sys2Proof.Machine.execLoaderImmediate imm s
  | .thermalStop => Sys2Proof.Machine.execThermalStop s
  | .connectionRequest q peer => Sys2Proof.Machine.execConnectionRequest q peer s
  | .unsupportedRdmaRequest q => Sys2Proof.Machine.execUnsupportedRdmaRequest q s
  | .reservedKindPacket port => Sys2Proof.Machine.execReservedKindPacket port s

end Sys2Proof.Machine
end

