-- ==== Sys2Proof/Machine/Moves.lean ====
section
/-!
DEFINITION. Sys2Proof/Machine/Moves.lean: what one step of the package is: what the outside does (log 3), which waves may
issue (R128, R182, R276, R320, R321, R324), what the device may do of itself, and what follows every step (R128, R182, R314, R318,
R321, R323, R337, R338, R342, R378). The order among possible moves and the time that passes are free (log 2).
-/

namespace Sys2Proof.Machine

/-! ## The caches keep to their sizes -/

/-- The lines of an L2 set, latest used first (R337; log 8). -/
def State.setMates (s : State) (x : L2Line) : List L2Line :=
  s.l2.filter (fun y => y.die == x.die && y.slice == x.slice &&
    Config.l2Set y.ctx y.line % 8192 == Config.l2Set x.ctx x.line % 8192)

/-- The data entries that lines use: two compressed lines share one, and a zero line uses none (R338). -/
def dataEntries (l : List L2Line) : Nat :=
  let whole := (l.filter (fun x => x.enc == .none)).length
  let half := (l.filter (fun x => x.enc != .none && x.enc != .zero)).length
  whole + (half + 1) / 2

/-- A set holds more than its 32 tags or its 16 data entries (R337). -/
def setOver (l : List L2Line) : Bool := 32 < l.length || 16 < dataEntries l

/-- Sets that hold too much evict their least recently used lines (R337, R338). -/
def State.trimL2 : Nat → State → State
  | 0, s => s
  | n + 1, s =>
      if s.l2.length ≤ 16 then s
      else match s.l2.reverse.find? (fun x => setOver (s.setMates x)) with
        | none => s
        | some x => (s.evictLine x).trimL2 n

/-- A slice of a remote-data cache that holds more than 65,536 lines, 8 MiB, loses a free one (R1, R342; log 8). -/
def State.trimRdc : Nat → State → State
  | 0, s => s
  | n + 1, s =>
      if s.rdc.length ≤ 65536 then s
      else
        let mates (x : RLine) : List RLine := s.rdc.filter (fun y => y.die == x.die && y.slice == x.slice)
        match s.rdc.find? (fun x => decide (65536 < (mates x).length)) with
        | none => s
        | some x =>
            let l := mates x
            let v := l.getD (Config.evict s.oracle l.length % l.length) x
            { s with rdc := s.rdc.erase v, oracle := s.oracle + 1 }.trimRdc n

/-- The caches keep to their sizes. -/
def State.trim (s : State) : State := (s.trimL2 s.l2.length).trimRdc s.rdc.length

/-- What a move leads to needs an activate of a held layer, in itself or in the eviction that follows it (R345). -/
def State.waitsHeld (t : State) : Bool := t.heldUp || t.unfocus.trim.heldUp

/-! ## What the outside does -/

/-- Events that come from outside: hosts, other packages, links, sensors and the device's own clocks. -/
def Instr.outside : Instr → Bool
  | .retireComplete _ | .fabricWrite _ _ | .fabricReadRequest _ _ | .fabricReadResponse _ _ | .fabricAtomicRequest _ _
  | .fabricAtomicResponse _ _ | .fabricAcknowledgement _ _ | .retireNack _ _ | .errorNack _ _
  | .collectiveSequencerPacket _ _ _ | .retireNotice _ _ _ _ | .beatCrcFail _ _ | .retrainEnd _ _ _ _
  | .dieLinkFlitReplay _ _ _ | .rdmaWrite _ _ _ _ | .rdmaRead _ _ _ _ | .rdmaWriteWithImmediate _ _ _ _ _
  | .atomicFetchAdd _ _ _ _ | .hostRdmaResponse _ _ _ | .layerTempSample _ _ _ | .bankRefresh _ _ | .rowPrecharge _ _ _
  | .patrolScrub _ _ _ | .energyInterval _ | .clockLimiting _ _ | .ptpSyncMessage _ | .syncLoss | .traceUnfreeze
  | .trWpLoRead | .ltLoRead _ | .tocsinCauseClear _ | .registerWrite _ _ | .tocsinAlarm _ | .coldReset | .warmReset
  | .loaderImmediate _ | .thermalStop | .connectionRequest _ _ | .unsupportedRdmaRequest _ | .reservedKindPacket _ => true
  | _ => false

/-- Events that the package takes while it is in the ROM loader (R406). -/
def Instr.atRom : Instr → Bool
  | .rdmaWrite _ _ _ _ | .rdmaRead _ _ _ _ | .rdmaWriteWithImmediate _ _ _ _ _ | .atomicFetchAdd _ _ _ _ | .coldReset
  | .loaderImmediate _ | .connectionRequest _ _ | .unsupportedRdmaRequest _ => true
  | _ => false

/-- The package takes an event from outside in what it is doing now: after a thermal stop only a cold reset (R414). -/
def PkgState.takes (p : PkgState) (i : Instr) : Bool :=
  match p with
  | .running => Instr.outside i
  | .loader => Instr.atRom i
  | .stopped => i == .coldReset

/-- Take what the outside does. What the package does not take, or what cannot happen, has no effect. -/
def State.fromOutside (s : State) (i : Instr) : State :=
  if s.hub.pkg.takes i then
    match Machine.exec i s with
    | .next t => t
    | .fault _ | .refused _ => s
  else s

/-! ## Which waves may issue -/

/-- What a fragment waits for without being parked lets it try to issue. -/
def Stall.tries : Stall → Bool
  | .page _ | .remote _ => false
  | .no | .engine _ | .matrixQueue | .result | .order | .refetch _ | .got _ _ _ => true

/-- A stall that ends by what others do. -/
def Stall.holds : Stall → Bool
  | .engine _ | .matrixQueue | .result | .order => true
  | .no | .page _ | .refetch _ | .remote _ | .got _ _ _ => false

/-- A delivered trap of the issuing fragment stands before its next instruction (R276). -/
def Wave.trapFirst (w : Wave) : Bool := w.traps.any (fun t => w.trapSlot t == w.cur)

/-- A wave may issue in the cycle in which a held trap stops its group: of the waves that issue then each takes its own trap
(R278). -/
def Group.sameCycle (g : Group) (now : Nat) (w : Wave) : Bool :=
  g.heldAt == some now && !g.trapped.any (fun p => p.1 == w.index)

/-- The group lets the wave issue: it runs and the wave is current in ordered mode (R321), or it drains and the fragment
defers the drain (R182), in ordered mode too when the wave is not current (log 73), or issues in the cycle of the trap. -/
def Group.letsIssue (g : Group) (now : Nat) (w : Wave) : Bool :=
  let current := !g.ordered || mget g.current w.core == some w.index
  match g.state with
  | .running => current
  | .draining _ _ _ => w.deferring w.cur || (g.sameCycle now w && current)
  | _ => false

/-- The blocks of a spilled wave are on their way back: it does not run yet (R323). -/
def State.comingBack (s : State) (w : Wave) : Bool :=
  w.evicted && (match (s.core w.core).spill with
    | some j => j.back && j.wave == w.name
    | none => false)

/-- The wave in focus issues: the instruction at its program counter, which is fetched and decoded. A fragment whose frame
lies in the spill area waits for it instead (R324). -/
def State.issueOne (s : State) : Out :=
  match mget s.wave.frames s.frameKey with
  | none => .fault .frameNotResident
  | some f =>
      if f.spilled || s.wave.evicted then .next (s.park (.frame .restore))
      else match s.fetch with
        | (t, .instr i) => Machine.exec i t
        | (t, .illegal c) => Machine.exec (.illegalInstructionWord c) t
        | (t, .failed f _) => Machine.exec (.codeFetchFault f) t

/-- A layer that takes no new activates (R345). -/
def State.layerHeld (s : State) : Bool := s.layers.any (fun l => l.2.hold)

/-- The instruction of a wave would do something: a fragment that stalls does not try again while nothing has changed for it, and
one whose access a held layer holds up waits (R320; log 69). -/
def State.tryable (s : State) (w : Wave) : Bool :=
  let stalled := w.slot.stall.holds
  if !stalled && !s.layerHeld then true
  else match (s.focus w.name).issueOne with
    | .next t => !t.waitsHeld && (!stalled || (match mget t.unfocus.waves w.name with
        | some x => (x.slotAt w.cur).stall != w.slot.stall
        | none => true))
    | .fault _ | .refused _ => true

/-- A wave may issue its next instruction: one in each cycle (R320). -/
def State.eligible (s : State) (w : Wave) : Bool :=
  w.life == .running && !w.halted && !s.comingBack w && w.slot.ready && w.slot.stall.tries && !w.trapFirst &&
    w.issueAt != s.cycles.toNat + 1 &&
    (match mget s.groups w.group with
     | some g => g.letsIssue s.cycles.toNat w
     | none => false) && s.tryable w

/-- The waves that may issue, least recently issued first, then by wave slot: waves that issued last in one cycle tie (R320). -/
def State.eligibles (s : State) : List Wave :=
  let lt (a b : Wave) : Bool := a.issueAt < b.issueAt || (a.issueAt == b.issueAt && a.wslot < b.wslot)
  ((s.waves.map Prod.snd).filter s.eligible).foldl (fun l w =>
    l.takeWhile (fun x => !lt w x) ++ w :: l.dropWhile (fun x => !lt w x)) []

/-- An instruction that the core places in the matrix order (R214). -/
def Instr.inMatrixOrder : Instr → Bool
  | .mloadw _ _ _ | .mswap | .mscale _ _ _ | .mqry _ _ | .mstream _ _ _ _ _ | .mstreamc _ _ _ _ _ | .mzeroacc _ _ => true
  | _ => false

/-- The wave presents an instruction of the matrix order. -/
def State.presentsMatrix (s : State) (w : Wave) : Bool :=
  match (s.focus w.name).fetch.2 with
  | .instr i => Instr.inMatrixOrder i
  | .illegal _ | .failed _ _ => false

/-- Of the waves of one group that present matrix instructions, the lowest logical wave goes first (R214). -/
def State.matrixFirst (s : State) (ws : List Wave) (w : Wave) : Wave :=
  let rivals := ws.filter (fun x => x.core == w.core && x.group == w.group && x.index < w.index)
  if rivals.isEmpty || !s.presentsMatrix w then w
  else (rivals.filter s.presentsMatrix).foldl (fun a b => if b.index < a.index then b else a) w

/-- The wave of each core that issues next: the least recently issued (R320), unless a lower wave of its group goes first in the
matrix order (R214). -/
def State.issuers (s : State) : List Wave :=
  let ws := s.eligibles
  (ws.foldl (fun l w => if l.any (fun x => x.core == w.core) then l else l ++ [w]) []).map (s.matrixFirst ws)

/-! ## What the device does of itself -/

/-- The lines that a BCOPYP may ask for. -/
def CopyOp.pealLines (c : CopyOp) : List Nat :=
  match c.peal, c.recd.bind Layout.ofNat with
  | some _, some l => ((List.range 64).map (fun k => ((l.srcAt (c.low + k)).extractLsb' 7 46).toNat)).eraseDups
  | _, _ => []

/-- Events of an engine operation. -/
def EngineOp.moves (o : EngineOp) : List Instr :=
  match o.kind with
  | .empty =>
      (match o.cls with
       | .bcopy => [.bcopyComplete o.name]
       | .gather => [.gatherComplete o.name]
       | .gatom => [.gatomComplete o.name]
       | .matrix => [.mstreamFinish o.name]
       | .coll => [])
  | .copy c =>
      .bcopyComplete o.name :: (if c.recd.isNone then [.copyElement o.name 0]
        else (List.range 64).map (fun k => .copyElement o.name (c.low + k))) ++ c.pealLines.map (.pealRequest o.name)
  | .gather _ => [.gatherComplete o.name]
  | .gatom _ => [.gatomComplete o.name]
  | .gchunk _ => [.gchunkServe o.name]
  | .mat _ =>
      [.mloadwReadsBegin o.name, .mloadwFinish o.name, .mstreamStart o.name, .mstreamFinish o.name, .mzeroaccComplete o.name]
  | .coll _ => [.collComplete o.name]
  | .chime _ => [.chimechkPhaseReady o.name, .chimechkReexecutionDone o.name]

/-- Cores on which something can happen. -/
def State.busyCores (s : State) : List Nat :=
  (s.cores.map Prod.fst ++ s.waves.map (fun p => p.2.core) ++
    s.ops.filterMap (fun o => if o.cls == .matrix then eastOf o.core else none)).eraseDups

/-- Events of a core. -/
def coreMoves (core : Nat) : List Instr :=
  [.escapeSpill core, .spillCopyDone core, .frameRestoreDone core, .chainStreamArrival core]

/-- Events of a wave. -/
def waveMoves (w : Wave) : List Instr :=
  [.waveStart w.name, .waveRetire w.name, .deliveredTrap w.name, .sleepcWake w.name 0, .sleepcWake w.name 1] ++
    [.waitaddrEvaluation w.name 0, .waitaddrEvaluation w.name 1]

/-- Events of a run: bin timers, and the command of a LAUNCH that the launcher has not consumed. -/
def Run.moves (r : Run) : List Instr :=
  r.bins.map (fun b => .binTimerExpiry r.name b.1) ++
    (if r.placed then [] else [.launchGraph ⟨r.ctx, r.queue, r.causal⟩ r.cmd])

/-- Events of a context: its rings. -/
def Ctx.moves (c : Ctx) : List Instr :=
  c.rings.flatMap (fun r => .ringTailWrite c.id r.1 :: r.2.ready.toList)

/-- Events of a partition: what its launcher places next, and the end of its reset. -/
def State.partMoves (s : State) (part : Nat) : List Instr :=
  (match s.choice part with
   | some (r, _) =>
       (match r.next with
        | .restore g => [.groupRestore g]
        | .fresh _ => [.groupDispatch part])
   | none => []) ++ [.partResetEnginesEnded part]

/-- A die's snapshot would change something (R342). -/
def State.snapMoves (s : State) (d : Nat) : Bool :=
  let x := s.die d
  (List.range 4).any (fun h => x.view.toArray.getD h 0 != x.snap.toArray.getD h 0) ||
    s.rdc.any (fun y => y.die == d && y.till < x.snap.toArray.getD y.home 0)

/-- Events of the memory system. -/
def State.memMoves (s : State) : List Instr :=
  s.notices.map (fun n => .leaseNotice n.home n.die) ++ ((List.range 4).filter s.snapMoves).map .leaseSnapshot ++
    (s.chans.filter (fun c => c.2.migrating)).map (fun c => .rowGroupMigration c.1) ++
    s.invals.map (fun v => .invalidationComplete v.name)

/-- Residual entries, and the timers of requests and queue pairs. -/
def State.timerMoves (s : State) : List Instr :=
  s.resid.map (fun r => .multicastResidual r.name) ++ s.unacked.map (fun u => .endToEndTimeout u.name) ++
    s.qps.flatMap (fun q => [.ackTimeout ⟨q.1 / 256, q.1 % 256⟩, .rnrTimerExpiry ⟨q.1 / 256, q.1 % 256⟩])

/-- Everything that the device might do of itself. -/
def State.proposals (s : State) : List Instr :=
  s.ops.flatMap EngineOp.moves ++ s.busyCores.flatMap coreMoves ++ s.waves.flatMap (fun p => waveMoves p.2) ++
    s.runs.flatMap (fun p => p.2.moves) ++ s.ctxs.flatMap (fun p => p.2.moves) ++
    s.parts.flatMap (fun p => s.partMoves p.1) ++
    s.groups.flatMap (fun p => [.preemptionRequest p.1, .preemptDrainComplete p.1]) ++ s.memMoves ++ s.timerMoves

/-- Snapshots that are due: a die takes one at least every 1 µs (R342). -/
def State.snapDue (s : State) : List Nat :=
  (List.range 4).filter (fun d => (s.die d).snapAt + 16000 ≤ s.time && s.snapMoves d)

/-- Deadlines that have passed (R199, R210, R391): what comes in the cycle of a deadline counts before it. -/
def State.expiries (s : State) : List Instr :=
  (s.holds.filter (fun h => h.full || h.till < s.time)).map (fun h => .pealHoldTimeout h.name) ++
    (s.colls.filter s.collOverdue).map (fun c => .collDeadline c.name) ++
    ((List.zip (List.range s.watches.length) s.watches).filter (fun w => !w.2.expired && w.2.till < s.time)).map
      (fun w => .watchExpired w.1)

/-- What the device does before anything else: the store's freeze (R380), the end of a window of activates (R344), a peal
hold whose ringers have all asked (R198), deadlines, a fairness rotation (R129), notices that have been under way for 1 µs and
snapshots that are due (R342), aging and reserving of queues (R314, R318), and the grant to the head of a frame queue (R322). -/
def State.urgent (s : State) : List Instr :=
  .traceStoreFreeze :: (s.chans.filter (fun c => 65536 ≤ c.2.acts)).map (fun c => .hashWindowEnd c.1) ++ s.expiries ++
    s.waves.map (fun p => .fairnessRotation p.1) ++
    (s.notices.filter (fun n => n.till ≤ s.time)).map (fun n => .leaseNotice n.home n.die) ++ s.snapDue.map .leaseSnapshot ++
    s.ctxs.flatMap (fun c => c.2.lq.flatMap (fun q => [.queueAging c.1 q.1, .queueReserving c.1 q.1])) ++
    (s.busyCores.filter (fun c => (s.grantHead c).isSome)).map .frameGrant

/-- The event can happen now. -/
def State.can (s : State) (i : Instr) : Bool :=
  match Machine.exec i s with
  | .next t => !t.waitsHeld
  | .fault _ | .refused _ => false

/-! ## The choice (log 2) -/

/-- What a step does: an outside event by its place in the list, an event of the device, the issue of a wave, or the ROM loader
acting on its immediate. -/
inductive Move where
  | outside (k : Nat)
  | event (i : Instr)
  | issue (wave : Nat)
  | rom
  | idle
deriving DecidableEq, Repr

/-- The moves of a running package: the device's own events and the waves that may issue. -/
def State.moves (s : State) : List Move :=
  (s.proposals.filter s.can).map .event ++ s.issuers.map (fun w => .issue w.name)

/-- One of several moves. -/
def State.pickMove (s : State) : List Move → Move
  | [] => .idle
  | [m] => m
  | m :: ms => (m :: ms).getD (Config.pick s.oracle (ms.length + 1) % (ms.length + 1)) m

/-- What the outside does now, if its time has come: the first event that no held layer holds up (log 69). -/
def State.due (s : State) : List Move :=
  let now := s.inbox.takeWhile (fun x => decide (x.at_ ≤ s.time))
  (((List.zip (List.range now.length) now).find? (fun p => !(s.fromOutside p.2.ev).waitsHeld)).map
    (fun p => Move.outside p.1)).toList

/-- What the ROM loader has to do for the immediate that it acts on (R406). -/
def State.romMoves (s : State) : List Move :=
  if s.hub.pkg = .loader && s.loaderBusy then [.rom] else []

/-- The move of a step, in a state without a focus. -/
def State.choose (s : State) : Move :=
  if s.hub.pkg = .running then
    match s.urgent.find? s.can with
    | some i => .event i
    | none =>
        match s.due with
        | m :: _ => m
        | [] => s.pickMove s.moves
  else s.pickMove (s.due ++ s.romMoves)

/-! ## The passage of time (log 2) -/

/-- Times at which the device does something by itself: no step passes one (R314, R318, R342, R391). -/
def State.deadlines (s : State) : List Nat :=
  s.notices.map Notice.till ++ ((List.range 4).filter s.snapMoves).map (fun d => (s.die d).snapAt + 16000) ++
    s.inbox.map Input.at_ ++
    s.ctxs.flatMap (fun c => c.2.lq.flatMap (fun q =>
      (if q.2.eff < 7 then (q.2.readyFrom.map (· + 4 * msec)).toList else []) ++
        (if q.2.reserving.isNone then (q.2.passFrom.map (· + msec)).toList else []))) ++
    s.holds.map (fun h => h.till + 1) ++ (s.watches.filter (fun w => !w.expired)).map (fun w => w.till + 1) ++
    (s.colls.filter s.collKeeper).filterMap (fun c => c.till.map (· + 1))

/-- Add the wave-slot cycles of n cycles (R410). -/
def State.slotUses (s : State) (n : Nat) : AMap Nat :=
  s.waves.foldl (fun m p =>
    let g := (mget s.groups p.2.group).getD .off
    let k := p.2.core / 4 * 4096 + g.ctx
    if p.2.life == .done || n = 0 then m else mset m k (mgetD m k 0 + n)) s.hub.slotUse

/-- The fairness timer of a wave runs (R129). -/
def State.ticks (s : State) (w : Wave) : Bool :=
  match mget s.groups w.group with
  | some g => { s with wave := w, grp := g }.timerRuns
  | none => false

/-- Cycles up to the first fairness rotation, at most n (R129). -/
def State.tillRotation (s : State) (n : Nat) : Nat :=
  s.waves.foldl (fun n p =>
    if s.ticks p.2 then
      min n (((mget s.ctxs ((mgetD s.groups p.2.group .off).ctx)).map Ctx.fairness).getD n - p.2.ftimer)
    else n) n

/-- n cycles and a stretch of device time pass, but no more than up to the next fairness rotation and the next deadline: cycles,
the fairness timers that run (R129), and the snapshots of dies that have nothing to take (R342). -/
def State.passBy (s : State) (n dt : Nat) : State :=
  let n := s.tillRotation n
  let time := (s.deadlines.filter (fun t => decide (s.time < t))).foldl min (s.time + dt)
  { s with
    waves := s.waves.map (fun p => (p.1, if s.ticks p.2 then { p.2 with ftimer := p.2.ftimer + n } else p.2))
    time := time
    cycles := s.cycles + BitVec.ofNat 64 n
    dies := Vector.ofFn (fun d : Fin 4 => if s.snapMoves d.val then s.dies.get d else { s.dies.get d with snapAt := time })
    hub := { s.hub with slotUse := s.slotUses n }
    oracle := s.oracle + 1 }

/-- Something that the device does before anything else is still to be done. -/
def State.pressed (s : State) : Bool := (s.urgent.find? s.can).isSome

/-- Time passes after a move: a free number of cycles, each of at least one unit of device time; none while something that the
device does before anything else is still to be done. -/
def State.passTime (s : State) : State :=
  if s.pressed then s.passBy 0 0
  else
    let n := Config.cycles s.oracle
    s.passBy n (n + Config.elapse s.oracle)

/-! ## Making a move -/

/-- A wave has issued, unless it has stalled. -/
def Wave.noteIssue (slot cycle : Nat) (w : Wave) : Wave :=
  if (w.slotAt slot).stall = .no then { w with issueAt := cycle + 1 } else w

/-- The issue of a wave is noted (R320). -/
def State.noteIssue (s t : State) (wave : Nat) : State :=
  let k := ((mget s.waves wave).map Wave.cur).getD 0
  t.unfocus.modWave wave (Wave.noteIssue k s.cycles.toNat)

/-- Make a move. Where nothing can happen, a cycle passes. -/
def State.perform (s : State) : Move → Out
  | .outside k => .next (match s.inbox[k]? with
      | some x => { s with inbox := s.inbox.eraseIdx k }.fromOutside x.ev
      | none => s)
  | .event i => Machine.exec i s
  | .rom => Sys2Proof.Machine.execLoaderImmediate s.hub.loadImm s
  | .issue w =>
      match (s.focus w).issueOne with
      | .next t => .next (s.noteIssue t w)
      | .fault f => .fault f
      | .refused r => .refused r
  | .idle => .next (s.passBy 1 1)

/-! ## What follows a move -/

/-- The rotations of a wave: to the fragment that defers a drain (R182), and away from a fragment that is parked (R128) or has
ended (log 90). -/
def Wave.settleCur (drains : Bool) (w : Wave) : Wave :=
  if w.life != .running then w
  else if drains && (w.deferring 0 || w.deferring 1) then (if w.deferring w.cur then w else w.rotate)
  else w.turnAway

/-- The rotations of every wave. -/
def State.settleWaves (s : State) : State :=
  { s with waves := s.waves.map (fun p =>
      (p.1, p.2.settleCur (((mget s.groups p.2.group).map Group.drains).getD false))) }

/-- A fragment of a victim asks for the wave's blocks again (R323). -/
def State.askBack (s : State) (wave k : Nat) : State :=
  ((s.focus wave).inSlot k (fun s => s.park (.frame .restore))).unfocus

/-- The fragments of victims whose parks have ended join the frame queues (R323). -/
def State.rejoin (s : State) : State :=
  let out (w : Wave) : Bool :=
    w.evicted && w.life == .running && !w.halted && !s.comingBack w && ((mget s.groups w.group).map Group.runs).getD false
  (s.waves.flatMap (fun p => if out p.2 then ([0, 1].filter (fun k => (p.2.slotAt k).ready)).map (fun k => (p.1, k)) else [])).foldl
    (fun s p => s.askBack p.1 p.2) s

/-- The first wave of a group on a core that is not parked becomes current (R321). -/
def State.settleGroup (s : State) (g : Group) : Group :=
  if !g.ordered || !g.runs then g
  else g.cores.foldl (fun g c =>
    if (mget g.current c).isSome then g
    else
      let ws := (s.allWaves.filter (fun w => w.group == g.name && w.core == c && !w.blocked)).map Wave.index
      match ws with
      | [] => g
      | i :: is => { g with current := mset g.current c (is.foldl min i) }) g

/-- The current waves of ordered mode. -/
def State.settleGroups (s : State) : State := { s with groups := s.groups.map (fun p => (p.1, s.settleGroup p.2)) }

/-- Since when a core has had frame requests, no issue and only parked waves (R323). -/
def State.settleCore (s : State) (core : Nat) : State :=
  let c := s.core core
  if (s.frameHead core).isSome && s.coreParked core then
    (if c.idleFrom.isSome then s else s.modCore core (fun c => { c with idleFrom := some s.cycles.toNat }))
  else if c.idleFrom.isSome then s.modCore core (fun c => { c with idleFrom := none })
  else s

/-- What follows every move. -/
def State.finish (s : State) : State :=
  let s := s.unfocus.upsetAll.trim.traceFlow.refreshQueues.recheckRings.rejoin.settleWaves.settleGroups
  (s.busyCores.foldl State.settleCore s).passTime

/-- How a step ends: what a held layer holds up has not happened, and only time passes (R345; log 69). -/
def State.conclude (s : State) : Out → Out
  | .next t => .next (if t.waitsHeld then { s with heldUp := false }.finish else t.finish)
  | .fault f => .fault f
  | .refused r => .refused r

/-- One step of the package. -/
def State.turn (s : State) : Out :=
  let s := { s.unfocus with heldUp := false }
  s.conclude (s.perform s.choose)

end Sys2Proof.Machine
end

