-- ==== Sys2Proof/Machine/Step.lean ====
section
/-!
DEFINITION. Sys2Proof/Machine/Step.lean: one step of the package, and the state in which the next step runs a given
instruction.
-/

namespace Sys2Proof.Machine

/-- One step of the package: a move and what follows it. -/
def step (s : State) : Host.Outcome State Fault Refusal := s.turn

/-! ## Placing an instruction (log 4)

A program runs when the launcher has started a group of a context. `withFetchWord` stands for all of that: context 1 of
partition 0 with page tables in die 0's memory, one group of one wave on core 0, and the instruction at address 0. -/

/-- The frames of the four tables and of the code page. -/
def fetchFrames : List Nat := [300, 301, 302, 303, 304]

/-- A table entry for a frame of die 0: V. -/
def fetchTable (frame : Nat) : List Byte := leBytes 8 (frame * 2 ^ 13 + 1)

/-- Write bytes at the start of a frame. -/
def fetchPut (m : Cells) (die frame : Nat) (b : List Byte) : Cells := cwrite 0 m ((die * 2 ^ 24 + frame) * 8192) b

/-- Context 1: its root table is frame 300 of die 0. -/
def fetchCtx : Ctx := { Ctx.controlCtx 1 0 (BitVec.ofNat 64 (300 * 2 ^ 13 + 1)) 0 with control := false, rings := [] }

/-- The group: it owns core 0 with its matrix engine, all semaphores and the whole scratchpad. -/
def fetchGroup (name : Nat) : Group :=
  { Group.off with
    name := name, gid := 1, lid := 1, ctx := 1, waves := 1, matrix := true, semCount := 64, blocks := 15, spadSize := 2 ^ 20
    state := .running, order := name }

/-- Its wave, as it starts (R36), with a root frame of 15 blocks. -/
def fetchWave (name group : Nat) : Wave :=
  ({ Wave.off with
    name := name, group := group
    frames := [(0, ⟨0, 15, List.range 15, false, List.replicate 120 (Lanes.fill 0)⟩)] } : Wave).begin (fetchGroup group)

/-- A state in which the next step fetches and runs the instruction whose words are given: nothing else can happen in it. -/
def State.withFetchWord (s : State) (nbits w : Nat) : State :=
  let code := wordBytes (BitVec.ofNat 32 (w % 2 ^ nbits)) ++ wordBytes (BitVec.ofNat 32 (w % 2 ^ nbits / 2 ^ 32))
  let die := s.homeDie 1 0
  let m := fetchPut s.hbm 0 300 (fetchTable 301)
  let m := fetchPut m 0 301 (fetchTable 302)
  let m := fetchPut m 0 302 (fetchTable 303)
  let m := fetchPut m 0 303 (leBytes 8 (304 * 2 ^ 13 + 0x1D))
  let m := fetchPut m die 304 code
  { s with
    wave := .off, grp := .off, waves := [(s.names, fetchWave s.names (s.names + 1))]
    groups := [(s.names + 1, fetchGroup (s.names + 1))], cores := [], ops := [], enrols := [], holds := [], lates := []
    resid := [], tracks := [], watches := [], evals := [], ctxs := [(1, fetchCtx)], runs := [], launches := [], hbm := m, l2 := []
    rdc := [], tlbs := [], chans := [], layers := [], upsets := [], heldUp := false, badLines := [], notices := [], invals := [], unacked := [], qps := []
    hostOps := [], colls := [], parts := [(0, { Part.zero with clusters := 1 })]
    hub := { s.hub with pkg := .running }, tabor := { s.tabor with frozen := false, left := none }
    dies := vmap (fun (d : Die) => { d with lt := 0, view := #v[0, 0, 0, 0], snap := #v[0, 0, 0, 0], erts := 0 }) s.dies
    inbox := [], names := s.names + 2 }

end Sys2Proof.Machine
end

