-- ==== Sys2Proof/Safety.lean ====
section
/-!
DEFINITION. Sys2Proof/Safety.lean: the terms that statements use: when nothing holds an instruction back at issue, safe runs,
and properties that every step keeps.
-/

namespace Sys2Proof.Machine

/-- Nothing that the operands show holds an instruction back or makes it trap at issue: its feature is present (R8), its
vector registers lie in the current frame (R17), none of its registers waits for a result (R15), none is the result of
an open lookahead window (R52), and no acquire of the wave is outstanding before an access (R269). -/
structure Clear (s : State) (i : Instr) : Prop where
  feature : s.featureAbsent i = false
  inFrame : opInFrame i.operands s.frame.blocks = true
  ready   : ∀ r ∈ touched i s.frameKey, r ∉ s.pendingRegs
  shut    : ∀ r ∈ touched i s.frameKey, r ∉ s.windowRegs
  free    : s.heldBack i = false

/-- The current frame holds a vector register and the k that follow it; argument registers always exist (R17, R18). -/
def State.hasReg (s : State) (r : VReg) (k : Nat := 0) : Prop :=
  match r with
  | .v n => n + k < s.frame.regs.length
  | .a n => n + k < 7

/-- A step answers a next state. -/
def State.goesOn (s : State) : Prop := ∃ t, step s = .next t

/-- Every state that k steps reach from s meets `p`, and no step on the way stops. -/
def SafeFor (p : State → Prop) : Nat → State → Prop
  | 0, s => p s
  | k + 1, s => p s ∧ ∃ t, step s = .next t ∧ SafeFor p k t

/-- A property that every step keeps: whenever a step answers a next state, it holds there too. -/
def Kept (p : State → Prop) : Prop := ∀ s t : State, p s → step s = .next t → p t

end Sys2Proof.Machine
end

