-- ==== Sys2Proof/Certificates/Slice0/Obligations.lean ====
section
/-!
DEFINITION. Sys2Proof/Certificates/Slice0/Obligations.lean: the statements about the machine, for every state and operand, from
the rules of the spec. Terms under `Sys2Proof.Stated` say results in exact integers, lists of lanes and bytes; merged statements
are conjunctions of the parts that stand before them.
-/

namespace Sys2Proof.Stated
open Sys2Proof.Machine

/-! ## Shared terms -/

/-- An instruction is performed: it is counted, `f` happens, the program counter passes its words (R41), and its lookahead
window opens (R52). -/
def performed (s : State) (i : Instr) (f : State → State) : State := ((f s.tick).nextPc i).openWindow i s.frameKey

/-- The instruction takes the trap of a code at its own word, with this address and these lane masks (R277). -/
def traps (s : State) (i : Instr) (r : Raise) : Prop := Machine.exec i s = .next (s.raise i.words r)

/-- A word from its bits. -/
def wordOf (f : Nat → Bool) : Word := BitVec.ofNat 32 ((List.range 32).foldr (fun k n => (f k).toNat + 2 * n) 0)

/-- An integer clamped to [lo, hi]. -/
def clampTo (lo hi v : Int) : Int := max lo (min hi v)

/-- Exact integer value of a word read as the type says. -/
def valueOf (t : Sgn) (w : Word) : Int := match t with | .s => w.toInt | .n => w.toNat

/-- The low 32 bits of an integer. -/
def low (v : Int) : Word := BitVec.ofInt 32 v

/-- The result and SAT of an exact sum or difference v, signed (`sv`) or unsigned (`nv`), in the three kinds of R103. -/
def summed (k : SatKind) (sv nv : Int) : Word × Bool :=
  match k with
  | .wrap => (low sv, false)
  | .s32sat => (low (clampTo (-2147483648) 2147483647 sv), clampTo (-2147483648) 2147483647 sv != sv)
  | .n32sat => (low (clampTo 0 4294967295 nv), clampTo 0 4294967295 nv != nv)

/-- A comparison of two integers by a condition code of R107; `uo` and `ord` compare nothing. -/
def compares (c : CC) (x y : Int) : Bool :=
  match c with
  | .eq => x == y | .ne => x != y | .lt => x < y | .le => x ≤ y | .gt => y < x | .ge => y ≤ x
  | .uo => false | .ord => true

/-- The field of WIDTH bits from POS of a word, extended (R109, R151); a bit past 31 reads 0. -/
def field (t : Sgn) (a : Word) (pos width : Nat) : Word :=
  let f := a.toNat / 2 ^ pos % 2 ^ width
  match t with
  | .n => low f
  | .s => if width = 0 then 0 else low (if f < 2 ^ (width - 1) then (f : Int) else (f : Int) - 2 ^ width)

/-- The word `old` with WIDTH bits from POS replaced by the low bits of `a` (R109, R151). -/
def inserted (old a : Word) (pos width : Nat) : Word :=
  wordOf (fun k => if pos ≤ k && k < pos + width then a.getLsbD (k - pos) else old.getLsbD k)

/-- The number of leading zero bits (R103, R149). -/
def leading (a : Word) : Nat := ((List.range 32).takeWhile (fun k => !a.getLsbD (31 - k))).length

/-- The number of set bits. -/
def ones (a : Word) : Nat := (List.range 32).countP (fun k => a.getLsbD k)

/-! ## Uniform instructions (spec/04) -/

/-- The scalar results of R103, R104, R108, R109, R114 and R115 in exact integers: destination, value, and whether SAT is
set. -/
def scalarResult (s : State) : Instr → Option (SReg × Word × Bool)
  | .sadd k d a b =>
      let A := s.ssrc a; let B := s.ssrc b
      some (d, summed k (A.toInt + B.toInt) (A.toNat + B.toNat))
  | .ssub k d a b =>
      let A := s.ssrc a; let B := s.ssrc b
      some (d, summed k (A.toInt - B.toInt) ((A.toNat : Int) - B.toNat))
  | .smul d a b => some (d, BitVec.ofNat 32 ((s.ssrc a).toNat * (s.ssrc b).toNat), false)
  | .smulh t d a b => some (d, low (valueOf t (s.ssrc a) * valueOf t (s.ssrc b) / 2 ^ 32), false)
  | .smad d a b => some (d, BitVec.ofNat 32 ((s.sget d).toNat + (s.ssrc a).toNat * (s.ssrc b).toNat), false)
  | .sand d a b => some (d, wordOf (fun k => (s.ssrc a).getLsbD k && (s.ssrc b).getLsbD k), false)
  | .sor d a b => some (d, wordOf (fun k => (s.ssrc a).getLsbD k || (s.ssrc b).getLsbD k), false)
  | .sxor d a b => some (d, wordOf (fun k => (s.ssrc a).getLsbD k != (s.ssrc b).getLsbD k), false)
  | .sshl d a b => some (d, BitVec.ofNat 32 ((s.ssrc a).toNat * 2 ^ (s.ssrc b).toNat), false)
  | .sshr d a b => some (d, BitVec.ofNat 32 ((s.ssrc a).toNat / 2 ^ (s.ssrc b).toNat), false)
  | .ssra d a b => some (d, low ((s.ssrc a).toInt / 2 ^ (s.ssrc b).toNat), false)
  | .smin t d a b => some (d, low (min (valueOf t (s.ssrc a)) (valueOf t (s.ssrc b))), false)
  | .smax t d a b => some (d, low (max (valueOf t (s.ssrc a)) (valueOf t (s.ssrc b))), false)
  | .ssel d a b c => some (d, if s.ssrc c = 0 then s.ssrc b else s.ssrc a, false)
  | .smov d a => some (d, s.ssrc a, false)
  | .sclz d a => some (d, BitVec.ofNat 32 (leading (s.ssrc a)), false)
  | .spop d a => some (d, BitVec.ofNat 32 (ones (s.ssrc a)), false)
  | .slit d imm => some (d, low imm.toInt, false)
  | .sbfe t w p d a => some (d, field t (s.ssrc a) p.toNat w, false)
  | .sbfi w p d a => some (d, inserted (s.sget d) (s.ssrc a) p.toNat w, false)
  | .sreadl d a b => some (d, lane (s.vsrc a) ((s.ssrc b).toNat % 64), false)
  | .mpop d a => some (d, BitVec.ofNat 32 ((List.range 64).countP (fun k => (s.pget a).getLsbD k)), false)
  | .mfirst d a => some (d, match (List.range 64).find? (fun k => (s.pget a).getLsbD k) with
      | some k => BitVec.ofNat 32 k
      | none => 0xFFFFFFFF#32, false)
  | _ => none

/-- A 64-bit value from its bits. -/
def dwordOf (f : Nat → Bool) : Dword := BitVec.ofNat 64 ((List.range 64).foldr (fun k n => (f k).toNat + 2 * n) 0)

/-- The pair results of R105 to R107 and R115. -/
def pairResult (s : State) : Instr → Option (SPair × Dword)
  | .saddc d a b => some (d, BitVec.ofNat 64 ((s.pget a).toNat + (s.pget b).toNat))
  | .slea t sh d a b => some (d, BitVec.ofInt 64 ((s.pget a).toNat + valueOf t (s.ssrc b) * 2 ^ sh.toNat))
  | .scmp c t d a b => some (d, dwordOf (fun _ => compares c (valueOf t (s.ssrc a)) (valueOf t (s.ssrc b))))
  | .mand d a b => some (d, dwordOf (fun k => (s.pget a).getLsbD k && (s.pget b).getLsbD k))
  | .mor d a b => some (d, dwordOf (fun k => (s.pget a).getLsbD k || (s.pget b).getLsbD k))
  | .mxor d a b => some (d, dwordOf (fun k => (s.pget a).getLsbD k != (s.pget b).getLsbD k))
  | .mandn d a b => some (d, dwordOf (fun k => (s.pget a).getLsbD k && !(s.pget b).getLsbD k))
  | .mnot d a => some (d, dwordOf (fun k => !(s.pget a).getLsbD k))
  | _ => none

/-- What each register of R29 and R30 reads; WIN reads 0 without the fabric feature (R3). -/
def sysValue (s : State) (n : Nat) : Option Word :=
  let ofN (x : Nat) : Option Word := some (BitVec.ofNat 32 x)
  match n with
  | 0x000 => ofN s.wave.flags.toNat
  | 0x001 => ofN (s.frame.blocks * 65536 + s.wave.mark * 256 + s.slot.depth)
  | 0x002 => ofN (min s.slot.stk.length 31 * 256 + s.wave.cur * 4 + s.wave.slot1.valid.toNat * 2 + s.wave.slot0.valid.toNat)
  | 0x003 => ofN (s.wave.count 1 * 65536 + s.wave.count 0)
  | 0x004 => ofN (s.wave.count 3 * 65536 + s.wave.count 2)
  | 0x005 => ofN (s.wave.count 4)
  | 0x006 => some (if s.feature 4 then s.wave.window.zeroExtend 32 else 0)
  | 0x007 => ofN (((Machine.mget s.ctxs s.grp.ctx).any (fun c => c.promise)).toNat * 2 + s.grp.ordered.toNat)
  | 0x100 => ofN ((s.shadowBusy s.wave.core).toNat * 2 + (s.core s.wave.core).active.toNat)
  | 0x101 => some ((s.core s.wave.core).msc.get 0)
  | 0x102 => some ((s.core s.wave.core).msc.get 1)
  | 0x103 => some ((s.core s.wave.core).msc.get 2)
  | 0x104 => some ((s.core s.wave.core).msc.get 3)
  | 0x108 => ofN (s.cycles.toNat % 2 ^ 32)
  | 0x109 => some (s.wave.cycleHi.getD 0)
  | 0x10A => ofN (s.time % 2 ^ 32)
  | 0x10B => some (s.wave.timeHi.getD 0)
  | 0x110 => ofN s.grp.spadBase
  | 0x111 => ofN s.grp.spadSize
  | 0x112 => ofN (s.grp.semCount * 256 + s.grp.semBase)
  | 0x120 => ofN (s.grp.part * 4096 + s.grp.ctx)
  | _ => none

/-- Reading a LO register captures the upper half of its counter in the wave's latch (R31). -/
def latched (s : State) (n : Nat) : State :=
  if n = 0x108 then { s with wave := { s.wave with cycleHi := some (BitVec.ofNat 32 (s.cycles.toNat / 2 ^ 32)) } }
  else if n = 0x10A then { s with wave := { s.wave with timeHi := some (BitVec.ofNat 32 (s.time / 2 ^ 32)) } }
  else s

/-- The address of SLD and SST (R110). -/
def wordAddr (s : State) (a : SSrc) (imm : BitVec 13) : Word := low ((s.ssrc a).toInt + 4 * imm.toInt)

/-- The little-endian word at a place of the scratchpads (R2). -/
def spadWord (s : State) (x : Nat) : Word :=
  let b (k : Nat) := (cget 0 s.spad (x + k)).toNat
  BitVec.ofNat 32 (b 0 + 256 * b 1 + 65536 * b 2 + 16777216 * b 3)

/-- The system registers that R29 and R30 assign. -/
def sysNumbers : List Nat :=
  [0, 1, 2, 3, 4, 5, 6, 7, 0x100, 0x101, 0x102, 0x103, 0x104, 0x108, 0x109, 0x10A, 0x10B, 0x110, 0x111, 0x112, 0x120]

end Sys2Proof.Stated

section
open Sys2Proof Sys2Proof.Machine Sys2Proof.Stated

/-- UNIFORM ARITHMETIC AND SELECTION (R103, R104, R108, R109, R114, R115). -/
def Sys2Proof.Stated.UniformScalarResult : Prop :=
  ∀ (s : State) (i : Instr) (d : SReg) (x : Word) (sat : Bool),
    scalarResult s i = some (d, x, sat) → Clear s i →
    exec i s = .next (performed s i (fun u =>
      if sat then (u.sset d x).raiseFlags fSAT else u.sset d x))

/-- UNIFORM PAIRS: R105, R106, R107 and the pair forms of R115. -/
def Sys2Proof.Stated.UniformPairResult : Prop :=
  ∀ (s : State) (i : Instr) (d : SPair) (x : Dword),
    pairResult s i = some (d, x) → Clear s i →
    exec i s = .next (performed s i (fun u => u.pset d x))

/-- MSETX (R116): the pair receives the old `exec`, and `exec` the source pair ANDed with the lanes that entered the level. -/
def Sys2Proof.Stated.MsetxExchanges : Prop :=
  ∀ (s : State) (d a : SPair),
    d ≠ 56 → Clear s (.msetx d a) →
    exec (.msetx d a) s = .next (performed s (.msetx d a) (fun u =>
      (u.pset d s.exec).setMask (s.pget a &&& s.slot.level)))

/-- SGET and SSET (R8, R28 to R31, R112): what every assigned number reads (WIN reads 0 without the fabric, R8), the latch of a LO
read, the one register that a write changes, and the cause of an unassigned number. -/
def Obligations.SystemRegisters : Prop :=
  (∀ (s : State) (d : SReg) (n : BitVec 12) (x : Word),
    sysValue s n.toNat = some x → Clear s (.sget d n) →
    exec (.sget d n) s = .next (performed s (.sget d n) (fun u =>
      (latched u n.toNat).sset d x))) ∧
  (∀ (s : State) (a : SSrc) (n : BitVec 12),
    n.toNat ∈ sysNumbers → Clear s (.sset a n) →
    exec (.sset a n) s = .next (performed s (.sset a n) (fun u =>
      if n = 0 then { u with wave := { u.wave with flags := (s.ssrc a).extractLsb' 0 6 } } else u))) ∧
  (∀ (s : State) (d : SReg) (n : BitVec 12),
    n.toNat ∉ sysNumbers → Clear s (.sget d n) →
    traps s (.sget d n) { code := 0x0108 }) ∧
  (∀ (s : State) (a : SSrc) (n : BitVec 12),
    n.toNat ∉ sysNumbers → Clear s (.sset a n) →
    traps s (.sset a n) { code := 0x0108 })

/-- SLD and SST (R110, R111): the word at the address, and the two faults. -/
def Obligations.ScalarScratchpadAccess : Prop :=
  (∀ (s : State) (d : SReg) (a : SSrc) (imm : BitVec 13) (x : Nat),
    Clear s (.sld d a imm) → s.spadResolve none (wordAddr s a imm) 4 = some x →
    (wordAddr s a imm).toNat % 4 = 0 →
    exec (.sld d a imm) s = .next (performed s (.sld d a imm) (fun u =>
      u.sset d (spadWord s x)))) ∧
  (∀ (s : State) (d a : SSrc) (imm : BitVec 13) (x : Nat),
    Clear s (.sst d a imm) → s.spadResolve none (wordAddr s a imm) 4 = some x →
    (wordAddr s a imm).toNat % 4 = 0 →
    exec (.sst d a imm) s = .next (performed s (.sst d a imm) (fun u =>
      u.spadPut x (leBytes 4 (s.ssrc d).toNat)))) ∧
  (∀ (s : State) (i : Instr) (a : SSrc) (imm : BitVec 13),
    ((∃ d, i = .sld d a imm) ∨ (∃ d, i = .sst d a imm)) → Clear s i →
    s.spadResolve none (wordAddr s a imm) 4 = none →
    traps s i { code := 0x0301, addr := (wordAddr s a imm).zeroExtend 64 }) ∧
  (∀ (s : State) (i : Instr) (a : SSrc) (imm : BitVec 13) (x : Nat),
    ((∃ d, i = .sld d a imm) ∨ (∃ d, i = .sst d a imm)) → Clear s i →
    s.spadResolve none (wordAddr s a imm) 4 = some x → (wordAddr s a imm).toNat % 4 ≠ 0 →
    traps s i { code := 0x0302, addr := (wordAddr s a imm).zeroExtend 64 })


/-- THE RESULTS OF UNIFORM INSTRUCTIONS: scalars, pairs and MSETX (R103 to R109, R114 to R116). -/
def Obligations.UniformResults : Prop := Sys2Proof.Stated.UniformScalarResult ∧ Sys2Proof.Stated.UniformPairResult ∧ Sys2Proof.Stated.MsetxExchanges

end

namespace Sys2Proof.Stated
open Sys2Proof.Machine

/-! ## Lane instructions (spec/06) -/

/-- The halves and bytes of a word as naturals. -/
def half (w : Word) (k : Nat) : Nat := w.toNat / 65536 ^ k % 65536
/-- Byte k of a word. -/
def byte (w : Word) (k : Nat) : Nat := w.toNat / 256 ^ k % 256

/-- A field of n bits read as the type says. -/
def signed (t : Sgn) (n x : Nat) : Int := match t with | .n => x | .s => if x < 2 ^ (n - 1) then (x : Int) else (x : Int) - 2 ^ n

/-- min(max(v, a), b) of R152 in the order of the type. -/
def clamped (t : CmpTy) (v a b : Word) : Word :=
  match t with
  | .s32 => low (min (max v.toInt a.toInt) b.toInt)
  | .n32 => low (min (max (v.toNat : Int) a.toNat) b.toNat)
  | .f32 => FF.fp32.select false (FF.fp32.select true v a) b

/-- The element that an integer lane instruction writes in lane k, and whether the lane sets SAT (R149 to R153, R155, R159). -/
def laneElement (s : State) (k : Nat) : Instr → Option (VReg × Word × Bool)
  | .vadd q d a b _ =>
      let A := lane (s.vsrc a) k; let B := lane (s.vsrc b) k
      some (d, summed q (A.toInt + B.toInt) (A.toNat + B.toNat))
  | .vsub q d a b _ =>
      let A := lane (s.vsrc a) k; let B := lane (s.vsrc b) k
      some (d, summed q (A.toInt - B.toInt) ((A.toNat : Int) - B.toNat))
  | .vmul d a b _ => some (d, BitVec.ofNat 32 ((lane (s.vsrc a) k).toNat * (lane (s.vsrc b) k).toNat), false)
  | .vmulh t d a b _ => some (d, low (valueOf t (lane (s.vsrc a) k) * valueOf t (lane (s.vsrc b) k) / 2 ^ 32), false)
  | .vmad d a b _ => some (d, BitVec.ofNat 32
      ((lane (s.vget d) k).toNat + (lane (s.vsrc a) k).toNat * (lane (s.vsrc b) k).toNat), false)
  | .vmin t d a b _ => some (d, low (min (valueOf t (lane (s.vsrc a) k)) (valueOf t (lane (s.vsrc b) k))), false)
  | .vmax t d a b _ => some (d, low (max (valueOf t (lane (s.vsrc a) k)) (valueOf t (lane (s.vsrc b) k))), false)
  | .vand d a b _ => some (d, wordOf (fun j => (lane (s.vsrc a) k).getLsbD j && (lane (s.vsrc b) k).getLsbD j), false)
  | .vor d a b _ => some (d, wordOf (fun j => (lane (s.vsrc a) k).getLsbD j || (lane (s.vsrc b) k).getLsbD j), false)
  | .vxor d a b _ => some (d, wordOf (fun j => (lane (s.vsrc a) k).getLsbD j != (lane (s.vsrc b) k).getLsbD j), false)
  | .vshl d a b _ => some (d, BitVec.ofNat 32 ((lane (s.vsrc a) k).toNat * 2 ^ (lane (s.vsrc b) k).toNat), false)
  | .vshr d a b _ => some (d, BitVec.ofNat 32 ((lane (s.vsrc a) k).toNat / 2 ^ (lane (s.vsrc b) k).toNat), false)
  | .vsra d a b _ => some (d, low ((lane (s.vsrc a) k).toInt / 2 ^ (lane (s.vsrc b) k).toNat), false)
  | .vnot d a _ => some (d, wordOf (fun j => !(lane (s.vsrc a) k).getLsbD j), false)
  | .vpop d a _ => some (d, BitVec.ofNat 32 (ones (lane (s.vsrc a) k)), false)
  | .vclz d a _ => some (d, BitVec.ofNat 32 (leading (lane (s.vsrc a) k)), false)
  | .vmov d a _ => some (d, lane (s.vsrc a) k, false)
  | .vabs false d a _ => some (d, low (lane (s.vsrc a) k).toInt.natAbs, false)
  | .vneg false d a _ => some (d, low (-(lane (s.vsrc a) k).toInt), false)
  | .vabs true d a _ =>
      let x := lane (s.vsrc a) k
      some (d, if (FF.fp32.get x).isNan then 0x7FC00000#32 else BitVec.ofNat 32 (x.toNat % 2 ^ 31), false)
  | .vneg true d a _ =>
      let x := lane (s.vsrc a) k
      some (d, if (FF.fp32.get x).isNan then 0x7FC00000#32 else BitVec.ofNat 32 (x.toNat + 2 ^ 31), false)
  | .vbfe t d a b _ =>
      let f := lane (s.vsrc b) k
      some (d, field t (lane (s.vsrc a) k) (f.toNat % 32) (min (f.toNat / 32 % 64) 32), false)
  | .vbfi d a b _ =>
      let f := lane (s.vsrc b) k
      some (d, inserted (lane (s.vget d) k) (lane (s.vsrc a) k) (f.toNat % 32) (min (f.toNat / 32 % 64) 32), false)
  | .vclamp t d a b _ => some (d, clamped t (lane (s.vget d) k) (lane (s.vsrc a) k) (lane (s.vsrc b) k), false)
  | .vdot4 t d a b _ =>
      let x := lane (s.vsrc a) k; let y := lane (s.vsrc b) k
      let p (j : Nat) : Int := signed t 8 (byte x j) * signed t 8 (byte y j)
      some (d, low ((lane (s.vget d) k).toInt + (p 0 + p 1 + p 2 + p 3)), false)
  | .vpack false d a b _ =>
      some (d, BitVec.ofNat 32 (half (lane (s.vsrc a) k) 0 + 65536 * half (lane (s.vsrc b) k) 0), false)
  | .vpack true d a b _ =>
      let x := lane (s.vsrc a) k; let y := lane (s.vsrc b) k
      some (d, BitVec.ofNat 32 (byte x 0 + 256 * byte x 2 + 65536 * byte y 0 + 16777216 * byte y 2), false)
  | .vunpack t d a b _ =>
      some (d, low (signed t 16 (half (lane (s.vsrc a) k) ((lane (s.vsrc b) k).toNat % 2))), false)
  | _ => none

/-- The element and the flags of a float lane instruction: the exact result, rounded once (R82, R84, R96, R98, R154). -/
def floatElement (s : State) (k : Nat) : Instr → Option (VReg × Word × BitVec 6)
  | .vaddF t d a b _ => some (d, ((fmtOf t).deliver
      (((fmtOf t).get (lane (s.vsrc a) k)).add ((fmtOf t).get (lane (s.vsrc b) k)))).word)
  | .vsubF t d a b _ => some (d, ((fmtOf t).deliver
      (((fmtOf t).get (lane (s.vsrc a) k)).add ((fmtOf t).get (lane (s.vsrc b) k)).neg)).word)
  | .vmulF t d a b _ => some (d, ((fmtOf t).deliver
      (((fmtOf t).get (lane (s.vsrc a) k)).mul ((fmtOf t).get (lane (s.vsrc b) k)))).word)
  | .vfma t d a b _ =>
      let f := fmtOf t
      let p := (f.get (lane (s.vsrc a) k)).mul (f.get (lane (s.vsrc b) k))
      let q := p.1.add (f.get (lane (s.vget d) k))
      some (d, (f.deliver (q.1, p.2 ||| q.2)).word)
  | .vminF t d a b _ => some (d, (fmtOf t).select false (lane (s.vsrc a) k) (lane (s.vsrc b) k), fNone)
  | .vmaxF t d a b _ => some (d, (fmtOf t).select true (lane (s.vsrc a) k) (lane (s.vsrc b) k), fNone)
  | .vrcp t d a _ => some (d, (SFn.rcp.apply (fmtOf t) t.code (lane (s.vsrc a) k)).word)
  | .vrsq t d a _ => some (d, (SFn.rsq.apply (fmtOf t) t.code (lane (s.vsrc a) k)).word)
  | .vsqrt t d a _ => some (d, (SFn.sqrt.apply (fmtOf t) t.code (lane (s.vsrc a) k)).word)
  | .vlog2 t d a _ => some (d, (SFn.log2.apply (fmtOf t) t.code (lane (s.vsrc a) k)).word)
  | .vsin t d a _ => some (d, (SFn.sin.apply (fmtOf t) t.code (lane (s.vsrc a) k)).word)
  | .vcos t d a _ => some (d, (SFn.cos.apply (fmtOf t) t.code (lane (s.vsrc a) k)).word)
  | .vtanh t d a _ => some (d, (SFn.tanh.apply (fmtOf t) t.code (lane (s.vsrc a) k)).word)
  | .vexp2s d m c _ => some (d, (exp2s (lane (s.vget d) k)
      (match m with | .vec v => lane (s.vsrc v) k | .sca x => s.ssrc x) (s.ssrc c)).word)
  | _ => none

/-- The flags that the active lanes raise together. -/
def raised (s : State) (f : Nat → BitVec 6) : BitVec 6 :=
  (List.range 64).foldl (fun a k => if s.exec.getLsbD k then a ||| f k else a) 0

/-- The element that a move across lanes writes in lane k (R157, R158). -/
def movedElement (s : State) (k : Nat) : Instr → Option (VReg × Word)
  | .vmovs d b _ => some (d, s.ssrc b)
  | .vlane d a b _ => some (d, lane (s.vsrc a) ((s.ssrc b).toNat % 64))
  | .vlrot d a b _ => some (d, lane (s.vsrc a) ((k + (s.ssrc b).toNat) % 64))
  | .vperm d a b _ => some (d, lane (s.vsrc a) ((lane (s.vsrc b) k).toNat % 64))
  | .vshuf d a b _ =>
      let x := (lane (s.vget d) k).toNat
      some (d, if x / 64 % 2 = 0 then lane (s.vsrc a) (x % 64) else lane (s.vsrc b) (x % 64))
  | _ => none

/-- The rounded elements and flags of a conversion; `.rst` draws (R85 to R89, R160, R161). -/
def convertedElement (s : State) (k : Nat) : Instr → Option (VReg × RMode × Res)
  | .vcvt td ts rm d a => some (d, rm, convert td ts rm false (s.drawAt k) (lane (s.vsrc a) k))
  | .vcvtSat td ts rm d a => some (d, rm, convert td ts rm true (s.drawAt k) (lane (s.vsrc a) k))
  | .vcvts td ts rm sat d a => some (d, rm, convert td ts rm sat (s.drawAt k) (s.ssrc a))
  | _ => none

/-- The comparison of VCMP (R156): integers in their order; FP32 with -0 equal to +0 and NaN unordered. -/
def vcompares (c : CC) (t : CmpTy) (a b : Word) : Bool :=
  match t with
  | .s32 => compares c a.toInt b.toInt
  | .n32 => compares c a.toNat b.toNat
  | .f32 => cmpF c a b

/-- A source's elements in a tree or scan: the identity where a lane is inactive (R94). -/
def leaf (s : State) (a : VSrc) (ident : Word) (k : Nat) : Word := if s.exec.getLsbD k then lane (s.vsrc a) k else ident

/-- The balanced tree of R94 over the leaves from `lo`, `n` levels high: neighbours combine, the lower lanes on the left. -/
def tree (op : Word → Word → Word × BitVec 6) (x : Nat → Word) : Nat → Nat → Word × BitVec 6
  | 0, lo => (x lo, 0)
  | n + 1, lo =>
      let l := tree op x n lo
      let r := tree op x n (lo + 2 ^ n)
      let v := op l.1 r.1
      (v.1, l.2 ||| r.2 ||| v.2)

/-- The operation of an addition, minimum or maximum of R94, with its flags. -/
def redOp (t : CmpTy) (f : ScanFn) (a b : Word) : Word × BitVec 6 :=
  match f, t with
  | .add, .f32 | .addx, .f32 => (FF.fp32.add a b).word
  | .add, _ | .addx, _ => (a + b, 0)
  | .min, .f32 => (FF.fp32.select false a b, 0)
  | .max, .f32 => (FF.fp32.select true a b, 0)
  | .min, .s32 => (low (min a.toInt b.toInt), 0)
  | .min, .n32 => (low (min a.toNat b.toNat), 0)
  | .max, .s32 => (low (max a.toInt b.toInt), 0)
  | .max, .n32 => (low (max a.toNat b.toNat), 0)

/-- The identities of R94. -/
def redIdent (t : CmpTy) (f : ScanFn) : Word :=
  match f, t with
  | .add, .f32 | .addx, .f32 => 0x80000000#32
  | .add, _ | .addx, _ => 0
  | .min, .f32 => 0x7F800000#32
  | .min, .s32 => 0x7FFFFFFF#32
  | .min, .n32 => 0xFFFFFFFF#32
  | .max, .f32 => 0xFF800000#32
  | .max, .s32 => 0x80000000#32
  | .max, .n32 => 0

/-- The reductions of R167: destination, value and flags. -/
def reduction (s : State) : Instr → Option (SReg × Word × BitVec 6)
  | .vredadd t d a _ => some (d, tree (redOp t .add) (leaf s a (redIdent t .add)) 6 0)
  | .vredmin t d a _ => some (d, tree (redOp t .min) (leaf s a (redIdent t .min)) 6 0)
  | .vredmax t d a _ => some (d, tree (redOp t .max) (leaf s a (redIdent t .max)) 6 0)
  | _ => none

/-- The scan of R95 after steps at distances below 2^n. -/
def scanned (op : Word → Word → Word × BitVec 6) (x : Nat → Word) : Nat → Nat → Word × BitVec 6
  | 0, k => (x k, 0)
  | n + 1, k =>
      let y := scanned op x n k
      if k < 2 ^ n then y
      else
        let l := scanned op x n (k - 2 ^ n)
        let v := op l.1 y.1
        (v.1, l.2 ||| y.2 ||| v.2)

/-- Element k of VSCAN with the flags that it carries (R95, R169). -/
def scanElement (f : ScanFn) (t : CmpTy) (x : Nat → Word) (k : Nat) : Word × BitVec 6 :=
  if f = .addx then (if k = 0 then (redIdent t f, 0) else scanned (redOp t f) x 6 (k - 1)) else scanned (redOp t f) x 6 k

/-- Lane i is an extreme of VARGMIN or VARGMAX (R97, R168): an active lane whose element is a number, before which (`max`:
after which) no active number is ordered, and the lowest such lane. -/
def IsExtreme (s : State) (max : Bool) (t : CmpTy) (a : VSrc) (i : Nat) : Prop :=
  let v := s.vsrc a
  let num (j : Nat) : Prop := j < 64 ∧ s.exec.getLsbD j = true ∧ ¬ (t = .f32 ∧ (FF.fp32.get (lane v j)).isNan = true)
  let beats (x y : Nat) : Bool := if max then orderLt t (lane v y) (lane v x) else orderLt t (lane v x) (lane v y)
  num i ∧ (∀ j, num j → beats j i = false) ∧ (∀ j, num j → j < i → beats i j = true)

end Sys2Proof.Stated

section
open Sys2Proof Sys2Proof.Machine Sys2Proof.Stated

/-- INTEGER LANE ARITHMETIC, LOGIC, FIELDS AND PACKING. -/
def Sys2Proof.Stated.LaneIntegerResult : Prop :=
  ∀ (s : State) (i : Instr) (d : VReg) (x : Nat → Word) (sat : Nat → Bool),
    (∀ k, k < 64 → laneElement s k i = some (d, x k, sat k)) → Clear s i →
    exec i s = .next (performed s i (fun u =>
      (u.vset d (lanesFn x)).raiseFlags
        (raised s (fun k => if sat k then fSAT else 0))))

/-- FLOAT LANE ARITHMETIC AND SPECIAL FUNCTIONS. -/
def Sys2Proof.Stated.LaneFloatResult : Prop :=
  ∀ (s : State) (i : Instr) (d : VReg) (x : Nat → Word × BitVec 6),
    (∀ k, k < 64 → floatElement s k i = some (d, x k)) → Clear s i →
    exec i s = .next (performed s i (fun u =>
      (u.vset d (lanesFn (fun k => (x k).1))).raiseFlags (raised s (fun k => (x k).2))))

/-- ROUNDING (R81): the significand that each mode leaves of m cut by k bits, in exact integers; `.rst` by its draw. -/
def Sys2Proof.Stated.RoundingModes : Prop :=
  ∀ (neg : Bool) (x : Word) (m : Nat) (e : Int) (k : Nat), 0 < k →
    let r (rm : RMode) := roundAt rm neg x m e (e + k)
    (∀ rm, (r rm).2 = decide (m % 2 ^ k ≠ 0) ∧ ((r rm).1 = m / 2 ^ k ∨ (r rm).1 = m / 2 ^ k + 1) ∧
      (m % 2 ^ k = 0 → (r rm).1 = m / 2 ^ k)) ∧
    (r .rtz).1 = m / 2 ^ k ∧
    (m % 2 ^ k ≠ 0 → (r .rup).1 = (if neg then m / 2 ^ k else m / 2 ^ k + 1)) ∧
    (m % 2 ^ k ≠ 0 → (r .rdn).1 = (if neg then m / 2 ^ k + 1 else m / 2 ^ k)) ∧
    (m % 2 ^ k ≠ 0 → (r .rto).1 % 2 = 1) ∧
    2 * ((r .rne).1 * 2 ^ k : Int) - 2 * m ≤ 2 ^ k ∧ 2 * (m : Int) - 2 * ((r .rne).1 * 2 ^ k) ≤ 2 ^ k ∧
    (2 * (m % 2 ^ k) = 2 ^ k → (r .rne).1 % 2 = 0 ∧ (r .rna).1 = m / 2 ^ k + 1) ∧
    2 * ((r .rna).1 * 2 ^ k : Int) - 2 * m ≤ 2 ^ k ∧ 2 * (m : Int) - 2 * ((r .rna).1 * 2 ^ k) ≤ 2 ^ k ∧
    ((r .rst).1 = m / 2 ^ k + 1 ↔ x.toNat < m % 2 ^ k * 2 ^ 32 / 2 ^ k)

/-- The number is the finite value (-1)^neg * m * 2^e, whatever exponent it is written at. -/
def sameValue (v : Machine.Num) (neg : Bool) (m : Nat) (e : Int) : Prop :=
  ∃ (m' : Nat) (e' : Int), v = .fin neg m' e' ∧ m' * 2 ^ (e' - min e e').toNat = m * 2 ^ (e - min e e').toNat

/-- t * 2^q exceeds the maximum finite value of a format (R83). -/
def above (f : FF) (t : Nat) (q : Int) : Prop :=
  ∃ (n : Bool) (m : Nat) (e : Int), f.value f.maxBits = .fin n m e ∧ m * 2 ^ (e - min q e).toNat < t * 2 ^ (q - min q e).toNat

/-- The table of R83: bits and flags of an overflow. -/
def overflowed (f : FF) (rm : RMode) (sat neg : Bool) : Res :=
  let big := f.sign neg + f.maxBits
  let inf := f.sign neg + f.infBits
  if sat then ⟨big, 0b100101⟩
  else match f, rm, neg with
    | .e4m3, _, _ => ⟨0x7F, 0b101⟩
    | .e2m1, _, _ | _, .rtz, _ | _, .rto, _ | _, .rup, true | _, .rdn, false => ⟨big, 0b101⟩
    | _, .rne, _ | _, .rna, _ | _, .rst, _ | _, .rup, false | _, .rdn, true => ⟨inf, 0b101⟩

/-- What a number becomes in a format when it is rounded (R81, R83, R84, R98): the special sources as R84's table has them, a zero
with its sign, and a nonzero value rounded at the format's precision, with R83's overflow. -/
def roundsTo (f : FF) (rm : RMode) (sat : Bool) (x : Word) (v : Machine.Num) (r : Res) : Prop :=
  match v with
  | .nan => r = if f = .e2m1 then ⟨0, 0b10000⟩ else ⟨f.nanBits, 0⟩
  | .inf neg =>
      (sat = true → r = ⟨f.sign neg + f.maxBits, 0b100000⟩) ∧
      (sat = false → r = match f with
        | .e4m3 => ⟨0x7F, 0b10000⟩
        | .e2m1 => ⟨f.sign neg + 7, 0b100⟩
        | _ => ⟨f.sign neg + f.infBits, 0⟩)
  | .fin neg m e =>
      let q := max ((Nat.log2 m : Int) + e - f.frac) f.qmin
      let t := roundAt rm neg x m e q
      (m = 0 → r = ⟨f.sign neg, 0⟩) ∧
      (0 < m → above f t.1 q → r = overflowed f rm sat neg) ∧
      (0 < m → ¬ above f t.1 q → sameValue (f.value r.bits) neg t.1 q ∧
        r.flags = if t.2 then (if (Nat.log2 m : Int) + e < f.qmin + f.frac then 0b11 else 1) else 0)

/-- ROUNDING TO A FORMAT, CONVERSIONS AND ROUND TO ODD (R83 to R86, R88): what `convert` gives, case by case. A widening is exact and
raises nothing; an integer destination clamps what falls outside it; between integers the low bits are kept, or clamped with
`.sat`; and rounding to odd with two more bits changes no later rounding, which is the heart of R88. -/
def Sys2Proof.Stated.ConversionCases : Prop :=
  (∀ (f : FF) (rm : RMode) (sat : Bool) (x : Word) (v : Machine.Num), roundsTo f rm sat x v (f.convert rm sat x v)) ∧
  (∀ (td ts : CvtTy) (fd fs : FF) (rm : RMode) (sat : Bool) (x a : Word), cvtKind td = .inl fd → cvtKind ts = .inl fs →
    let v := fs.value (a.toNat % 2 ^ fs.width)
    let r := convert td ts rm sat x a
    (fd.width ≤ fs.width → roundsTo fd rm sat x v r) ∧
    (fs.width < fd.width → r.flags = 0 ∧ (v = .nan → r.bits = fd.nanBits) ∧ (∀ n, v = .inf n → r.bits = fd.sign n + fd.infBits) ∧
      (∀ n m e, v = .fin n m e → sameValue (fd.value r.bits) n m e))) ∧
  (∀ (td ts : CvtTy) (t : IntTy) (fs : FF) (rm : RMode) (sat : Bool) (x a : Word), cvtKind td = .inr t → cvtKind ts = .inl fs →
    let r := convert td ts rm sat x a
    match fs.value (a.toNat % 2 ^ fs.width) with
    | .nan => r = ⟨0, 0b10000⟩
    | .inf neg => r = ⟨(low (if neg then t.min else t.max)).toNat, 0b110000⟩
    | .fin neg m e =>
        let n := roundAt rm neg x m e 0
        let v : Int := if neg then -(n.1 : Int) else n.1
        (v < t.min → r = ⟨(low t.min).toNat, 0b110000⟩) ∧ (t.max < v → r = ⟨(low t.max).toNat, 0b110000⟩) ∧
        (t.min ≤ v → v ≤ t.max → r = ⟨(low v).toNat, if n.2 then 1 else 0⟩)) ∧
  (∀ (td ts : CvtTy) (t : IntTy) (fd : FF) (rm : RMode) (sat : Bool) (x a : Word), cvtKind td = .inl fd → cvtKind ts = .inr t →
    let v := t.value a
    roundsTo fd rm sat x (.fin (decide (v < 0)) v.natAbs 0) (convert td ts rm sat x a)) ∧
  (∀ (td ts : CvtTy) (t t' : IntTy) (rm : RMode) (sat : Bool) (x a : Word), cvtKind td = .inr t → cvtKind ts = .inr t' →
    let v := t'.value a
    let r := convert td ts rm sat x a
    (t.min ≤ v → v ≤ t.max → r = ⟨(low v).toNat, 0⟩) ∧
    (¬ (t.min ≤ v ∧ v ≤ t.max) → sat = true → r = ⟨(low (clampTo t.min t.max v)).toNat, 0b100000⟩) ∧
    (¬ (t.min ≤ v ∧ v ≤ t.max) → sat = false → r.flags = 0 ∧ ∃ u, t.min ≤ u ∧ u ≤ t.max ∧ (u - v) % 2 ^ t.width = 0 ∧
      r.bits = (low u).toNat)) ∧
  (∀ (rm : RMode) (neg : Bool) (x : Word) (m : Nat) (e : Int) (k j : Nat), rm ≠ .rst → 2 ≤ j →
    (roundAt rm neg x (roundAt .rto neg x m e (e + k)).1 (e + k) (e + k + j)).1 = (roundAt rm neg x m e (e + k + j)).1)

/-- EXACT SUMS AND PRODUCTS (R82, R154, R98): the number that is then rounded once. An exact zero sum of values of opposite signs
is +0; infinities of opposite signs, and a zero times an infinity, give NaN with NV. -/
def Sys2Proof.Stated.ExactArithmetic : Prop :=
  (∀ (n1 n2 : Bool) (m1 m2 : Nat) (e1 e2 : Int),
    (let v (n : Bool) (m : Nat) (e : Int) : Int := (if n then -1 else 1) * ((m : Int) * 2 ^ (e - min e1 e2).toNat)
     ∃ n m, Machine.Num.add (.fin n1 m1 e1) (.fin n2 m2 e2) = (.fin n m (min e1 e2), 0) ∧
       v n m (min e1 e2) = v n1 m1 e1 + v n2 m2 e2 ∧ (m = 0 → n = (n1 && n2))) ∧
    Machine.Num.mul (.fin n1 m1 e1) (.fin n2 m2 e2) = (.fin (n1 != n2) (m1 * m2) (e1 + e2), 0)) ∧
  (∀ (v : Machine.Num), Machine.Num.add .nan v = (.nan, 0) ∧ Machine.Num.add v .nan = (.nan, 0) ∧
    Machine.Num.mul .nan v = (.nan, 0) ∧ Machine.Num.mul v .nan = (.nan, 0)) ∧
  (∀ (a b : Bool) (m : Nat) (e : Int),
    Machine.Num.add (.inf a) (.inf b) = (if a = b then (.inf a, 0) else (.nan, 0b10000)) ∧
    Machine.Num.add (.inf a) (.fin b m e) = (.inf a, 0) ∧ Machine.Num.add (.fin b m e) (.inf a) = (.inf a, 0) ∧
    Machine.Num.mul (.inf a) (.inf b) = (.inf (a != b), 0) ∧
    Machine.Num.mul (.inf a) (.fin b m e) = (if m = 0 then (.nan, 0b10000) else (.inf (a != b), 0)) ∧
    Machine.Num.mul (.fin b m e) (.inf a) = (if m = 0 then (.nan, 0b10000) else (.inf (a != b), 0))) ∧
  (∀ (f : FF) (p : Machine.Num × BitVec 6), ∃ r, roundsTo f .rne false 0 p.1 r ∧ f.deliver p = ⟨r.bits, r.flags ||| p.2⟩)

/-- COMPARISON, SELECTION AND MOVES ACROSS LANES (R156 to R158). -/
def Sys2Proof.Stated.LaneMovesAndSelection : Prop :=
  (∀ (s : State) (i : Instr) (d : VReg) (x : Nat → Word),
    (∀ k, k < 64 → movedElement s k i = some (d, x k)) → Clear s i →
    exec i s = .next (performed s i (fun u => u.vset d (lanesFn x)))) ∧
  (∀ (s : State) (d : VReg) (a : VSrc) (p : SPair) (h : BitVec 2),
    Clear s (.vsel d a p h) →
    exec (.vsel d a p h) s = .next (performed s (.vsel d a p h) (fun u =>
      u.vset d (lanesFn (fun k => if (s.pget p).getLsbD k then lane (s.vsrc a) k
        else lane (s.vget d) k))))) ∧
  (∀ (s : State) (c : CC) (t : CmpTy) (p : SPair) (a b : VSrc),
    Clear s (.vcmp c t p a b) →
    exec (.vcmp c t p a b) s = .next (performed s (.vcmp c t p a b) (fun u =>
      u.pset p (dwordOf (fun k => s.exec.getLsbD k && vcompares c t
        (lane (s.vsrc a) k) (lane (s.vsrc b) k))))))

/-- CONVERSIONS AND DRAWS (R87, R160 to R162): each active lane takes the value that `convert` gives its element; `.rst` and VRAND
draw once in each active lane. -/
def Sys2Proof.Stated.ConversionsAndDraws : Prop :=
  (∀ (s : State) (i : Instr) (d : VReg) (rm : RMode)
      (x : Nat → Res),
    (∀ k, k < 64 → convertedElement s k i = some (d, rm, x k)) → Clear s i →
    exec i s = .next (performed s i (fun u =>
      let t := (u.vset d (lanesFn (fun k => BitVec.ofNat 32 (x k).bits))).raiseFlags
        (raised s (fun k => (x k).flags))
      if rm = .rst then t.countDraws else t))) ∧
  (∀ (s : State) (float : Bool) (d : VReg) (h : BitVec 2),
    Clear s (.vrand float d h) →
    exec (.vrand float d h) s = .next (performed s (.vrand float d h) (fun u =>
      (u.vset d (lanesFn (fun k =>
        if float then BitVec.ofNat 32
          (FF.fp32.round .rne false 0 false ((s.drawAt k).toNat / 256) (-24)).bits
        else s.drawAt k))).countDraws)))

/-- CONVERSIONS (R83 to R88, R160 to R162): what the instructions leave, and what the values are. The chain rule R88 is stated for one
rounding to odd below a finite value; what a chain makes of an overflow or an infinity is the model's choice (log 65). -/
def Obligations.LaneConversions : Prop := Sys2Proof.Stated.ConversionsAndDraws ∧ Sys2Proof.Stated.ConversionCases

/-- REDUCTIONS AND SCANS (R94, R95, R97, R167 to R169). -/
def Obligations.ReductionsAndScans : Prop :=
  (∀ (s : State) (i : Instr) (d : SReg) (x : Word) (f : BitVec 6),
    reduction s i = some (d, x, f) → Clear s i →
    exec i s = .next (performed s i (fun u => (u.sset d x).raiseFlags f))) ∧
  (∀ (s : State) (f : ScanFn) (t : CmpTy) (d : VReg) (a : VSrc)
      (l : BitVec 4), Clear s (.vscan f t d a l) →
    let y := scanElement f t (leaf s a (redIdent t f))
    exec (.vscan f t d a l) s = .next (performed s (.vscan f t d a l) (fun u =>
      (u.vset d (lanesFn (fun k => (y k).1))).raiseFlags (raised s (fun k => (y k).2)))))

/-- VARGMIN AND VARGMAX (R97, R168). -/
def Obligations.ArgExtremes : Prop :=
  ∀ (s : State) (i : Instr) (mx : Bool) (t : CmpTy) (d : SReg)
      (a : VSrc) (l : BitVec 4),
    i = (if mx then .vargmax t d a l else .vargmin t d a l) → Clear s i →
    ∃ x : Word,
      exec i s = .next (performed s i (fun u => u.sset d x)) ∧
      (∀ k, IsExtreme s mx t a k → x = BitVec.ofNat 32 k) ∧
      ((∀ k, ¬ IsExtreme s mx t a k) → ∀ k, k < 64 → s.exec.getLsbD k = true →
        (∀ j, j < k → s.exec.getLsbD j = false) → x = BitVec.ofNat 32 k) ∧
      (s.exec = 0 → x = 0xFFFFFFFF#32)

/-- VCOMPRESS AND VEXPAND (R170, R171). -/
def Obligations.CompressAndExpand : Prop :=
  (∀ (s : State) (d : VReg) (a : VSrc) (sd : SReg) (l : BitVec 4),
    Clear s (.vcompress d a sd l) →
    let p := (List.range 64).filter (fun k => s.exec.getLsbD k)
    exec (.vcompress d a sd l) s = .next (performed s (.vcompress d a sd l) (fun u =>
      (u.vput allLanes d (lanesFn (fun j =>
        (p[j]?.map (fun k => lane (s.vsrc a) k)).getD 0))).sset sd (BitVec.ofNat 32 p.length)))) ∧
  (∀ (s : State) (d : VReg) (a : VSrc) (sd : SReg) (l : BitVec 4),
    Clear s (.vexpand d a sd l) →
    let p := (List.range 64).filter (fun k => s.exec.getLsbD k)
    ∃ x : Lanes,
      exec (.vexpand d a sd l) s = .next (performed s (.vexpand d a sd l) (fun u =>
        (u.vset d x).sset sd (BitVec.ofNat 32 p.length))) ∧
      ∀ j k, p[j]? = some k → lane x k = lane (s.vsrc a) j)

/-- THE WRITE RULES: a scalar write (R11, R12, R101) and a write of vector lanes (R144), as later reads see them. -/
def Obligations.RegisterWriteRules : Prop :=
  (∀ (s : State) (n k : SReg) (x : Word),
    (s.sset n x).sget k =
      if n < 56 ∧ k = n then x
      else if n = 56 ∧ k = 56 then x &&& s.slot.level.extractLsb' 0 32
      else if n = 57 ∧ k = 57 then x &&& s.slot.level.extractLsb' 32 32
      else s.sget k) ∧
  (∀ (s : State) (r q : VReg) (x : Lanes) (k : Nat),
    s.hasReg r → k < 64 →
    lane ((s.vset r x).vget q) k =
      if q = r ∧ s.exec.getLsbD k = true then lane x k else lane (s.vget q) k) ∧
  (∀ (s : State) (r : VReg) (x : Lanes) (k : SReg),
    (s.vset r x).sget k = s.sget k)


/-- INTEGER LANE RESULTS, MOVES ACROSS LANES, VSEL AND VCMP (R149 to R153, R155 to R159). -/
def Obligations.LaneIntegersAndMoves : Prop := Sys2Proof.Stated.LaneIntegerResult ∧ Sys2Proof.Stated.LaneMovesAndSelection

/-- FLOAT LANE RESULTS AND THE ROUNDING MODES (R81, R82, R96, R98, R154, R163, R166). The elements are the model's own `add`, `mul` and
`deliver`, of which the exact sums and products and the modes of rounding are stated apart. The bits of VRCP, VRSQ, VLOG2, VSIN,
VCOS and VTANH within their error bounds are free values (log 11). -/
def Obligations.LaneFloatAndRounding : Prop :=
  Sys2Proof.Stated.LaneFloatResult ∧ Sys2Proof.Stated.RoundingModes ∧ Sys2Proof.Stated.ExactArithmetic

end

namespace Sys2Proof.Stated
open Sys2Proof.Machine

/-! ## Scratchpad and cluster window (spec/07) -/

/-- What a lane access of spec/07 names: the W bit that the instruction requires (R172), each lane's address, and the bytes
of one access. -/
def laneAccess (s : State) : Instr → Option (Option Bool × (Nat → Word) × Nat)
  | .lds z _ _ _ a _ => some (some false, lane (s.vsrc a), z.bytes)
  | .sts z _ _ _ a _ => some (some false, lane (s.vsrc a), z.bytes)
  | .ldw z _ _ _ a _ => some (some true, lane (s.vsrc a), z.bytes)
  | .stw z _ _ _ a _ => some (some true, lane (s.vsrc a), z.bytes)
  | .ldsu z _ _ _ a _ => some (none, fun _ => s.ssrc a, z.bytes)
  | .ldres _ _ _ a _ => some (some false, lane (s.vsrc a), 4)
  | .stcond _ _ _ _ a => some (some false, lane (s.vsrc a), 4)
  | .ats _ _ _ _ a _ => some (some false, lane (s.vsrc a), 4)
  | .atw _ _ _ _ a _ => some (some true, lane (s.vsrc a), 4)
  | _ => none

/-- The active lanes whose address is out of bounds (R33, R172). -/
def outside (s : State) (w : Option Bool) (addr : Nat → Word) (n : Nat) : Dword :=
  dwordOf (fun k => s.exec.getLsbD k && s.spadResolve w (addr k) n == none)

/-- The active lanes whose address is not a multiple of the access size (R172). -/
def crooked (s : State) (addr : Nat → Word) (n : Nat) : Dword :=
  dwordOf (fun k => s.exec.getLsbD k && (addr k).toNat % n != 0)

/-- The accesses of the instruction are all in bounds and aligned. -/
def Reachable (s : State) (i : Instr) : Prop :=
  ∃ w addr n, laneAccess s i = some (w, addr, n) ∧ outside s w addr n = 0 ∧ crooked s addr n = 0

/-- The place of lane k's access in the scratchpads of the package. -/
def placeAt (s : State) (i : Instr) (k : Nat) : Nat :=
  match laneAccess s i with
  | some (_, addr, n) => (s.spadResolve none (addr k) n).getD 0
  | none => 0

/-- Register j of a value loaded at place x: its little-endian bytes, extended as the size says (R177). -/
def loaded (m : Cells) (z : MSize) (x j : Nat) : Word :=
  let b (k : Nat) : Nat := (cget 0 m (x + 4 * j + k)).toNat
  match z with
  | .n8 => BitVec.ofNat 32 (b 0)
  | .s8 => low (signed .s 8 (b 0))
  | .n16 => BitVec.ofNat 32 (b 0 + 256 * b 1)
  | .s16 => low (signed .s 16 (b 0 + 256 * b 1))
  | _ => BitVec.ofNat 32 (b 0 + 256 * b 1 + 65536 * b 2 + 16777216 * b 3)

/-- The destination, size, order and scope of a load into the active lanes. -/
def laneLoadOf : Instr → Option (VReg × MSize × Ord × Scope)
  | .lds z o c d _ _ => some (d, z, o, c)
  | .ldw z o c d _ _ => some (d, z, o, c)
  | .ldsu z o c d _ _ => some (d, z, o, c)
  | _ => none

/-- The data and size of a store from the active lanes. -/
def laneStoreOf : Instr → Option (VSrc × MSize)
  | .sts z _ _ d _ _ => some (d, z)
  | .stw z _ _ d _ _ => some (d, z)
  | _ => none

/-- Byte m of the value that lane k stores: the low bytes of its data words, the first register first (R177). -/
def storedByte (s : State) (d : VSrc) (k m : Nat) : Byte :=
  let w : Word := match d with
    | .reg r => lane (s.vget (vplus r (m / 4))) k
    | .lit x => x
  BitVec.ofNat 8 (byte w (m % 4))

/-- The byte at place y after the stores of lanes 0 to n - 1: that of the highest active lane that covers it (R178). -/
def afterStores (s : State) (i : Instr) (d : VSrc) (z : MSize) (y : Nat) : Nat → Byte
  | 0 => cget 0 s.spad y
  | n + 1 =>
      let x := placeAt s i n
      if s.exec.getLsbD n && decide (x ≤ y) && decide (y < x + z.bytes) then storedByte s d n (y - x)
      else afterStores s i d z y n

/-- The word at a place of a byte memory. -/
def wordIn (m : Cells) (x : Nat) : Word := loaded m .b32 x 0

/-- Operation, destination range and order of a scratchpad atomic. -/
def laneAtomicOf : Instr → Option (AtomOp × VReg × Ord × Scope)
  | .ats op o c b _ _ => some (op, b, o, c)
  | .atw op o c b _ _ => some (op, b, o, c)
  | _ => none

/-- The word that an atomic leaves (R183): `c` is the new value of a compare-and-swap. -/
def atomWord (op : AtomOp) (old b c : Word) : Word :=
  match op with
  | .add => low (old.toInt + b.toInt)
  | .fadd => (FF.fp32.add old b).word.1
  | .smin => low (min old.toInt b.toInt)
  | .nmin => low (min old.toNat b.toNat)
  | .smax => low (max old.toInt b.toInt)
  | .nmax => low (max old.toNat b.toNat)
  | .and => old &&& b
  | .or => old ||| b
  | .xor => old ^^^ b
  | .exch => b
  | .cas => if old = b then c else old

/-- The memory after the atomics of the active lanes below n, each on the word that the lanes before it left (R183). -/
def afterAtomics (s : State) (i : Instr) (op : AtomOp) (b : VReg) : Nat → Cells
  | 0 => s.spad
  | n + 1 =>
      let m := afterAtomics s i op b n
      if s.exec.getLsbD n then
        let x := placeAt s i n
        cwrite 0 m x (leBytes 4
          (atomWord op (wordIn m x) (lane (s.vget b) n) (lane (s.vget (vplus b 1)) n)).toNat)
      else m

/-- A wave's reservations after granules that satisfy P have been written: those on them are gone, and all others stand (R181). -/
def resvAfter (P : Nat → Prop) (v w : Wave) : Prop := ∀ k g, k < 64 → (w.resvAt k = some g ↔ v.resvAt k = some g ∧ ¬ P g)

/-- The same of every wave that is not in focus. -/
def othersAfter (s t : State) (P : Nat → Prop) : Prop :=
  ∀ n v, mget s.waves n = some v → ∃ w, mget t.waves n = some w ∧ resvAfter P v w

/-- The granules of n bytes from x. -/
def granules (x n g : Nat) : Prop := ∃ m, m < n ∧ (x + m) / 64 = g

/-- Everything but the wave in focus and the views of leases is as it was: what an instruction that only writes registers
may change. -/
def onlyWave (s t : State) : Prop := t = { s with wave := t.wave, dies := t.dies, rdc := t.rdc, notices := t.notices }

/-- The wave's state outside its registers, slots and reservations. -/
def waveKept (v w : Wave) : Prop :=
  w.name = v.name ∧ w.group = v.group ∧ w.index = v.index ∧ w.core = v.core ∧ w.life = v.life ∧ w.live = v.live ∧
  w.cur = v.cur ∧ w.top = v.top ∧ w.mark = v.mark ∧ w.ecnt = v.ecnt ∧ w.window = v.window ∧ w.traps = v.traps ∧
  w.slotAt (1 - w.cur) = v.slotAt (1 - v.cur)

end Sys2Proof.Stated

section
open Sys2Proof Sys2Proof.Machine Sys2Proof.Stated

/-- LANE ACCESS FAULTS (R172, R110): bounds before alignment, with the lanes that fail each check. -/
def Obligations.LaneAccessFaults : Prop :=
  ∀ (s : State) (i : Instr) (w : Option Bool) (addr : Nat → Word) (n k : Nat),
    laneAccess s i = some (w, addr, n) → Clear s i → k < 64 →
    (((outside s w addr n).getLsbD k = true ∧ (∀ j, j < k → (outside s w addr n).getLsbD j = false)) →
      traps s i { code := 0x0301, addr := (addr k).zeroExtend 64, maskA := outside s w addr n, maskB := crooked s addr n }) ∧
    ((outside s w addr n = 0 ∧ (crooked s addr n).getLsbD k = true ∧ (∀ j, j < k → (crooked s addr n).getLsbD j = false)) →
      traps s i { code := 0x0302, addr := (addr k).zeroExtend 64, maskB := crooked s addr n })

/-- LANE LOADS (R172, R177). -/
def Sys2Proof.Stated.LaneLoads : Prop :=
  ∀ (s : State) (i : Instr) (d : VReg) (z : MSize) (o : Ord) (c : Scope),
    laneLoadOf i = some (d, z, o, c) → Clear s i → Reachable s i → s.hasReg d (z.regs - 1) →
    ∃ t, exec i s = .next t ∧ onlyWave s t ∧ waveKept s.wave t.wave ∧ t.wave.sregs = s.wave.sregs ∧
      t.wave.flags = s.wave.flags ∧ t.wave.resv = s.wave.resv ∧ t.pc = s.pc + BitVec.ofNat 32 i.words ∧ t.exec = s.exec ∧
      (o = .rlx → t = { s with wave := t.wave }) ∧
      ∀ (q : VReg) (k : Nat), k < 64 →
        ((∃ j, j < z.regs ∧ q = vplus d j) ∧ s.exec.getLsbD k = true →
          ∀ j, j < z.regs → q = vplus d j → lane (t.vget q) k = loaded s.spad z (placeAt s i k) j) ∧
        (¬ ((∃ j, j < z.regs ∧ q = vplus d j) ∧ s.exec.getLsbD k = true) → lane (t.vget q) k = lane (s.vget q) k)

/-- LANE STORES (R177, R178): every byte of the scratchpads afterwards. -/
def Sys2Proof.Stated.LaneStores : Prop :=
  ∀ (s : State) (i : Instr) (d : VSrc) (z : MSize),
    laneStoreOf i = some (d, z) → Clear s i → Reachable s i → Memory.wf s.spad = true →
    (z.regs = 1 ∨ ∃ r, d = .reg r) →
    ∃ t, exec i s = .next t ∧ waveKept s.wave t.wave ∧ t.wave.sregs = s.wave.sregs ∧ t.wave.aregs = s.wave.aregs ∧
      t.wave.frames = s.wave.frames ∧ t.wave.flags = s.wave.flags ∧ t.pc = s.pc + BitVec.ofNat 32 i.words ∧
      t.exec = s.exec ∧ Memory.wf t.spad = true ∧
      ∀ y, cget 0 t.spad y = afterStores s i d z y 64

/-- RESERVATIONS (R179 to R181): LDRES reserves each active lane's granule; STCOND clears the active lanes' reservations and
succeeds, for each granule, in the lowest active lane that holds a matching one: the words of those lanes are written, and no
other byte. -/
def Sys2Proof.Stated.Reservations : Prop :=
  (∀ (s : State) (o : Ord) (c : Scope) (d : VReg) (a : VSrc) (l : BitVec 4),
    Clear s (.ldres o c d a l) → Reachable s (.ldres o c d a l) → s.hasReg d →
    ∃ t, exec (.ldres o c d a l) s = .next t ∧ t.spad = s.spad ∧ t.wave.sregs = s.wave.sregs ∧ t.wave.flags = s.wave.flags ∧
      ∀ k, k < 64 →
        (s.exec.getLsbD k = true → t.wave.resvAt k = some (placeAt s (.ldres o c d a l) k / 64) ∧
          lane (t.vget d) k = wordIn s.spad (placeAt s (.ldres o c d a l) k)) ∧
        (s.exec.getLsbD k = false → t.wave.resvAt k = s.wave.resvAt k ∧ lane (t.vget d) k = lane (s.vget d) k)) ∧
  (∀ (s : State) (o : Ord) (c : Scope) (p : SPair) (v a : VSrc),
    let i : Instr := .stcond o c p v a
    let x (k : Nat) : Nat := placeAt s i k
    let holds (k : Nat) : Prop := s.exec.getLsbD k = true ∧ s.wave.resvAt k = some (x k / 64)
    Clear s i → Reachable s i → Memory.wf s.spad = true →
    ∃ (u : State) (m : Dword), exec i s = .next ((u.pset p m).nextPc i) ∧ waveKept s.wave u.wave ∧
      u.wave.sregs = s.wave.sregs ∧ u.wave.frames = s.wave.frames ∧ u.wave.aregs = s.wave.aregs ∧
      u.wave.flags = s.wave.flags ∧ u.pc = s.pc ∧ u.exec = s.exec ∧ u.hbm = s.hbm ∧ u.l2 = s.l2 ∧
      (∀ k, k < 64 → s.exec.getLsbD k = true → u.wave.resvAt k = none) ∧
      (∀ k, k < 64 → (m.getLsbD k = true ↔ holds k ∧ ∀ j, j < k → holds j → x j / 64 ≠ x k / 64)) ∧
      (∀ k, k < 64 → m.getLsbD k = true → wordIn u.spad (x k) = lane (s.vsrc v) k) ∧
      (∀ y, (∀ k, k < 64 → m.getLsbD k = true → ¬ (x k ≤ y ∧ y < x k + 4)) → cget 0 u.spad y = cget 0 s.spad y))

/-- SCRATCHPAD ATOMICS (R183): the lanes act in rising order, and each receives the word it found. -/
def Sys2Proof.Stated.ScratchpadAtomics : Prop :=
  ∀ (s : State) (i : Instr) (op : AtomOp) (b : VReg) (o : Ord) (c : Scope),
    laneAtomicOf i = some (op, b, o, c) → Clear s i → Reachable s i → s.hasReg b →
    ∃ t, exec i s = .next t ∧ waveKept s.wave t.wave ∧ t.wave.sregs = s.wave.sregs ∧
      t.pc = s.pc + BitVec.ofNat 32 i.words ∧ t.exec = s.exec ∧ t.spad = afterAtomics s i op b 64 ∧
      (op ≠ .fadd → t.wave.flags = s.wave.flags) ∧
      ∀ (q : VReg) (k : Nat), k < 64 →
        lane (t.vget q) k =
          if q = b ∧ s.exec.getLsbD k = true then wordIn (afterAtomics s i op b k) (placeAt s i k) else lane (s.vget q) k

/-- WHAT CLEARS RESERVATIONS (R111, R181): a store of lanes, an SST, an atomic that always writes, and a STCOND where it succeeds
clear every reservation of any lane of any wave on a granule that they write, and no other. -/
def Sys2Proof.Stated.ReservationsCleared : Prop :=
  (∀ (s : State) (i : Instr) (d : VSrc) (z : MSize), laneStoreOf i = some (d, z) → Clear s i → Reachable s i → s.wave.name ≠ 0 →
    (z.regs = 1 ∨ ∃ r, d = .reg r) →
    let P (g : Nat) : Prop := ∃ j, j < 64 ∧ s.exec.getLsbD j = true ∧ granules (placeAt s i j) z.bytes g
    ∃ t, exec i s = .next t ∧ resvAfter P s.wave t.wave ∧ othersAfter s t P) ∧
  (∀ (s : State) (d a : SSrc) (imm : BitVec 13) (x : Nat), Clear s (.sst d a imm) → s.wave.name ≠ 0 →
    s.spadResolve none (wordAddr s a imm) 4 = some x → (wordAddr s a imm).toNat % 4 = 0 →
    ∃ t, exec (.sst d a imm) s = .next t ∧ resvAfter (granules x 4) s.wave t.wave ∧ othersAfter s t (granules x 4)) ∧
  (∀ (s : State) (i : Instr) (op : AtomOp) (b : VReg) (o : Ord) (c : Scope), laneAtomicOf i = some (op, b, o, c) → Clear s i →
    Reachable s i → s.hasReg b → s.wave.name ≠ 0 → op ∈ [AtomOp.add, .fadd, .and, .or, .xor, .exch] →
    let P (g : Nat) : Prop := ∃ j, j < 64 ∧ s.exec.getLsbD j = true ∧ granules (placeAt s i j) 4 g
    ∃ t, exec i s = .next t ∧ resvAfter P s.wave t.wave ∧ othersAfter s t P) ∧
  (∀ (s : State) (o : Ord) (c : Scope) (p : SPair) (v a : VSrc),
    let i : Instr := .stcond o c p v a
    let x (k : Nat) : Nat := placeAt s i k
    let P (g : Nat) : Prop := ∃ j, j < 64 ∧ s.exec.getLsbD j = true ∧ s.wave.resvAt j = some (x j / 64) ∧ x j / 64 = g
    Clear s i → Reachable s i → s.wave.name ≠ 0 → ∃ t, exec i s = .next t ∧ othersAfter s t P ∧
      ∀ k g, k < 64 → (t.wave.resvAt k = some g ↔ s.wave.resvAt k = some g ∧ s.exec.getLsbD k = false ∧ ¬ P g))


/-- LANE LOADS AND STORES (R172, R177, R178). -/
def Obligations.LaneLoadsAndStores : Prop := Sys2Proof.Stated.LaneLoads ∧ Sys2Proof.Stated.LaneStores

/-- RESERVATIONS, WHAT CLEARS THEM, AND SCRATCHPAD ATOMICS (R111, R179 to R181, R183). -/
def Obligations.ReservationsAndAtomics : Prop :=
  Sys2Proof.Stated.Reservations ∧ Sys2Proof.Stated.ReservationsCleared ∧ Sys2Proof.Stated.ScratchpadAtomics

end

namespace Sys2Proof.Stated
open Sys2Proof.Machine

/-! ## Control flow (spec/05) -/

/-- Only the wave in focus, identifiers and the event store change. -/
def quiet (s t : State) : Prop := t = { s with wave := t.wave, seqs := t.seqs, tabor := t.tabor }

/-- The registers, flags and reservations of a wave are as they were. -/
def regsKept (v w : Wave) : Prop :=
  w.sregs = v.sregs ∧ w.aregs = v.aregs ∧ w.flags = v.flags ∧ w.draws = v.draws ∧ w.window = v.window ∧ w.ecnt = v.ecnt

/-- A wave is in focus with its own group, as when an instruction issues. -/
def Focused (s : State) : Prop := s.wave.name ≠ 0 ∧ s.wave.group = s.grp.name

/-- The memories are as they were. -/
def memKept (s t : State) : Prop := t.spad = s.spad ∧ t.hbm = s.hbm ∧ t.l2 = s.l2

/-- The condition of BRC (R117). -/
def holds (s : State) : BrTest → Bool
  | .z a => (s.ssrc a).toNat == 0
  | .nz a => (s.ssrc a).toNat != 0
  | .lt a => decide ((s.ssrc a).toInt < 0)
  | .ge a => decide (0 ≤ (s.ssrc a).toInt)
  | .le a => decide ((s.ssrc a).toInt ≤ 0)
  | .gt a => decide (0 < (s.ssrc a).toInt)
  | .any p => (List.range 64).any (fun k => (s.pget p).getLsbD k)
  | .none p => (List.range 64).all (fun k => !(s.pget p).getLsbD k)

/-- The innermost split of the issuing fragment (R121): its own last entry above SBASE, else the top split. -/
def splitOf (s : State) : Option (StkEntry ⊕ TopSplit) :=
  if s.slot.sbase < s.slot.stk.length then s.slot.stk.getLast?.map .inl
  else if s.wave.top.pending then some (.inr s.wave.top) else none

/-- The join word and frame depth of a split. -/
def joinOf : StkEntry ⊕ TopSplit → Word × Nat
  | .inl e => (e.jpc, e.fdepth)
  | .inr t => (t.jpc, t.sdepth)

/-- The branching lanes of BRD and BRDN, and the lanes that fall through (R121). -/
def brdTaken (s : State) (neg : Bool) (p : SPair) : Dword := s.exec &&& (if neg then ~~~(s.pget p) else s.pget p)
/-- The lanes that fall through. -/
def brdRest (s : State) (neg : Bool) (p : SPair) : Dword := s.exec &&& ~~~(brdTaken s neg p)

/-- BRD and BRDN with their fields. -/
def brdOf (neg : Bool) (p : SPair) (off : BitVec 18) (joff : Word) : Instr := if neg then .brdn p off joff else .brd p off joff

/-- The branching lanes go first: more lanes, and on a tie the lower address (R121). -/
def first (taken rest : Dword) (target next : Word) : Bool :=
  let n (m : Dword) : Nat := (List.range 64).countP (fun k => m.getLsbD k)
  decide (n rest < n taken) || (n rest == n taken && decide (target.toNat < next.toNat))

/-- Stack entries in use by the issuing fragment (R121). -/
def stackUsed (s : State) : Nat := s.slot.stk.length + (if s.wave.cur = 1 then s.wave.top.hbase else 0)

/-- The target of CALL and CALLI. -/
def callOf (s : State) : Instr → Option (Nat × Word)
  | .call dem off => some (dem, low (s.pc.toInt + off.toInt))
  | .calli dem a => some (dem, s.ssrc a)
  | _ => none

/-- The key of the frame that a CALL of the issuing fragment pushes. -/
def pushKey (s : State) : Nat := s.wave.frameKey s.wave.cur (s.slot.depth + 1)

/-- The code of each cause that decoding reports (R59, R277). -/
def causeOf : Cause → Nat
  | .unassignedMajor => 0x0101 | .unassignedFunction => 0x0102 | .reservedField => 0x0103
  | .literalPosition => 0x0104 | .oddPair => 0x0105 | .featureAbsent => 0x0106

end Sys2Proof.Stated

section
open Sys2Proof Sys2Proof.Machine Sys2Proof.Stated

/-- BR AND BRC (R117, R118): where the fragment goes on; the mask, the level, the stack, the split, the frames, the registers,
the flags and the other slot are as they were, and so is all of the package but the wave. -/
def Obligations.UniformBranches : Prop :=
  (∀ (s : State) (off : BitVec 25), Clear s (.br off) →
    exec (.br off) s = .next (s.tick.setPc (low (s.pc.toInt + off.toInt)))) ∧
  (∀ (s : State) (c : BrTest) (off : BitVec 16), Clear s (.brc c off) →
    exec (.brc c off) s = .next (s.tick.setPc
      (if holds s c then low (s.pc.toInt + off.toInt) else s.pc + BitVec.ofNat 32 (Instr.brc c off).words))) ∧
  (∀ (s : State) (i : Instr), ((∃ off, i = .br off) ∨ ∃ c off, i = .brc c off) → Clear s i → ∃ t, exec i s = .next t ∧
    t = { s with wave := t.wave } ∧ regsKept s.wave t.wave ∧ waveKept s.wave t.wave ∧ t.wave.frames = s.wave.frames ∧
    t.wave.resv = s.wave.resv ∧ t.exec = s.exec ∧ t.slot.level = s.slot.level ∧ t.slot.stk = s.slot.stk ∧
    t.slot.depth = s.slot.depth ∧ t.slot.park = s.slot.park ∧ t.slot.valid = s.slot.valid)

/-- BRD AND BRDN (R120, R121): every case. -/
def Sys2Proof.Stated.DivergentBranch : Prop :=
  ∀ (s : State) (neg : Bool) (p : SPair) (off : BitVec 18) (joff : Word),
    let i := brdOf neg p off joff
    let F := s.slot
    let T := brdTaken s neg p
    let N := brdRest s neg p
    let target := low (s.pc.toInt + off.toInt)
    let jpc := s.pc + joff
    let go := first T N target (s.pc + 2)
    let leaves := target = jpc ∧ ∃ e, splitOf s = some e ∧ joinOf e = (jpc, F.depth)
    Clear s i →
    (T = 0 → exec i s = .next (s.tick.setPc (s.pc + 2))) ∧
    (T ≠ 0 → N = 0 → exec i s = .next (s.tick.setPc target)) ∧
    (T ≠ 0 → N ≠ 0 → leaves → ∃ t, exec i s = .next t ∧ quiet s t ∧ regsKept s.wave t.wave ∧
      t.exec = N ∧ t.slot.level = F.level &&& ~~~T ∧ t.pc = s.pc + 2 ∧
      (match splitOf s with
        | some (.inl e) => t.slot.stk = F.stk.dropLast ++ [{ e with arrived := e.arrived ||| T, resume := e.resume ||| T }] ∧
            t.wave.top = s.wave.top
        | _ => t.slot.stk = F.stk ∧
            t.wave.top = { s.wave.top with arrived := s.wave.top.arrived ||| T, resume := s.wave.top.resume ||| T })) ∧
    (T ≠ 0 → N ≠ 0 → ¬ leaves → s.wave.top.pending = false → ∃ t, exec i s = .next t ∧ quiet s t ∧
      regsKept s.wave t.wave ∧
      t.wave.top = ⟨true, jpc, s.wave.tokctr + 1, F.level, T ||| N, 0, 0, F.stk.length, F.depth⟩ ∧
      t.wave.tokctr = s.wave.tokctr + 1 ∧ t.wave.cur = (if go then 1 else 0) ∧ t.wave.ftimer = 0 ∧
      t.wave.slot0 = { F.ticked with sbase := F.stk.length, pc := s.pc + 2, mask := N, level := N } ∧
      t.wave.slot1 = { F.ticked with valid := true, pc := target, mask := T, level := T, stk := [], sbase := 0, park := .no }) ∧
    (T ≠ 0 → N ≠ 0 → ¬ leaves → s.wave.top.pending = true → stackUsed s ≠ 32 → ∃ t, exec i s = .next t ∧ quiet s t ∧
      regsKept s.wave t.wave ∧ t.wave.top = s.wave.top ∧ t.wave.tokctr = s.wave.tokctr + 1 ∧
      t.exec = (if go then T else N) ∧ t.slot.level = (if go then T else N) ∧ t.pc = (if go then target else s.pc + 2) ∧
      t.slot.stk = F.stk ++ [⟨jpc, s.wave.tokctr + 1, F.depth, F.level, T ||| N, 0, 0, if go then N else T,
        if go then s.pc + 2 else target⟩]) ∧
    (T ≠ 0 → N ≠ 0 → ¬ leaves → s.wave.top.pending = true → stackUsed s = 32 → traps s i { code := 0x010B })

/-- JOIN (R123 to R125): it always completes and changes no register; what it does without a match, with its own entry, and
at the top split. -/
def Sys2Proof.Stated.JoinReconverges : Prop :=
  ∀ (s : State), Clear s .join → s.frame.spilled = false →
    let F := s.slot
    let live := s.wave.live
    ∃ t, exec .join s = .next t ∧ memKept s t ∧ regsKept s.wave t.wave ∧
      ((∀ e, splitOf s = some e → joinOf e ≠ (s.pc, F.depth)) →
        t.pc = s.pc + 1 ∧ t.exec = s.exec ∧ t.slot.level = F.level ∧ t.slot.stk = F.stk ∧ t.wave.top = s.wave.top) ∧
      (∀ e, splitOf s = some (.inl e) → joinOf (.inl e) = (s.pc, F.depth) → e.deferred ≠ 0 →
        t.exec = e.deferred ∧ t.slot.level = e.deferred ∧ t.pc = e.dpc ∧
        t.slot.stk = F.stk.dropLast ++
          [{ e with arrived := e.arrived ||| F.level, resume := e.resume ||| s.exec, deferred := 0 }]) ∧
      (∀ e, splitOf s = some (.inl e) → joinOf (.inl e) = (s.pc, F.depth) → e.deferred = 0 → e.outer &&& live ≠ 0 →
        t.exec = (e.resume ||| s.exec) &&& live ∧ t.slot.level = e.outer &&& live ∧ t.pc = s.pc ∧
        t.slot.stk = F.stk.dropLast) ∧
      (∀ e, splitOf s = some (.inr e) → joinOf (.inr e) = (s.pc, F.depth) → e.arrived ||| F.level ≠ e.expect →
        t.slot.park = .topJoin ∧
        t.wave.top = { e with arrived := e.arrived ||| F.level, resume := e.resume ||| s.exec }) ∧
      (∀ e, splitOf s = some (.inr e) → joinOf (.inr e) = (s.pc, F.depth) → e.arrived ||| F.level = e.expect →
        e.outer &&& live ≠ 0 →
        t.wave.top.pending = false ∧ t.wave.slot1.valid = false ∧ t.wave.cur = 0 ∧ t.wave.slot0.valid = true ∧
        t.wave.slot0.pc = e.jpc ∧ t.wave.slot0.mask = (e.resume ||| s.exec) &&& live ∧
        t.wave.slot0.level = e.outer &&& live ∧ t.wave.slot0.depth = e.sdepth ∧ t.wave.slot0.windows = [])

/-- EXIT (R126, R127): its lanes leave every lane set of the wave: LIVE, the masks and levels of both slots, their stack
entries and the top split; a wave without live lanes issues nothing more. That VALID and PARK of both its slots are cleared then is
the model's choice (log 71). -/
def Obligations.ExitEndsLanes : Prop :=
  ∀ (s : State), Clear s .exit → s.frame.spilled = false →
    let x := s.exec
    ∃ t, exec .exit s = .next t ∧ memKept s t ∧ regsKept s.wave t.wave ∧
      t.wave.live = s.wave.live &&& ~~~x ∧
      t.wave.slot0.mask &&& x = 0 ∧ t.wave.slot1.mask &&& x = 0 ∧ t.wave.slot0.level &&& x = 0 ∧ t.wave.slot1.level &&& x = 0 ∧
      (∀ e, (e ∈ t.wave.slot0.stk ∨ e ∈ t.wave.slot1.stk) → e.outer &&& x = 0 ∧ e.expect &&& x = 0 ∧ e.arrived &&& x = 0 ∧
        e.resume &&& x = 0 ∧ e.deferred &&& x = 0) ∧
      t.wave.top.outer &&& x = 0 ∧ t.wave.top.expect &&& x = 0 ∧ t.wave.top.arrived &&& x = 0 ∧ t.wave.top.resume &&& x = 0 ∧
      (∀ k, k < 64 → t.wave.resvAt k = if x.getLsbD k then none else s.wave.resvAt k) ∧
      (s.wave.live &&& ~~~x = 0 → t.wave.life = .stopped ∧ t.wave.slot0.valid = false ∧ t.wave.slot1.valid = false) ∧
      (s.wave.live &&& ~~~x ≠ 0 → s.slot.level &&& ~~~x ≠ 0 →
        t.pc = s.pc + 1 ∧ t.exec = 0 ∧ t.slot.level = s.slot.level &&& ~~~x ∧ t.wave.life = s.wave.life)

/-- CALL, CALLI AND RET (R133 to R137): a call that the pool meets enters a zeroed frame; one that it does not meet parks at
its own word; a return frees the frame; the two depth causes. -/
def Sys2Proof.Stated.CallFrames : Prop :=
  (∀ (s : State) (i : Instr) (dem : Nat) (target : Word), callOf s i = some (dem, target) → Clear s i → s.slot.depth ≠ 63 →
    let ret := s.pc + BitVec.ofNat 32 i.words
    (s.grantable s.wave.core (s.grp.order, s.wave.index, s.wave.cur) dem = true → ∃ t, exec i s = .next t ∧
      t = { s with wave := t.wave } ∧ regsKept s.wave t.wave ∧ t.slot.depth = s.slot.depth + 1 ∧ t.pc = target ∧
      t.exec = s.exec ∧ (t.wave.frame (pushKey s)).ret = ret ∧ (t.wave.frame (pushKey s)).blocks = dem ∧
      (t.wave.frame (pushKey s)).regs = List.replicate (8 * dem) (Lanes.fill 0) ∧
      ∀ k, k ≠ pushKey s → mwf s.wave.frames = true → mget t.wave.frames k = mget s.wave.frames k) ∧
    (s.grantable s.wave.core (s.grp.order, s.wave.index, s.wave.cur) dem = false → ∃ t, exec i s = .next t ∧ memKept s t ∧
      regsKept s.wave t.wave ∧ t.wave.frames = s.wave.frames ∧ t.slot.park = .frame (.call dem target ret) ∧ t.pc = s.pc ∧
      t.slot.depth = s.slot.depth)) ∧
  (∀ (s : State) (i : Instr) (dem : Nat) (target : Word), callOf s i = some (dem, target) → Clear s i → s.slot.depth = 63 →
    traps s i { code := 0x010C }) ∧
  (∀ (s : State), Clear s .ret → s.framePending [s.frameKey] = false → 0 < s.slot.depth →
    (∀ e, splitOf s = some e → (joinOf e).2 ≠ s.slot.depth) → mwf s.wave.frames = true →
    ∃ t, exec .ret s = .next t ∧ memKept s t ∧ regsKept s.wave t.wave ∧ t.slot.depth = s.slot.depth - 1 ∧
      t.pc = s.frame.ret ∧ t.exec = s.exec ∧ mget t.wave.frames s.frameKey = none ∧
      ∀ k, k ≠ s.frameKey → mget t.wave.frames k = mget s.wave.frames k) ∧
  (∀ (s : State), Clear s .ret → (s.slot.depth = 0 ∨ ∃ e, splitOf s = some e ∧ (joinOf e).2 = s.slot.depth) →
    traps s .ret { code := 0x010D })

/-- UMARK AND UNWIND (R138, R139). -/
def Sys2Proof.Stated.MarksAndUnwinding : Prop :=
  (∀ (s : State), Clear s .umark →
    exec .umark s = .next (performed s .umark (fun u => { u with wave := { u.wave with mark := s.slot.depth } }))) ∧
  (∀ (s : State), Clear s .unwind → s.wave.mark < s.slot.depth → s.framePending (s.wave.unwoundKeys s.wave.cur) = false →
    ∃ t, exec .unwind s = .next t ∧ memKept s t ∧ t.slot.depth = s.wave.mark ∧ t.wave.mark = s.wave.mark ∧
      t.pc = (s.wave.frame (s.wave.frameKey s.wave.cur (s.wave.mark + 1))).ret ∧
      (∀ k, k ∈ s.wave.unwoundKeys s.wave.cur → mget t.wave.frames k = none) ∧
      (∀ e, e ∈ t.slot.stk → e.fdepth ≤ s.wave.mark) ∧ s.exec &&& ~~~t.exec = 0) ∧
  (∀ (s : State), Clear s .unwind → s.slot.depth ≤ s.wave.mark → traps s .unwind { code := 0x010D })

/-- The lowest logical wave index among the waves of the group in focus on a core that are not parked (R321). -/
def lowestFree (t : State) (core m : Nat) : Prop :=
  (∃ w, w ∈ t.allWaves ∧ w.group = t.grp.name ∧ w.core = core ∧ w.blocked = false ∧ w.index = m) ∧
  ∀ w, w ∈ t.allWaves → w.group = t.grp.name → w.core = core → w.blocked = false → m ≤ w.index

/-- NOP, YIELD AND SLEEPC (R130, R131): YIELD rotates the fragments and restarts FTIMER at 0 when the other slot may issue, and
keeps CUR and FTIMER when it may not; in ordered mode it is a switch point of the core (R321), after which the lowest logical
wave that is not parked, the switching wave itself among them, is current. -/
def Obligations.NopYieldSleep : Prop :=
  (∀ (s : State), Clear s .nop → exec .nop s = .next (performed s .nop id)) ∧
  (∀ (s : State), Clear s .yield → s.wave.cur < 2 →
    ∃ t, exec .yield s = .next t ∧ t = { s with wave := t.wave, grp := t.grp } ∧ regsKept s.wave t.wave ∧
      t.wave.slotAt s.wave.cur = { s.slot.ticked with pc := s.pc + 1 } ∧
      t.wave.slotAt (1 - s.wave.cur) = s.wave.slotAt (1 - s.wave.cur) ∧
      ((s.wave.slotAt (1 - s.wave.cur)).ready = true → t.wave.cur = 1 - s.wave.cur ∧ t.wave.ftimer = 0) ∧
      ((s.wave.slotAt (1 - s.wave.cur)).ready = false → t.wave.cur = s.wave.cur ∧ t.wave.ftimer = s.wave.ftimer) ∧
      t.grp = { s.grp with current := t.grp.current } ∧
      (∀ c, c ≠ s.wave.core → mget t.grp.current c = mget s.grp.current c) ∧
      (s.grp.ordered = false ∨ mget s.grp.current s.wave.core ≠ some s.wave.index → t.grp.current = s.grp.current) ∧
      (s.grp.ordered = true → mget s.grp.current s.wave.core = some s.wave.index → ∀ m, lowestFree t s.wave.core m →
        mget t.grp.current s.wave.core = some m)) ∧
  (∀ (s : State) (n : BitVec 20), Clear s (.sleepc n) →
    exec (.sleepc n) s = .next (performed s (.sleepc n) (fun u =>
      if n = 0 then u else u.setSlot { u.slot with park := .sleep (s.cycles.toNat + n.toNat) })))

/-- TRAP, BRKPT, HALTW AND WORDS THAT DO NOT DECODE (R59, R287). -/
def Sys2Proof.Stated.TrapWords : Prop :=
  (∀ (s : State) (n : BitVec 20), Clear s (.trap n) → traps s (.trap n) { code := 0x0601, addr := n.zeroExtend 64 }) ∧
  (∀ (s : State) (n : BitVec 20), Clear s (.brkpt n) → traps s (.brkpt n) { code := 0x0602, addr := n.zeroExtend 64 }) ∧
  (∀ (s : State), Clear s .haltw → Focused s → ∃ t, exec .haltw s = .next t ∧ t.wave.halted = true ∧ t.slot.park = .halt ∧
    t.pc = s.pc ∧ regsKept s.wave t.wave ∧ t.wave.frames = s.wave.frames ∧ t.spad = s.spad ∧
    ∀ k, k < 64 → t.wave.resvAt k = none) ∧
  (∀ (s : State) (c : Cause), exec (.illegalInstructionWord c) s = .next (s.raise 1 { code := causeOf c }))

/-- TAKING A TRAP THAT IS HELD (R276, R281, R287): the group begins to drain, the fragment stays at its word, the trap waits
in the group with its code, word, address and masks, and no register changes but the reservations, which are cleared. -/
def Sys2Proof.Stated.TrapHeld : Prop :=
  ∀ (s : State) (words : Nat) (r : Raise),
    s.caught r.code = false → s.slot.park = .no → (s.grp.state = .running ∨ s.grp.state = .ending) →
    let t := s.raise words r
    (∃ room, t.grp.state = .draining (if r.code = 0x0801 then 2 else 1) r.code room) ∧
    (∃ d : DelTrap, t.grp.trapped = s.grp.trapped ++ [(s.wave.index, d)] ∧ d.code = r.code ∧ d.slot = s.wave.cur ∧
      d.pc = s.pc ∧ d.causal = s.nextId s.issueUnit ∧ d.addr = r.addr ∧ d.maskA = r.maskA ∧ d.maskB = r.maskB ∧
      d.precise = true ∧ d.time = s.time) ∧
    t.pc = s.pc ∧ t.exec = s.exec ∧ regsKept s.wave t.wave ∧ t.wave.frames = s.wave.frames ∧ memKept s t ∧
    ∀ k, k < 64 → t.wave.resvAt k = none

/-- TAKING A TRAP THAT IS CAUGHT (R279, R280): the fragment returns to the frame of the mark, and a6 holds the code with bit
31 set in its active lanes. -/
def Sys2Proof.Stated.TrapCaught : Prop :=
  (∀ (s : State) (words : Nat) (r : Raise),
    s.caught r.code = true → s.framePending (s.wave.unwoundKeys s.wave.cur) = false → Focused s →
    let t := s.raise words r
    t.slot.depth = s.wave.mark ∧ t.pc = (s.wave.frame (s.wave.frameKey s.wave.cur (s.wave.mark + 1))).ret ∧
    t.grp.state = s.grp.state ∧ t.wave.flags = s.wave.flags ∧ t.spad = s.spad ∧
    (∀ k, k < 64 → t.exec.getLsbD k = true → lane (t.vget (.a 6)) k = BitVec.ofNat 32 (2 ^ 31 + r.code)) ∧
    ∀ k, k < 64 → t.wave.resvAt k = none) ∧
  (∀ (s : State) (code : Nat), s.caught code = true ↔
    1 ≤ code / 256 ∧ code / 256 ≤ 7 ∧ (code / 256 = 6 → code = 0x0601) ∧ s.wave.mark < s.slot.depth ∧
      ∃ c, mget s.ctxs s.grp.ctx = some c ∧ c.catchMask.getLsbD (code / 256 - 1) = true)


/-- SPLITS AND JOINS (R120, R121, R123 to R125). -/
def Obligations.SplitAndJoin : Prop := Sys2Proof.Stated.DivergentBranch ∧ Sys2Proof.Stated.JoinReconverges

/-- CALLS, RETURNS, MARKS AND UNWINDING (R133 to R139). -/
def Obligations.FramesAndUnwinding : Prop := Sys2Proof.Stated.CallFrames ∧ Sys2Proof.Stated.MarksAndUnwinding

/-- TAKING A TRAP, held or caught (R276, R279 to R281, R287). -/
def Obligations.TrapTaking : Prop := Sys2Proof.Stated.TrapHeld ∧ Sys2Proof.Stated.TrapCaught

end

namespace Sys2Proof.Stated
open Sys2Proof.Machine

/-! ## Barriers, semaphores and waits (spec/10, spec/08) -/

/-- The place of the barrier object that an address names, in bounds and aligned (R231, R235). -/
def objectAt (s : State) (a : Word) : Option Nat := if a.toNat % 16 = 0 then s.spadResolve none a 16 else none

/-- An object after an accepted arrival word (R236). -/
def arrived (o : BarObj) (b : Word) : BarObj :=
  let n := b.toNat % 2 ^ 30
  let o := if b.toNat / 2 ^ 30 % 2 = 1 then { o with outBytes := o.outBytes + n } else { o with inBytes := o.inBytes + n }
  if b.toNat / 2 ^ 31 = 0 then { o with pending := o.pending - 1 } else o

/-- An arrival word that R236 refuses: an arrival where none is expected, or a count above 32 bits. -/
def refusedArrival (o : BarObj) (b : Word) : Bool :=
  (b.toNat / 2 ^ 31 == 0 && o.pending == 0) ||
    decide (2 ^ 32 ≤ (if b.toNat / 2 ^ 30 % 2 = 1 then o.outBytes else o.inBytes) + b.toNat % 2 ^ 30)

/-- Nothing is missing from the generation (R233). -/
def complete (o : BarObj) : Prop := o.pending = 0 ∧ o.inBytes = 0 ∧ o.outBytes = 0

/-- Bytes of the scratchpads outside [x, x + n) are as they were. -/
def spadKeptBut (s t : State) (x n : Nat) : Prop := ∀ y, ¬ (x ≤ y ∧ y < x + n) → cget 0 t.spad y = cget 0 s.spad y

/-- The fields of BARINIT's value, and the values that it refuses (R236). -/
def initCount (v : Dword) : Nat := v.toNat % 2 ^ 16
/-- Reserved bits set, or no arrivals expected. -/
def initRefused (v : Dword) : Prop := v.toNat / 2 ^ 17 % 2 ^ 15 ≠ 0 ∨ v.toNat / 2 ^ 56 ≠ 0 ∨ initCount v = 0

/-- A park begins a wait that ends at the next word: the fragment stays at its own word meanwhile (R257, R293). -/
def parkedAt (s t : State) (p : Park) : Prop := t.slot.park = p ∧ t.pc = s.pc ∧ t.exec = s.exec

/-- A wait on the object `o` at x for the end of generation g writes the granule, as every barrier operation does (R232):
the wave's reservations there go, and no byte of the scratchpads changes; it passes with the new generation, or parks (R237). -/
def waitsOn (s : State) (i : Instr) (x g : Nat) (d : SReg) (o : BarObj) : Prop :=
  Memory.wf s.spad = true → o.reserved = 0 →
  (o.gen ≠ g → ∃ u : State, exec i s = .next ((u.sset d (BitVec.ofNat 32 o.gen)).nextPc i) ∧ (∀ y, cget 0 u.spad y = cget 0 s.spad y) ∧
    u.pc = s.pc ∧ u.exec = s.exec ∧ u.wave.sregs = s.wave.sregs ∧ u.wave.frames = s.wave.frames ∧
    ∀ k, k < 64 → u.wave.resvAt k ≠ some (x / 64)) ∧
  (o.gen = g → o.faulted = false → ∃ t, exec i s = .next t ∧ parkedAt s t (.barrier x (BitVec.ofNat 4 g) d) ∧
    t.slot.after = s.pc + BitVec.ofNat 32 i.words ∧ (∀ y, cget 0 t.spad y = cget 0 s.spad y) ∧
    ∀ k, k < 64 → t.wave.resvAt k ≠ some (x / 64))

/-- The waits recorded on the object at x, once it stands in generation g (R233, R236, R237): those for another generation have ended, SD
holds g, and the fragment goes on at the next word; those for g stand. -/
def released (s t : State) (x g : Nat) : Prop :=
  ∀ n w k h d, mget s.waves n = some w → k < 2 → (w.slotAt k).valid = true → (w.slotAt k).park = .barrier x h d →
    ∃ v, mget t.waves n = some v ∧
      (h.toNat ≠ g → (v.slotAt k).park = .no ∧ (v.slotAt k).pc = (w.slotAt k).after ∧
        (d < 56 → v.sregs.toArray.getD d 0 = BitVec.ofNat 32 g)) ∧
      (h.toNat = g → (v.slotAt k).park = .barrier x h d ∧ (v.slotAt k).pc = (w.slotAt k).pc)

/-- The barrier instructions with the operand that names their object. -/
def objectOf : Instr → Option SSrc
  | .barinit a _ | .bararr _ a _ | .barwait _ a _ | .bararw _ a _ => some a
  | _ => none

/-- The semaphore that an operand names (R26, R242). -/
def semOf (s : State) (a : SSrc) : Nat := s.grp.semBase + (s.ssrc a).toNat

end Sys2Proof.Stated

section
open Sys2Proof Sys2Proof.Machine Sys2Proof.Stated

/-- BARINIT (R235, R236): the fresh object, and the refused values. -/
def Sys2Proof.Stated.BarrierInit : Prop :=
  ∀ (s : State) (a : SSrc) (b : SPair) (x : Nat),
    Clear s (.barinit a b) → s.slot.park = .no → objectAt s (s.ssrc a) = some x →
    (¬ initRefused (s.pget b) → Memory.wf s.spad = true → ∃ t, exec (.barinit a b) s = .next t ∧
      t.barGet x = ⟨0, 0, (s.pget b).toNat / 2 ^ 32 % 2 ^ 24, 0, false, (s.pget b).getLsbD 16, initCount (s.pget b),
        initCount (s.pget b), 0⟩ ∧
      spadKeptBut s t x 16 ∧ t.pc = s.pc + BitVec.ofNat 32 (Instr.barinit a b).words ∧ t.exec = s.exec) ∧
    (initRefused (s.pget b) → traps s (.barinit a b) { code := 0x0402 })

/-- ARRIVALS (R233, R235, R236): BARARR counts the arrival, completes the generation when nothing is missing, and gives the
generation arrived in; a refused word traps. -/
def Sys2Proof.Stated.BarrierArrival : Prop :=
  ∀ (s : State) (d : SReg) (a b : SSrc) (x : Nat),
    let i : Instr := .bararr d a b
    let o := s.barGet x
    let n := arrived o (s.ssrc b)
    Clear s i → s.slot.park = .no → objectAt s (s.ssrc a) = some x →
    (o.reserved = 0 → refusedArrival o (s.ssrc b) = false → Memory.wf s.spad = true →
      ∃ u, exec i s = .next ((u.sset d (BitVec.ofNat 32 o.gen)).nextPc i) ∧ u.pc = s.pc ∧ u.exec = s.exec ∧
        (¬ complete n → u.barGet x = n) ∧
        (complete n → u.barGet x = { n with gen := (o.gen + 1) % 16, pending := o.expected }) ∧ spadKeptBut s u x 16) ∧
    ((o.reserved ≠ 0 ∨ refusedArrival o (s.ssrc b) = true) → traps s i { code := 0x0402 })

/-- WHAT ENDS RECORDED WAITS (R233, R236, R237): BARINIT and every completed generation release the waits of all waves for another
generation; an arrival that completes nothing releases none. -/
def Sys2Proof.Stated.BarrierReleases : Prop :=
  (∀ (s : State) (a : SSrc) (b : SPair) (x : Nat), Clear s (.barinit a b) → objectAt s (s.ssrc a) = some x →
    ¬ initRefused (s.pget b) → ∃ t, exec (.barinit a b) s = .next t ∧ released s t x 0) ∧
  (∀ (s : State) (d : SReg) (a b : SSrc) (x : Nat) (i : Instr),
    (i = .bararr d a b ∨ (i = .bararw d a b ∧ ∀ g, s.slot.rewait ≠ some (s.pc, g))) → Clear s i → s.slot.park = .no →
    objectAt s (s.ssrc a) = some x → Memory.wf s.spad = true →
    let o := s.barGet x
    let n := arrived o (s.ssrc b)
    o.reserved = 0 → refusedArrival o (s.ssrc b) = false →
    (complete n → ∃ t, exec i s = .next t ∧ released s t x ((o.gen + 1) % 16)) ∧
    (¬ complete n → o.faulted = false → ∃ t, exec i s = .next t ∧ ∀ m w, mget s.waves m = some w → ∃ v, mget t.waves m = some v ∧
      v.slot0.park = w.slot0.park ∧ v.slot1.park = w.slot1.park ∧ v.sregs = w.sregs))

/-- THE ADDRESS OF A BARRIER OBJECT (R235): in bounds, then a multiple of 16. -/
def Sys2Proof.Stated.BarrierAddressFaults : Prop :=
  ∀ (s : State) (i : Instr) (a : SSrc), objectOf i = some a → Clear s i →
    (s.spadResolve none (s.ssrc a) 16 = none → traps s i { code := 0x0301, addr := (s.ssrc a).zeroExtend 64 }) ∧
    (s.spadResolve none (s.ssrc a) 16 ≠ none → (s.ssrc a).toNat % 16 ≠ 0 →
      traps s i { code := 0x0302, addr := (s.ssrc a).zeroExtend 64 })

/-- BARRIER WAITS (R232, R235 to R237, R241): BARWAIT writes its granule, passes when the generation has ended, parks while it
has not, and traps on an object marked FAULTED or with reserved bits; BARARW arrives first, or traps where the arrival is
refused; one that has arrived and issues again waits only. -/
def Obligations.BarrierWait : Prop :=
  (∀ (s : State) (d : SReg) (a b : SSrc) (x : Nat),
    let i : Instr := .barwait d a b
    let o := s.barGet x
    let g := (s.ssrc b).toNat % 16
    Clear s i → objectAt s (s.ssrc a) = some x →
    waitsOn s i x g d o ∧ (o.reserved ≠ 0 ∨ (o.gen = g ∧ o.faulted = true) → traps s i { code := 0x0402 })) ∧
  (∀ (s : State) (d : SReg) (a b : SSrc) (x g : Nat),
    let i : Instr := .bararw d a b
    let o := s.barGet x
    Clear s i → objectAt s (s.ssrc a) = some x → s.slot.rewait = some (s.pc, g) →
    waitsOn s i x g d o ∧ (o.reserved ≠ 0 ∨ (o.gen = g ∧ o.faulted = true) → traps s i { code := 0x0402 })) ∧
  (∀ (s : State) (d : SReg) (a b : SSrc) (x : Nat),
    let i : Instr := .bararw d a b
    let o := s.barGet x
    let n := arrived o (s.ssrc b)
    Clear s i → s.slot.park = .no → objectAt s (s.ssrc a) = some x → (∀ g, s.slot.rewait ≠ some (s.pc, g)) →
    Memory.wf s.spad = true →
    ((o.reserved ≠ 0 ∨ refusedArrival o (s.ssrc b) = true) → traps s i { code := 0x0402 }) ∧
    (o.reserved = 0 → refusedArrival o (s.ssrc b) = false → complete n → ∃ u, exec i s = .next ((u.sset d (BitVec.ofNat 32 ((o.gen + 1) % 16))).nextPc i) ∧
      u.barGet x = { n with gen := (o.gen + 1) % 16, pending := o.expected } ∧ spadKeptBut s u x 16) ∧
    (o.reserved = 0 → refusedArrival o (s.ssrc b) = false → ¬ complete n → o.faulted = false → ∃ t, exec i s = .next t ∧
      parkedAt s t (.barrier x (BitVec.ofNat 4 o.gen) d) ∧ t.barGet x = n ∧ spadKeptBut s t x 16) ∧
    (o.reserved = 0 → refusedArrival o (s.ssrc b) = false → ¬ complete n → o.faulted = true → traps s i { code := 0x0402 }))

/-- SEMAPHORES (R242 to R244): SEMPOST gives the old count and serves the head acquirers; SEMACQ and SEMTRY go at once when
nobody waits and the count is enough, else SEMACQ joins the queue and parks and SEMTRY gives all ones; the range cause. -/
def Sys2Proof.Stated.Semaphores : Prop :=
  ∀ (s : State) (d : SReg) (a b : SSrc),
    let k := semOf s a
    let n := (s.ssrc b).toNat % 2 ^ 16
    let c := (s.sem k).1
    let q := (s.sem k).2
    let inRange := (s.ssrc a).toNat < min 64 s.grp.semCount
    (Clear s (.sempost d a b) → inRange → ∃ t served rest, exec (.sempost d a b) s = .next t ∧
      q = served ++ rest ∧ (t.sem k).2 = rest ∧
      (t.sem k).1 + (served.map SemWait.n).sum = min (c + n) 65535 ∧
      (∀ h, rest.head? = some h → (t.sem k).1 < h.n) ∧
      ((∀ h, h ∈ q → h.wave ≠ s.wave.name) → t.pc = s.pc + BitVec.ofNat 32 (Instr.sempost d a b).words) ∧
      (q = [] → t.wave.sregs = (s.sset d (BitVec.ofNat 32 c)).wave.sregs)) ∧
    (Clear s (.semacq d a b) → inRange → q = [] → n ≤ c → ∃ u : State,
      exec (.semacq d a b) s = .next ((u.sset d (BitVec.ofNat 32 (c - n))).nextPc (.semacq d a b)) ∧
      u = { s.tick with cores := u.cores } ∧ u.sem k = (c - n, [])) ∧
    (Clear s (.semacq d a b) → inRange → (q ≠ [] ∨ c < n) → ∃ t, exec (.semacq d a b) s = .next t ∧
      parkedAt s t (.sem s.wave.core k n d) ∧ t.sem k = (c, q ++ [⟨s.wave.name, s.wave.cur, n, d⟩]) ∧ t.spad = s.spad) ∧
    (Clear s (.semtry d a b) → inRange → q = [] → n ≤ c → ∃ u : State,
      exec (.semtry d a b) s = .next ((u.sset d (BitVec.ofNat 32 (c - n))).nextPc (.semtry d a b)) ∧
      u = { s.tick with cores := u.cores } ∧ u.sem k = (c - n, [])) ∧
    (Clear s (.semtry d a b) → inRange → (q ≠ [] ∨ c < n) →
      exec (.semtry d a b) s = .next (performed s (.semtry d a b) (fun u => u.sset d 0xFFFFFFFF#32))) ∧
    (∀ i, i ∈ [Instr.sempost d a b, .semacq d a b, .semtry d a b] → Clear s i → ¬ inRange →
      traps s i { code := 0x0109 })

/-- WAITCNT, DRAIN AND FENCE (R205, R206, R270): what passes, and what waits at its own word. -/
def Sys2Proof.Stated.CountsAndFences : Prop :=
  (∀ (s : State) (c : Cls) (n : BitVec 10), Clear s (.waitcnt c n) →
    (s.wave.count (clsIndex c) ≤ n.toNat → exec (.waitcnt c n) s = .next (performed s (.waitcnt c n) id)) ∧
    (n.toNat < s.wave.count (clsIndex c) → ∃ t, exec (.waitcnt c n) s = .next t ∧
      parkedAt s t (.count c n.toNat false) ∧ t.slot.after = s.pc + 1 ∧ memKept s t)) ∧
  (∀ (s : State) (c : Scope), Clear s (.drain c) →
    ((∀ o, o ∈ s.ops → o.wave = s.wave.name → o.drains = false) →
      exec (.drain c) s = .next (performed s (.drain c) (fun u => if Scope.wide c then u.applyNotices else u))) ∧
    ((∃ o, o ∈ s.ops ∧ o.wave = s.wave.name ∧ o.drains = true) → exec (.drain c) s = .next (s.stallOn .order))) ∧
  (∀ (s : State) (o : Ord) (c : Scope), Clear s (.fence o c) →
    exec (.fence o c) s = .next (performed s (.fence o c) (fun u =>
      let u := if (o = .rel ∨ o = .ar) ∧ Scope.wide c then u.applyNotices else u
      let u := if (o = .acq ∨ o = .ar) ∧ (c = .domain ∨ c = .system) then u.applyNotices else u
      let u := if (o = .acq ∨ o = .ar) ∧ Scope.wide c then u.snapshot (dieOf s.wave.core) else u
      if o = .rel ∨ o = .ar then { u with wave := { u.wave with fenced := widest u.wave.fenced c } } else u)))

/-- WAITADDR (R204): the precise faults of its address in order, the word that satisfies the condition, and the park. When it
is evaluated again is the model's reading (log 52). -/
def Sys2Proof.Stated.AwaitAddress : Prop :=
  ∀ (s : State) (k : WCond) (c : Scope) (d : SReg) (a : SPair) (b : SSrc),
    let i : Instr := .waitaddr k c d a b
    let A := (s.pget a).toNat
    let r := s.waitRead ⟨s.pget a, s.wave.window, s.ssrc b, s.nextId s.issueUnit⟩
    let bad := A / 2 ^ 53 % 2 ^ 9 ≠ 0 ∨ A / 2 ^ 62 = 3 ∨ (A / 2 ^ 62 = 1 ∧ s.wave.window = 0)
    let sat (w : Word) : Bool := match k with
      | .eq => w == s.ssrc b | .ne => w != s.ssrc b
      | .lt => decide (w.toInt < (s.ssrc b).toInt) | .le => decide (w.toInt ≤ (s.ssrc b).toInt)
      | .gt => decide ((s.ssrc b).toInt < w.toInt) | .ge => decide ((s.ssrc b).toInt ≤ w.toInt)
      | .reached => decide ((w - s.ssrc b).toNat < 2 ^ 31)
    Clear s i → (∀ q n w, s.slot.stall ≠ .got q n w) →
    (bad → traps s i { code := 0x0304, addr := s.pget a }) ∧
    (¬ bad → A / 2 ^ 62 = 2 → traps s i { code := 0x0305, addr := s.pget a }) ∧
    (¬ bad → A / 2 ^ 62 ≠ 2 → A % 4 ≠ 0 → traps s i { code := 0x0303, addr := s.pget a }) ∧
    (¬ bad → A / 2 ^ 62 = 0 → A % 4 = 0 → ∀ w, r.2 = .word w → sat w = true → ∃ t, exec i s = .next t ∧
      t.pc = s.pc + BitVec.ofNat 32 i.words ∧ t.spad = s.spad ∧ (d < 56 → t.sget d = w)) ∧
    (¬ bad → A / 2 ^ 62 = 0 → A % 4 = 0 → ∀ w, r.2 = .word w → sat w = false → ∃ t, exec i s = .next t ∧
      parkedAt s t (.waitaddr (s.pget a) k c (s.ssrc b) d s.wave.window w) ∧ t.spad = s.spad ∧
      t.slot.after = s.pc + BitVec.ofNat 32 i.words)


/-- BARINIT AND BARARR, THE RELEASE OF WAITS, AND THE ADDRESS TRAPS (R233, R235 to R237). -/
def Obligations.BarrierInitAndArrival : Prop :=
  Sys2Proof.Stated.BarrierInit ∧ Sys2Proof.Stated.BarrierArrival ∧ Sys2Proof.Stated.BarrierReleases ∧
    Sys2Proof.Stated.BarrierAddressFaults

/-- SEMAPHORES, COUNTER WAITS, DRAIN AND FENCE (R205, R206, R242 to R244, R270). That a release takes the pending lease notices at
once, what a FENCE makes of later writes, and that an acquire at `.domain` or `.system` takes the pending notices too, is the model's
reading (log 58, 76, 51). -/
def Obligations.SemaphoresAndFences : Prop := Sys2Proof.Stated.Semaphores ∧ Sys2Proof.Stated.CountsAndFences

end

namespace Sys2Proof.Stated
open Sys2Proof.Machine

/-! ## Engines, the matrix engine and tasks (spec/08, spec/09, spec/10) -/

/-- The class of an engine instruction and the precise fault that its operands raise, if any (R187 to R189, R203, R208). -/
def engineOf (s : State) : Instr → Option (Cls × Option Raise)
  | .bcopy a b _ => some (.bcopy, s.copyRaise a b none)
  | .bcopyp a b p => some (.bcopy, s.copyRaise a b (some p.toNat))
  | .gather z a b => some (.gather, s.gatherRaise (GSize.bytes z) a b)
  | .scatter z _ a b => some (.gather, s.gatherRaise (GSize.bytes z) a b)
  | .gatom _ _ _ _ w64 a _ => some (.gatom, s.engineRaise (s.engineAddrs a) (if w64 then 8 else 4))
  | .gchunk _ a => some (.gatom, if (s.pget a).toNat % 64 = 0 then none else some { code := 0x0303, addr := s.pget a })
  | .coll k a b => some (.coll, s.collRaise k a b)
  | .chimechk _ _ => some (.coll, none)
  | _ => none

/-- The matrix instructions that start an operation: registers that need not wait (R221), the cause and the fault that their
operands raise. -/
def matrixOf (s : State) : Instr → Option (List RegName × Option Nat × Option Raise)
  | .mloadw f a b => some ([], s.claimCause, s.mloadwRaise f (s.ssrc a) (s.ssrc b))
  | .mstream f _ d a _ => some (s.accFree d, s.streamCause f none, s.streamRaise f (s.ssrc a))
  | .mstreamc f _ d a _ => some (s.accFree d, s.streamCause f (some (s.ssrc a)),
      if (s.ssrc a).toNat / 2 ^ 31 = 1 then none else s.streamRaise f (s.ssrc a))
  | .mzeroacc d _ => some (s.accFree d, s.claimCause, none)
  | _ => none

/-- Nothing holds the instruction back but registers of the list, whose pending writes come in order (R221). -/
structure ClearBut (s : State) (i : Instr) (free : List RegName) : Prop where
  feature : s.featureAbsent i = false
  inFrame : opInFrame i.operands s.frame.blocks = true
  ready   : ∀ r ∈ touched i s.frameKey, r ∉ free → r ∉ s.pendingRegs ∧ r ∉ s.windowRegs
  held    : s.heldBack i = false

/-- The tag of a plane (R213). -/
def planeTag (c : Core) (q : Bool) : BitVec 3 := if q then c.tag1 else c.tag0

/-- A format is compatible with a plane's tag (R212): the same, or both FP8. -/
def formatsMeet (f : MFmt) (tag : BitVec 3) : Bool :=
  match f with
  | .e4m3 | .e5m2 => tag == 0 || tag == 1
  | .e2m1 => tag == 2 | .bf16 => tag == 3 | .f16 => tag == 4 | .s8 => tag == 5 | .s4 => tag == 6

/-- K / 32 of a format, and whether it carries block scales (R212). -/
def blocksOf : MFmt → Nat
  | .e4m3 | .e5m2 | .s8 => 8
  | .e2m1 | .s4 => 16
  | .bf16 | .f16 => 4

/-- The formats with block scales (R212). -/
def scaledFmt : MFmt → Bool
  | .e4m3 | .e5m2 | .e2m1 => true
  | _ => false

/-- The span of 256 bytes of row or column k, or its scale span under MODE 10 of the scale register r, is not in bounds (R33, R218,
R222). -/
def spanBad (s : State) (f : MFmt) (r : Nat) (a : Word) (k : Nat) : Bool :=
  let msc := ((s.core s.wave.core).msc.toArray.getD r 0).toNat
  (s.spadResolve none a 256).isNone || (scaledFmt f && msc / 2 ^ 30 == 2 &&
    (s.spadResolve none (BitVec.ofNat 32 (msc % 2 ^ 23 + k * blocksOf f)) (blocksOf f)).isNone)

/-- The lowest active lane (R192). -/
def leader (s : State) (i : Nat) : Prop := i < 64 ∧ s.exec.getLsbD i = true ∧ ∀ j, j < i → s.exec.getLsbD j = false

/-- Bytes of a GATHER or SCATTER element (R201). -/
def gsizeOf : GSize → Nat
  | .b8 => 1 | .b16 => 2 | .b32 => 4 | .b64 => 8 | .b128 => 16

/-- The 64-bit address that a two-register range gives in lane i. -/
def engineAddr (s : State) (a : VReg) (i : Nat) : Dword :=
  BitVec.ofNat 64 ((lane (s.vget a) i).toNat + 2 ^ 32 * (lane (s.vget (vplus a 1)) i).toNat)

/-- A record address leads to the scratchpad (R187). -/
def spadForm (a : Dword) : Prop := a.toNat / 2 ^ 62 = 3

/-- The record that the operation holds when it starts: the one in the scratchpad, as it stands (R187). -/
def recordTaken (s : State) (a : Dword) (recd : Option Nat) : Prop :=
  (¬ spadForm a → recd = none) ∧
  (spadForm a → ∀ x, s.spadResolve none (low a.toNat) 64 = some x → recd = some (leNat (cread 0 s.spad x 64)))

/-- The barrier that an operand names, or none with bit 31 set (R192). -/
def barrierNamed (b : Word) : Option Word := if 2 ^ 31 ≤ b.toNat then none else some b

/-- The 64-bit operand of a GATOM in lane i, from k registers into its range (R202). -/
def operandAt (s : State) (b : VSrc) (w64 : Bool) (k i : Nat) : Dword :=
  match b with
  | .lit x => BitVec.ofNat 64 x.toNat
  | .reg r => BitVec.ofNat 64 ((lane (s.vget (vplus r k)) i).toNat +
      (if w64 then 2 ^ 32 * (lane (s.vget (vplus r (k + 1))) i).toNat else 0))

/-- A copy as it starts (R187, R192): the leader's record and barrier, nothing moved. -/
def copyTaken (s : State) (o : EngineOp) (a : VReg) (b : VSrc) (peal : Option Nat) (nt : Bool) : Prop :=
  ∀ i, leader s i → o.lead = laneBit i ∧ ∃ recd, recordTaken s (engineAddr s a i) recd ∧
    o.kind = .copy ⟨engineAddr s a i, recd, barrierNamed (lane (s.vsrc b) i), peal, false, nt, 0, 0, [], [], [], [], []⟩

/-- A gather or scatter as it starts (R201): the addresses of its lanes, and the bytes of a scatter. -/
def gatherTaken (s : State) (o : EngineOp) (scatter nt : Bool) (n : Nat) (a : VReg) (b : VSrc) : Prop :=
  ∃ g, o.kind = .gather g ∧ g.scatter = scatter ∧ g.nt = nt ∧ g.size = n ∧ g.lanes = s.exec ∧ g.notDone = s.exec ∧ g.sent = 0 ∧
    ∀ i, i < 64 → s.exec.getLsbD i = true → g.ea.getD i 0 = engineAddr s a i ∧ g.sa.getD i 0 = lane (s.vsrc b) i ∧
      (scatter = true → ∀ x, s.spadResolve none (lane (s.vsrc b) i) n = some x → g.data.getD i [] = cread 0 s.spad x n)

/-- A global atomic as it starts (R202). -/
def gatomTaken (s : State) (o : EngineOp) (op : AtomOp) (ord : Ord) (c : Scope) (ret w64 : Bool) (a : VReg) (b : VSrc) : Prop :=
  ∃ g, o.kind = .gatom g ∧ g.op = op ∧ g.ord = ord ∧ g.scope = c ∧ g.ret = ret ∧ g.w64 = w64 ∧ g.lanes = s.exec ∧
    g.notDone = s.exec ∧ g.sent = 0 ∧ g.frame = s.frameKey ∧ (∀ r, b = .reg r → g.reg = r) ∧
    ∀ i, i < 64 → g.ea.getD i 0 = engineAddr s a i ∧ g.b.getD i 0 = operandAt s b w64 0 i ∧
      (op = .cas → g.c.getD i 0 = operandAt s b w64 (if w64 then 2 else 1) i)

/-- A stream as it stands at its place in matrix order (R216, R220, R222, R224): the plane that is active, MSC0, the stride of MSC2
or 256, the shift of MSC3, the mask, and its part in a chain. -/
def streamTaken (s : State) (o : EngineOp) (f : MFmt) (z : Bool) (d : VReg) (a : Word) (kind role : Nat) : Prop :=
  let c := s.core s.wave.core
  let msc (k : Nat) : Nat := (c.msc.toArray.getD k 0).toNat
  ∃ m, o.kind = .mat m ∧ m.kind = kind ∧ m.fmt = f ∧ m.z = z ∧ m.frame = s.frameKey ∧ (∀ n, d = .v n → m.vd = n) ∧
    m.plane = c.active ∧ m.tag = (planeTag c c.active) ∧ m.scale.toNat = msc 0 ∧
    m.stride = (if msc 2 % 2 ^ 21 = 0 then 256 else msc 2 % 2 ^ 21) ∧ m.shift = signed .s 8 (msc 3 % 256) ∧ m.addr = a ∧
    m.mask = s.exec ∧ m.role = role ∧ m.begun = false ∧ m.stream = none

/-- The role of an MSTREAMC: 1 the head, 2 a follower, 3 one that forwards (R224). -/
def roleOf (a : Word) : Nat := if a.toNat / 2 ^ 31 = 0 then 1 else if a.toNat % 2 = 1 then 3 else 2

/-- What the operation of an engine instruction has captured at issue (R187, R188, R192, R201 to R203, R208, R216, R218, R220, R222,
R224, R227, R302). An MSTREAM, a copy or a GATOM without an active lane has captured nothing, and is done. -/
def captured (s : State) (o : EngineOp) : Instr → Prop
  | .bcopy a b nt => copyTaken s o a b none nt
  | .bcopyp a b p => copyTaken s o a b (some p.toNat) false
  | .gather z a b => gatherTaken s o false false (gsizeOf z) a b
  | .scatter z nt a b => gatherTaken s o true nt (gsizeOf z) a b
  | .gatom op ord c ret w64 a b => s.exec ≠ 0 → gatomTaken s o op ord c ret w64 a b
  | .gchunk d a => ∃ sent, o.kind = .gchunk ⟨s.pget a, d, sent, none⟩
  | .coll k a b => ∃ recd, recordTaken s (s.pget a) recd ∧ ∃ c, o.kind = .coll c ∧ c.ck = k ∧ c.recAddr = s.pget a ∧ c.recd = recd ∧
      c.bar = barrierNamed (s.ssrc b) ∧ c.issued = false ∧ c.wrote = none
  | .chimechk d a => ∃ c, o.kind = .chime c ∧ c.addr = s.pget a ∧ c.sd = d ∧ c.recd = none ∧ c.rerun = false ∧ c.ready = false
  | .mloadw f a b =>
      let c := s.core s.wave.core
      ∃ m, o.kind = .mat m ∧ m.kind = 0 ∧ m.fmt = f ∧ m.plane = !c.active ∧ m.scale = c.msc.toArray.getD 1 0 ∧
        m.addr = s.ssrc a ∧ m.stride = (s.ssrc b).toNat ∧ m.begun = false
  | .mstream f z d a _ => s.exec ≠ 0 → streamTaken s o f z d (s.ssrc a) 1 0
  | .mstreamc f z d a _ => streamTaken s o f z d (s.ssrc a) 2 (roleOf (s.ssrc a))
  | .mzeroacc d _ => ∃ m, o.kind = .mat m ∧ m.kind = 3 ∧ m.frame = s.frameKey ∧ (∀ n, d = .v n → m.vd = n) ∧ m.mask = s.exec
  | _ => True

/-- The instruction has started one operation of the class (R21, R60, R185, R375): a new last entry with the next causal
identifier and what it captures, the class counter one higher, the next word, and no register, flag or byte of memory changed. -/
def started (s t : State) (i : Instr) (c : Cls) : Prop :=
  (∃ o : EngineOp, t.ops = s.ops ++ [o] ∧ o.name = s.names ∧ o.wave = s.wave.name ∧ o.group = s.grp.name ∧
    o.core = s.wave.core ∧ o.slot = s.wave.cur ∧ o.pc = s.pc ∧ o.cls = c ∧ o.causal = s.nextId s.issueUnit ∧
    o.sel = s.wave.window ∧ (s.exec ≠ 0 → o.state = .going) ∧ captured s o i) ∧
  (∀ j, j < 5 → t.wave.count j = s.wave.count j + (if j = clsIndex c then 1 else 0)) ∧
  t.pc = s.pc + BitVec.ofNat 32 i.words ∧ t.exec = s.exec ∧ t.wave.sregs = s.wave.sregs ∧ t.wave.aregs = s.wave.aregs ∧
  t.wave.frames = s.wave.frames ∧ t.wave.flags = s.wave.flags ∧ t.wave.resv = s.wave.resv ∧ t.spad = s.spad ∧ t.hbm = s.hbm

/-- A value that MSCALE refuses for scale register n (R217). -/
def scaleRefused (n : Nat) (v : Nat) : Prop :=
  (n < 2 → v / 2 ^ 23 % 2 ^ 7 ≠ 0 ∨ v / 2 ^ 30 = 3 ∨ (v / 2 ^ 30 = 1 ∧ 255 < v % 2 ^ 23) ∨
    (v / 2 ^ 30 = 0 ∧ v % 2 ^ 23 ≠ 0) ∨ (v / 2 ^ 30 = 2 ∧ v % 2 ^ 23 % 16 ≠ 0)) ∧
  (n = 2 → v / 2 ^ 21 ≠ 0 ∨ v % 16 ≠ 0) ∧ (n = 3 → v / 2 ^ 8 ≠ 0)

/-- The queries that only read (R197, R219, R228, R254, R255, R304): destination and value. -/
def queried (s : State) : Instr → Option (SReg × Nat)
  | .mqry .planes d => some (d, let c := s.core s.wave.core
      c.active.toNat * 131072 + (s.shadowBusy s.wave.core).toNat * 65536 + (c.tag (!c.active)).toNat * 16 +
        (c.tag c.active).toNat)
  | .mqry .accepted d => some (d, s.matrixAccepted s.wave.core)
  | .mqry .chain d => some (d, s.matrixQuery .chain)
  | .mqry (.kOf a) d => some (d, match (s.ssrc a).toNat % 8 with
      | 0 => 256 | 1 => 256 | 2 => 512 | 3 => 128 | 4 => 128 | 5 => 256 | 6 => 512 | _ => 0)
  | .cntrd d .job => some (d, min 0xFFFFFFFF ((s.runs.map Prod.snd).filter (fun r => r.ctx == s.grp.ctx)).length)
  | .cntrd d (.phase b) => some (d, min 0xFFFFFFFF
      ((s.runs.map Prod.snd).filter (fun r => r.ctx == s.grp.ctx && r.phase == s.ssrc b)).length)
  | .cntrd d (.launch b) => some (d, min 0xFFFFFFFF
      (((s.launches.map Prod.snd).filter (fun l => l.ctx == s.grp.ctx && l.lid == s.ssrc b)).map Launch.live).sum)
  | .cntrd d (.graph b) => some (d, min 0xFFFFFFFF
      (((s.runs.map Prod.snd).filter (fun r => r.ctx == s.grp.ctx && r.number == s.ssrc b)).map s.graphCount).sum)
  | .pealq d a =>
      let p := (s.ssrc a).toNat
      (s.grp.peals.find? (fun x => x.peal == p)).map (fun x => (d,
        (s.enrols.contains ⟨s.grp.ctx, p, s.wave.core, s.grp.name⟩).toNat * 65536 + (s.ringers s.grp.ctx p).length * 256 +
          x.ringers))
  | .ctxq d 2 => some (d, ((mget s.ctxs s.grp.ctx).map (fun c => c.phase.toNat)).getD 0)
  | .ctxq d 3 => some (d, (s.grp.chime.getD 0xFFFFFFFF#32).toNat)
  | .ctxq d 4 => some (d, s.grp.digest.toNat % 2 ^ 32)
  | .ctxq d 5 => some (d, s.grp.digest.toNat / 2 ^ 32)
  | .ctxq d 6 => some (d, s.spillFree s.grp.ctx)
  | .ctxq d 7 => some (d, ((mget s.ctxs s.grp.ctx).map (fun c => c.catchMask.toNat * 2)).getD 0)
  | .ctxq d 8 => some (d, ((mget s.ctxs s.grp.ctx).map (fun c => c.replayLost.toNat)).getD 0)
  | _ => none

/-- The state in which an ENQ acts: it is counted, has taken its identifier, and its writes are performed (R250). -/
def enqView (s : State) : State := (s.tick.bumpId s.tick.issueUnit).release .rel .device

/-- A wave whose lanes have all ended: no slot is valid or parked, and it issues nothing more (R126, R252). -/
def overNow (w : Wave) : Prop :=
  w.live = 0 ∧ w.slot0.valid = false ∧ w.slot1.valid = false ∧ w.slot0.park = .no ∧ w.slot1.park = .no

/-- A WAITADDR whose first answer is in has issued already; every other instruction is at its issue. -/
def Starts (s : State) (i : Instr) : Prop := ∀ k c d a b, i = .waitaddr k c d a b → ∀ q n w, s.slot.stall ≠ .got q n w

/-- The registers that an instruction need not wait for (R221). -/
def freeOf (s : State) (i : Instr) : List RegName := match matrixOf s i with | some (f, _, _) => f | none => []

/-- The instructions that have causes of class 0x01 of their own, beside those of every instruction (R59, R278). -/
def ownCause : Instr → Bool
  | .sget _ _ | .sset _ _ | .brd _ _ _ | .brdn _ _ _ | .call _ _ | .calli _ _ | .ret | .unwind | .sempost _ _ _
  | .semacq _ _ _ | .semtry _ _ _ | .mloadw _ _ _ | .mstream _ _ _ _ _ | .mstreamc _ _ _ _ _ | .mzeroacc _ _ | .mswap
  | .mscale _ _ _ | .mqry _ _ => true
  | _ => false

/-- The matrix instructions need the group's claim (R214). -/
def needsClaim : Instr → Bool
  | .mloadw _ _ _ | .mstream _ _ _ _ _ | .mstreamc _ _ _ _ _ | .mzeroacc _ _ | .mswap | .mscale _ _ _ | .mqry _ _ => true
  | _ => false

end Sys2Proof.Stated

section
open Sys2Proof Sys2Proof.Machine Sys2Proof.Stated

/-- ENGINE INSTRUCTIONS (R21, R60, R185, R187 to R189): start, precise fault, full counter and full engine. -/
def Sys2Proof.Stated.EngineStarts : Prop :=
  ∀ (s : State) (i : Instr) (c : Cls) (f : Option Raise), engineOf s i = some (c, f) → Clear s i →
    (∀ o, o ∈ s.ops → o.name ≠ s.names) →
    (∀ r, f = some r → traps s i r) ∧
    (f = none → s.wave.count (clsIndex c) = 1023 → ∃ t, exec i s = .next t ∧ parkedAt s t (.count c 1022 true) ∧
      t.slot.after = s.pc ∧ t.ops = s.ops ∧ memKept s t) ∧
    (f = none → s.wave.count (clsIndex c) ≠ 1023 →
      clsRoom c ≤ (s.ops.filter (fun o => o.core == s.wave.core && o.cls == c)).length →
      exec i s = .next (s.stallOn (.engine c))) ∧
    (f = none → s.wave.count (clsIndex c) ≠ 1023 →
      (s.ops.filter (fun o => o.core == s.wave.core && o.cls == c)).length < clsRoom c →
      ∃ t, exec i s = .next t ∧ started s t i c)

/-- PRECISE FAULTS OF COPIES AND COLLECTIVES (R187, R192, R193, R199, R208, R278): the form, the bounds, the layout and the alignment
of a record in the scratchpad; the bounds and the alignment of a barrier; the enrolment of a BCOPYP. That the mask of a record's fault
names the leader lane is the model's reading (log 54). -/
def Sys2Proof.Stated.RecordFaults : Prop :=
  (∀ (s : State) (i : Instr) (a : VReg) (b : VSrc) (nt : Bool) (p : BitVec 6) (k : Nat),
    (i = .bcopy a b nt ∨ i = .bcopyp a b p) → Clear s i → leader s k →
    let A := engineAddr s a k
    let w := low A.toNat
    let B := lane (s.vsrc b) k
    let wide (x : Word) : Dword := BitVec.ofNat 64 x.toNat
    (spadForm A → A.toNat / 2 ^ 32 % 2 ^ 30 ≠ 0 → traps s i { code := 0x0304, addr := A, maskA := laneBit k }) ∧
    (spadForm A → A.toNat / 2 ^ 32 % 2 ^ 30 = 0 → s.spadResolve none w 64 = none →
      traps s i { code := 0x0301, addr := wide w, maskA := laneBit k }) ∧
    (spadForm A → A.toNat / 2 ^ 32 % 2 ^ 30 = 0 → ∀ x, s.spadResolve none w 64 = some x →
      let l := Layout.ofNat (leNat (cread 0 s.spad x 64))
      ((l = none ∨ ∃ y, l = some y ∧ i = .bcopyp a b p ∧ (y.dir ≠ 0 ∨ 2 ^ 62 ≤ y.src.toNat)) →
        traps s i { code := 0x0306, addr := wide w, maskA := laneBit k }) ∧
      (∀ y, l = some y → (i = .bcopyp a b p → y.dir = 0 ∧ y.src.toNat < 2 ^ 62) →
        ((∃ e, e < y.total ∧ ((y.dir = 0 ∧ recSpad s.grp s.wave.core (y.dstAt e) y.esize = none) ∨
            (y.dir = 1 ∧ y.inLimits e = true ∧ recSpad s.grp s.wave.core (y.srcAt e) y.esize = none)) →
          traps s i { code := 0x0301, addr := wide w, maskA := laneBit k }) ∧
        ((∀ e, e < y.total → (y.dir = 0 → recSpad s.grp s.wave.core (y.dstAt e) y.esize ≠ none) ∧
            (y.dir = 1 → y.inLimits e = true → recSpad s.grp s.wave.core (y.srcAt e) y.esize ≠ none)) → A.toNat % 16 ≠ 0 →
          (2 ^ 31 ≤ B.toNat ∨ s.spadResolve none B 16 ≠ none) →
          traps s i { code := 0x0302, addr := wide w, maskB := laneBit k })))) ∧
    (¬ spadForm A → B.toNat < 2 ^ 31 → s.spadResolve none B 16 = none →
      traps s i { code := 0x0301, addr := wide B, maskA := laneBit k }) ∧
    (¬ spadForm A → B.toNat < 2 ^ 31 → s.spadResolve none B 16 ≠ none → B.toNat % 16 ≠ 0 →
      traps s i { code := 0x0302, addr := wide B, maskB := laneBit k }) ∧
    (¬ spadForm A → i = .bcopyp a b p → (2 ^ 31 ≤ B.toNat ∨ (s.spadResolve none B 16 ≠ none ∧ B.toNat % 16 = 0)) →
      (⟨s.grp.ctx, p.toNat, s.wave.core, s.grp.name⟩ : Enrol) ∉ s.enrols → traps s i { code := 0x0401 })) ∧
  (∀ (s : State) (k : CollKind) (a : SPair) (b : SSrc), Clear s (.coll k a b) →
    let A := s.pget a
    let w := low A.toNat
    let B := s.ssrc b
    let wide (x : Word) : Dword := BitVec.ofNat 64 x.toNat
    let i : Instr := .coll k a b
    (spadForm A → A.toNat / 2 ^ 32 % 2 ^ 30 ≠ 0 → traps s i { code := 0x0304, addr := A }) ∧
    (spadForm A → A.toNat / 2 ^ 32 % 2 ^ 30 = 0 → s.spadResolve none w 64 = none →
      traps s i { code := 0x0301, addr := wide w }) ∧
    (spadForm A → A.toNat / 2 ^ 32 % 2 ^ 30 = 0 → ∀ x, s.spadResolve none w 64 = some x →
      let r := CollRec.ofNat (leNat (cread 0 s.spad x 64))
      ((∀ c j, mget s.comms r.comm = some c → s.rankOf c s.grp.ctx = some j → r.ok k c.ranks.length = false) →
        traps s i { code := 0x0306, addr := wide w }) ∧
      ((∃ c j, mget s.comms r.comm = some c ∧ s.rankOf c s.grp.ctx = some j ∧ r.ok k c.ranks.length = true) → A.toNat % 16 ≠ 0 →
        (2 ^ 31 ≤ B.toNat ∨ s.spadResolve none B 16 ≠ none) → traps s i { code := 0x0302, addr := wide w })) ∧
    (¬ spadForm A → B.toNat < 2 ^ 31 → s.spadResolve none B 16 = none → traps s i { code := 0x0301, addr := wide B }) ∧
    (¬ spadForm A → B.toNat < 2 ^ 31 → s.spadResolve none B 16 ≠ none → B.toNat % 16 ≠ 0 →
      traps s i { code := 0x0302, addr := wide B }))

/-- PRECISE FAULTS OF GATHERS, SCATTERS AND ATOMICS (R172, R201 to R203, R278): the engine addresses before the scratchpad's, with the
lanes that fail each check. -/
def Sys2Proof.Stated.LaneEngineFaults : Prop :=
  (∀ (s : State) (i : Instr) (a : VReg) (n k : Nat),
    ((∃ z b, i = .gather z a b ∧ n = gsizeOf z) ∨ (∃ z nt b, i = .scatter z nt a b ∧ n = gsizeOf z) ∨
      ∃ op o c ret w64 b, i = .gatom op o c ret w64 a b ∧ n = if w64 then 8 else 4) → Clear s i → k < 64 →
    let bad := dwordOf (fun j => s.exec.getLsbD j && (engineAddr s a j).toNat % n != 0)
    bad.getLsbD k = true → (∀ j, j < k → bad.getLsbD j = false) →
    traps s i { code := 0x0303, addr := engineAddr s a k, maskA := bad }) ∧
  (∀ (s : State) (i : Instr) (a : VReg) (b : VSrc) (z : GSize) (k : Nat), (i = .gather z a b ∨ ∃ nt, i = .scatter z nt a b) →
    Clear s i → k < 64 → (∀ j, j < 64 → s.exec.getLsbD j = true → (engineAddr s a j).toNat % gsizeOf z = 0) →
    let addr := lane (s.vsrc b)
    let n := gsizeOf z
    (((outside s none addr n).getLsbD k = true ∧ (∀ j, j < k → (outside s none addr n).getLsbD j = false)) →
      traps s i { code := 0x0301, addr := (addr k).zeroExtend 64, maskA := outside s none addr n, maskB := crooked s addr n }) ∧
    ((outside s none addr n = 0 ∧ (crooked s addr n).getLsbD k = true ∧ (∀ j, j < k → (crooked s addr n).getLsbD j = false)) →
      traps s i { code := 0x0302, addr := (addr k).zeroExtend 64, maskB := crooked s addr n })) ∧
  (∀ (s : State) (d a : SPair), Clear s (.gchunk d a) → (s.pget a).toNat % 64 ≠ 0 →
    traps s (.gchunk d a) { code := 0x0303, addr := s.pget a })

/-- ENGINE INSTRUCTIONS (R21, R60, R185, R187 to R189, R192, R199, R201 to R203, R208): what they capture when they start, their precise
faults, the full counter and the full engine. -/
def Obligations.EngineStart : Prop :=
  Sys2Proof.Stated.EngineStarts ∧ Sys2Proof.Stated.RecordFaults ∧ Sys2Proof.Stated.LaneEngineFaults

/-- THE CHECKS OF EVERY INSTRUCTION AT ISSUE, in their order (R8, R15, R17, R52, R59, R269, R278): an absent feature, a
register outside the frame, the wait for a pending result, the trap of an open window, and the wait behind an acquire. That an
instruction inside the window traps also when the result has been written is the model's reading (log 72). -/
def Sys2Proof.Stated.IssueChecks : Prop :=
  (∀ (s : State) (i : Instr) (d : SReg) (a : SSrc) (p : VReg) (b : VSrc) (q : BitVec 6),
    (i = .pealjoin d a ∨ i = .pealleave d a ∨ i = .pealq d a ∨ i = .bcopyp p b q) → s.feature 0 = false →
    traps s i { code := 0x0106 }) ∧
  (∀ (s : State) (i : Instr), Starts s i → s.featureAbsent i = false → opInFrame i.operands s.frame.blocks = false →
    traps s i { code := 0x0107 }) ∧
  (∀ (s : State) (i : Instr) (r : RegName), Starts s i → s.featureAbsent i = false →
    opInFrame i.operands s.frame.blocks = true → r ∈ touched i s.frameKey → r ∈ s.pendingRegs → r ∉ s.windowRegs →
    r ∉ freeOf s i → exec i s = .next (s.stallOn .result)) ∧
  (∀ (s : State) (i : Instr) (r : RegName), Starts s i → s.featureAbsent i = false →
    opInFrame i.operands s.frame.blocks = true → r ∈ touched i s.frameKey → r ∈ s.windowRegs → r ∉ freeOf s i →
    (∀ q, q ∈ touched i s.frameKey → q ∈ s.pendingRegs → q ∈ s.windowRegs ∨ q ∈ freeOf s i) →
    ∃ x, traps s i x ∧ (x.code = 0x0201 ∨ (ownCause i = true ∧ x.code / 256 = 1))) ∧
  (∀ (s : State) (i : Instr) (c : Cls), s.featureAbsent i = false → opInFrame i.operands s.frame.blocks = true →
    (∀ r, r ∈ touched i s.frameKey → r ∉ s.pendingRegs ∧ r ∉ s.windowRegs) → s.heldBack i = true →
    (engineOf s i = some (c, none) ∨ Reachable s i) → exec i s = .next (s.stallOn .order))

/-- MATRIX INSTRUCTIONS (R214, R215, R221): start, causes and faults, full counter and full queue. -/
def Sys2Proof.Stated.MatrixStart : Prop :=
  (∀ (s : State) (i : Instr) (free : List RegName) (c : Option Nat) (f : Option Raise),
    matrixOf s i = some (free, c, f) → ClearBut s i free →
    (∀ code, c = some code → traps s i { code := code }) ∧
    (c = none → ∀ r, f = some r → traps s i r) ∧
    (c = none → f = none → s.wave.count 3 = 1023 → ∃ t, exec i s = .next t ∧ parkedAt s t (.count .matrix 1022 true) ∧
      t.slot.after = s.pc ∧ t.ops = s.ops) ∧
    (c = none → f = none → s.wave.count 3 ≠ 1023 → 8 ≤ s.matrixAccepted s.wave.core →
      exec i s = .next (s.stallOn .matrixQueue)) ∧
    (c = none → f = none → s.wave.count 3 ≠ 1023 → s.matrixAccepted s.wave.core < 8 →
      ∃ t, exec i s = .next t ∧ started s t i .matrix)) ∧
  (∀ (s : State) (i : Instr), needsClaim i = true → Clear s i → s.grp.matrix = false →
    (∀ n d a, i = .mscale n d a → ¬ scaleRefused n.toNat (s.ssrc a).toNat) → traps s i { code := 0x010A })

/-- PRECISE FAULTS OF THE MATRIX INSTRUCTIONS (R33, R218, R222, R224, R230, R278): the lowest failing column of an MLOADW; the format, the
bounds and the alignment of a stream, with the lanes whose rows fail; the chain roles that a core cannot take. A misaligned
stride fails from column 1, and ADDR is the row's or column's own also where its scales fail: the model's reading (log 94). -/
def Sys2Proof.Stated.MatrixFaults : Prop :=
  (∀ (s : State) (f : MFmt) (a b : SSrc), Clear s (.mloadw f a b) → s.grp.matrix = true →
    let i : Instr := .mloadw f a b
    let A := s.ssrc a
    let S := (s.ssrc b).toNat
    let at_ (n : Nat) : Word := A + BitVec.ofNat 32 (n * S)
    let bad (n : Nat) : Prop := spanBad s f 1 (at_ n) n = true
    (∀ n, n < 64 → bad n → (∀ j, j < n → ¬ bad j) →
      traps s i { code := 0x0301, addr := BitVec.ofNat 64 (at_ n).toNat, maskA := laneBit n }) ∧
    ((∀ n, n < 64 → ¬ bad n) → A.toNat % 16 ≠ 0 → traps s i { code := 0x0302, addr := BitVec.ofNat 64 A.toNat, maskB := laneBit 0 }) ∧
    ((∀ n, n < 64 → ¬ bad n) → A.toNat % 16 = 0 → S % 16 ≠ 0 →
      traps s i { code := 0x0302, addr := BitVec.ofNat 64 (at_ 1).toNat, maskB := laneBit 1 })) ∧
  (∀ (s : State) (i : Instr) (f : MFmt) (z : Bool) (d : VReg) (a : SSrc) (l : BitVec 4),
    (i = .mstream f z d a l ∨ i = .mstreamc f z d a l) → Clear s i → s.grp.matrix = true →
    let c := s.core s.wave.core
    let A := s.ssrc a
    let edge := s.wave.core % 4 = 3 ∧ s.wave.core / 4 % 8 = 7
    let chains := i = .mstreamc f z d a l
    let follows := chains ∧ 2 ^ 31 ≤ A.toNat
    let st := (c.msc.toArray.getD 2 0).toNat % 2 ^ 21
    let at_ (k : Nat) : Word := A + BitVec.ofNat 32 (k * (if st = 0 then 256 else st))
    let bad := dwordOf (fun k => s.exec.getLsbD k && spanBad s f 0 (at_ k) k)
    let crook := if A.toNat % 16 = 0 then 0 else s.exec
    let refusedRole := chains ∧ ((2 ^ 31 ≤ A.toNat ∧ A.toNat / 2 % 2 ^ 30 ≠ 0) ∨ (edge ∧ (A.toNat < 2 ^ 31 ∨ A.toNat % 2 = 1)))
    let wrongFmt := s.exec ≠ 0 ∧ formatsMeet f (planeTag c c.active) = false
    (wrongFmt → traps s i { code := 0x010E }) ∧
    (¬ wrongFmt → refusedRole → traps s i { code := 0x010F }) ∧
    (¬ wrongFmt → ¬ refusedRole → ¬ follows → ∀ k, k < 64 →
      (bad.getLsbD k = true → (∀ j, j < k → bad.getLsbD j = false) →
        traps s i { code := 0x0301, addr := BitVec.ofNat 64 (at_ k).toNat, maskA := bad, maskB := crook }) ∧
      (bad = 0 → crook ≠ 0 → leader s k →
        traps s i { code := 0x0302, addr := BitVec.ofNat 64 (at_ k).toNat, maskB := crook })))

/-- MSCALE AND MSWAP (R217, R219): a refused value is a reserved field, with or without the claim (R230). -/
def Sys2Proof.Stated.MatrixControl : Prop :=
  (∀ (s : State) (n : BitVec 2) (d : SReg) (a : SSrc), Clear s (.mscale n d a) →
    (scaleRefused n.toNat (s.ssrc a).toNat → traps s (.mscale n d a) { code := 0x0103 }) ∧
    (s.grp.matrix = true → ¬ scaleRefused n.toNat (s.ssrc a).toNat → ∃ u : State,
      exec (.mscale n d a) s = .next ((u.sset d ((s.core s.wave.core).msc.toArray.getD n.toNat 0)).nextPc (.mscale n d a)) ∧
      u = { s.tick with cores := u.cores } ∧
      ∀ k, k < 4 → (u.core s.wave.core).msc.toArray.getD k 0 =
        if k = n.toNat then s.ssrc a else (s.core s.wave.core).msc.toArray.getD k 0)) ∧
  (∀ (s : State), Clear s .mswap → s.grp.matrix = true →
    (s.shadowBusy s.wave.core = true → exec .mswap s = .next (s.stallOn .matrixQueue)) ∧
    (s.shadowBusy s.wave.core = false → ∃ t, exec .mswap s = .next t ∧ t.pc = s.pc + 1 ∧ regsKept s.wave t.wave ∧
      memKept s t ∧ (t.core s.wave.core).active = !(s.core s.wave.core).active))

/-- QUERIES OF COUNTERS, PLANES, PEALS AND THE CONTEXT (R197, R228, R254, R255, R304); CTXQ 0 and 1 read the control block of
the fault queue. -/
def Sys2Proof.Stated.Queries : Prop :=
  (∀ (s : State) (i : Instr) (d : SReg) (x : Nat), queried s i = some (d, x) → Clear s i →
    (needsClaim i = true → s.grp.matrix = true) →
    exec i s = .next (performed s i (fun u => u.sset d (BitVec.ofNat 32 x)))) ∧
  (∀ (s : State) (d : SReg) (q : Nat) (c : Ctx), q < 2 → Clear s (.ctxq d q) → mget s.ctxs s.grp.ctx = some c →
    ∃ (u : State) (x : Nat), exec (.ctxq d q) s = .next ((u.sset d (BitVec.ofNat 32 x)).nextPc (.ctxq d q)) ∧
      u.spad = s.spad ∧
      ∀ cb, (s.tick.unfocus.fqBlock c).2 = some cb →
        x = if q = 0 then (bits cb 31 0 + 2 ^ 32 - bits cb 63 32) % 2 ^ 32 else bits cb 95 64)

/-- WINSEL, CHIMEMARK, SETPRI AND THE PEAL OPERATIONS (R196, R198, R207, R253, R300): what each exchanges. -/
def Sys2Proof.Stated.WaveAndContextSettings : Prop :=
  (∀ (s : State) (d : SReg) (a : SSrc), Clear s (.winsel d a) →
    exec (.winsel d a) s = .next (performed s (.winsel d a) (fun u =>
      let v := u.sset d (s.wave.window.zeroExtend 32)
      { v with wave := { v.wave with window := (s.ssrc a).extractLsb' 0 16 } }))) ∧
  (∀ (s : State) (d : SReg) (a : SSrc), Clear s (.chimemark d a) →
    exec (.chimemark d a) s = .next (performed s (.chimemark d a) (fun u =>
      let v := (u.bumpId u.issueUnit).sset d (s.grp.chime.getD 0xFFFFFFFF#32)
      { v with grp := { v.grp with chime := some (s.ssrc a), chimeId := u.nextId u.issueUnit } }))) ∧
  (∀ (s : State) (d : SReg) (a b : SSrc) (l : LQueue), Clear s (.setpri d a b) → (s.ssrc a).toNat < 16 →
    s.queueAt s.grp.ctx (s.ssrc a).toNat = some l → ∃ u : State,
      exec (.setpri d a b) s = .next ((u.sset d (BitVec.ofNat 32 l.prio)).nextPc (.setpri d a b)) ∧
      (u.queueAt s.grp.ctx (s.ssrc a).toNat).map LQueue.prio =
        some (min ((s.ssrc b).toNat % 8) (((mget s.ctxs s.grp.ctx).map Ctx.prioCap).getD 0))) ∧
  (∀ (s : State) (d : SReg) (a b : SSrc), Clear s (.setpri d a b) →
    (16 ≤ (s.ssrc a).toNat ∨ s.queueAt s.grp.ctx (s.ssrc a).toNat = none) → traps s (.setpri d a b) { code := 0x0403 }) ∧
  (∀ (s : State) (d : SReg) (a : SSrc) (x : PealDecl), Clear s (.pealjoin d a) →
    s.grp.peals.find? (fun y => y.peal == (s.ssrc a).toNat) = some x → ∃ u : State,
      let mine : Enrol := ⟨s.grp.ctx, (s.ssrc a).toNat, s.wave.core, s.grp.name⟩
      let ok := s.enrols.contains mine || s.canEnrol s.grp x s.wave.core
      exec (.pealjoin d a) s = .next ((u.sset d
        (if ok then BitVec.ofNat 32 (u.ringers s.grp.ctx (s.ssrc a).toNat).length else 0xFFFFFFFF#32)).nextPc (.pealjoin d a)) ∧
      u = { s.tick with enrols := u.enrols } ∧
      u.enrols = if s.enrols.contains mine || !ok then s.enrols else s.enrols ++ [mine]) ∧
  (∀ (s : State) (d : SReg) (a : SSrc) (x : PealDecl), Clear s (.pealleave d a) →
    s.grp.peals.find? (fun y => y.peal == (s.ssrc a).toNat) = some x → ∃ u : State,
      let mine : Enrol := ⟨s.grp.ctx, (s.ssrc a).toNat, s.wave.core, s.grp.name⟩
      exec (.pealleave d a) s = .next ((u.sset d
        (if s.enrols.contains mine then BitVec.ofNat 32 (u.ringers s.grp.ctx (s.ssrc a).toNat).length
         else 0xFFFFFFFF#32)).nextPc (.pealleave d a)) ∧
      u.enrols = s.enrols.filter (· != mine)) ∧
  (∀ (s : State) (i : Instr) (d : SReg) (a : SSrc), i ∈ [Instr.pealjoin d a, .pealleave d a, .pealq d a] → Clear s i →
    s.grp.peals.find? (fun y => y.peal == (s.ssrc a).toNat) = none → traps s i { code := 0x0401 })

/-- TASKS (R250 to R252, R255): ENQ and ENQN give the position of the first record or all ones for a full bin, LAUNCH the run
number, all ones for a full queue or 0xFFFFFFFE for a refused command; TASKEND stops every wave of the group; CANCEL cancels
the unit's work. That the slots of an ended wave are invalid and not parked is the model's choice (log 71), and so is the trap of an
ENQ into slots that cannot be written (log 96). -/
def Obligations.TaskInstructions : Prop :=
  (∀ (s : State) (many : Bool) (d : SReg) (a : SPair) (b : SSrc),
    let i : Instr := if many then .enqn d a b else .enq d a b
    Clear s i →
    ((∃ e, (s.enqTry many (s.pget a) (s.ssrc b)).2 = .error e) → ∃ u : State, exec i s = .next (u.raise i.words { code := 0x0403 })) ∧
    ((∀ e, (s.enqTry many (s.pget a) (s.ssrc b)).2 ≠ .error e) →
      ∀ w r recs bin, (enqView s).enqTry many (s.pget a) (s.ssrc b) = (w, .ok (r, recs)) →
        w.unfocus.binAt r.name ((s.ssrc b).toNat % 2 ^ 16) = some bin → ∃ u : State,
        exec i s = .next ((u.sset d (if bin.free recs.length then BitVec.ofNat 32 bin.next else 0xFFFFFFFF#32)).nextPc i))) ∧
  (∀ (s : State) (d : SReg) (a : SPair) (b : SSrc), Clear s (.launch d a b) →
    (∀ r, s.launchRaise (s.pget a) (s.ssrc b) = some r → r.code = 0x0403 ∧ traps s (.launch d a b) r) ∧
    (s.launchRaise (s.pget a) (s.ssrc b) = none → s.queueFull s.grp.ctx (s.ssrc b).toNat = true → ∃ u : State,
      exec (.launch d a b) s = .next ((u.sset d 0xFFFFFFFF#32).nextPc (.launch d a b)) ∧ u.runs = s.runs) ∧
    (s.launchRaise (s.pget a) (s.ssrc b) = none → s.queueFull s.grp.ctx (s.ssrc b).toNat = false → ∃ (u : State) (x : Word),
      exec (.launch d a b) s = .next ((u.sset d x).nextPc (.launch d a b)) ∧
      (x = 0xFFFFFFFE#32 ∨ (∃ n r, mget u.runs n = some r ∧ r.number = x ∧ r.ctx = s.grp.ctx ∧
        r.queue = (s.ssrc b).toNat ∧ r.placed = false)))) ∧
  (∀ (s : State), Clear s .taskend → Focused s → s.wave.index < 192 → (∀ p, p ∈ s.waves → p.2.name = p.1) →
    ∃ t, exec .taskend s = .next t ∧ overNow t.wave ∧ (s.grp.state = .running → t.grp.state = .ending) ∧
      ∀ n w, n ≠ s.wave.name → mget s.waves n = some w → w.group = s.grp.name → w.index < 192 →
        ∃ v, mget t.waves n = some v ∧ overNow v) ∧
  (∀ (s : State) (w : WorkUnit), Clear s (.cancel w) →
    exec (.cancel w) s = .next ((s.tick.nextPc (.cancel w)).device (fun d => d.cancelWork s.grp.ctx (s.workOf w))))


/-- TRAPS AT ISSUE (R8, R15, R17, R52, R59, R269, R287): TRAP, BRKPT, HALTW, words that do not decode, and the checks of every
instruction. -/
def Obligations.TrapInstructions : Prop := Sys2Proof.Stated.TrapWords ∧ Sys2Proof.Stated.IssueChecks

/-- MATRIX INSTRUCTIONS (R214 to R222, R224, R227, R230). What counts as accepted leaves out an MSTREAM without lanes, the model's
choice (log 93). -/
def Obligations.MatrixInstructions : Prop :=
  Sys2Proof.Stated.MatrixStart ∧ Sys2Proof.Stated.MatrixFaults ∧ Sys2Proof.Stated.MatrixControl

/-- QUERIES, SELECTORS, MARKS, PRIORITIES AND PEALS (R196 to R198, R207, R228, R253 to R255, R300, R304). That CHIMEMARK takes an
identifier is the model's inference (log 81). -/
def Obligations.QueriesAndSettings : Prop := Sys2Proof.Stated.Queries ∧ Sys2Proof.Stated.WaveAndContextSettings

end

namespace Sys2Proof.Stated
open Sys2Proof.Machine

/-! ## Events of a wave and of its frames (95, spec/05, spec/12, spec/13) -/

/-- An event that the model does not let happen now is turned away, and nothing changes (the model's convention, log 2). -/
def turnedAway (i : Instr) (name : String) (s : State) : Prop := exec i s = .refused (.notEnabled name)

/-- A wave and its group among those out of focus. -/
def Present (s : State) (n : Nat) (w : Wave) : Prop :=
  s.wave.name = 0 ∧ n ≠ 0 ∧ mget s.waves n = some w ∧ w.name = n ∧ (mget s.groups w.group).isSome = true

/-- Every wave out of focus stands under its own name. -/
def Named (s : State) : Prop := ∀ p, p ∈ s.waves → p.2.name = p.1

/-- A wave's group, or none. -/
def groupOf (s : State) (w : Wave) : Group := (mget s.groups w.group).getD .off

end Sys2Proof.Stated

section
open Sys2Proof Sys2Proof.Machine Sys2Proof.Stated

/-- ROTATION, SLEEP AND WAKE (R129, R131): FAIRNESS_ROTATION changes CUR and restarts the timer, SLEEPC_WAKE lets the
fragment issue again at the word after its SLEEPC; each only when its condition holds. -/
def Sys2Proof.Stated.FragmentTimers : Prop :=
  (∀ (s : State) (n : Nat) (w : Wave), Present s n w → (s.focus n).timerRuns = true →
    ((s.focus n).ctxNat Ctx.fairness ≤ w.ftimer → ∃ t, exec (.fairnessRotation n) s = .next t ∧
      t = { s.focus n with wave := t.wave } ∧ t.wave = { w with cur := 1 - w.cur, ftimer := 0 }) ∧
    (w.ftimer < (s.focus n).ctxNat Ctx.fairness → turnedAway (.fairnessRotation n) "FAIRNESS_ROTATION" s)) ∧
  (∀ (s : State) (n k till : Nat) (w : Wave), Present s n w → k < 2 → (w.slotAt k).valid = true →
    (w.slotAt k).park = .sleep till →
    (till ≤ s.cycles.toNat → ∃ t, exec (.sleepcWake n k) s = .next t ∧ t = { s.focus n with wave := t.wave } ∧
      (t.wave.slotAt k) = { w.slotAt k with park := .no } ∧ t.wave.sregs = w.sregs ∧ t.wave.frames = w.frames) ∧
    (s.cycles.toNat < till → turnedAway (.sleepcWake n k) "SLEEPC_WAKE" s))

/-- DELIVERED_TRAP (R276, R281, R290): the oldest pending trap of a wave is taken by its fragment; one that nothing
catches stands among the traps of its group afterwards. -/
def Sys2Proof.Stated.DeliveredTraps : Prop :=
  ∀ (s : State) (n : Nat) (w : Wave) (x : DelTrap) (xs : List DelTrap), Present s n w → w.traps = x :: xs →
    (w.slotAt x.slot).valid = true → x.slot < 2 →
    ((s.focus n).trapReady = true → ∃ t, exec (.deliveredTrap n) s = .next t ∧ t.wave.traps = xs ∧ t.spad = s.spad ∧
      (({ s.focus n with wave := { w with cur := x.slot } }).caught x.code = false → (∃ y, t.grp.trapped = (groupOf s w).trapped ++ [(w.index, y)] ∧ y.code = x.code ∧
        y.slot = x.slot ∧ y.pc = x.pc ∧ y.causal = x.causal) ∧ (∀ k, k < 64 → t.wave.resvAt k = none))) ∧
    ((s.focus n).trapReady = false → turnedAway (.deliveredTrap n) "DELIVERED_TRAP" s)

/-- CODE_FETCH_FAULT (R335): an absent page stalls the fragment at its word with the page named; a refused or poisoned page
is a trap of code 0x0705 or 0x0706. -/
def Sys2Proof.Stated.CodeFetchFaults : Prop :=
  (∀ (s : State), Focused s → s.slot.valid = true → ∃ t, exec (.codeFetchFault .notPresent) s = .next t ∧
    t.slot.stall = .page (BitVec.ofNat 64 (s.fetchAddr / 8192 * 8192)) ∧ t.pc = s.pc ∧ t.exec = s.exec ∧ regsKept s.wave t.wave ∧
    t.wave.frames = s.wave.frames ∧ t.spad = s.spad) ∧
  (∀ (s : State) (f : FetchFault) (code : Nat), (f = .permission ∧ code = 0x0705) ∨ (f = .poisoned ∧ code = 0x0706) →
    s.caught code = false → s.slot.park = .no → (s.grp.state = .running ∨ s.grp.state = .ending) →
    ∃ t, exec (.codeFetchFault f) s = .next t ∧ t.pc = s.pc ∧ t.exec = s.exec ∧ regsKept s.wave t.wave ∧ memKept s t ∧
      (∃ room, t.grp.state = .draining 1 code room) ∧
      ∃ d : DelTrap, t.grp.trapped = s.grp.trapped ++ [(s.wave.index, d)] ∧ d.code = code ∧ d.precise = false ∧ d.pc = s.pc ∧
        d.addr = BitVec.ofNat 64 s.fetchAddr)

/-- WAITADDR_EVALUATION (R204): a word of global memory that satisfies the condition ends the wait and goes to SD; one that
does not leaves the fragment parked. -/
def Sys2Proof.Stated.AwaitEvaluation : Prop :=
  ∀ (s : State) (n k : Nat) (w : Wave) (a : Dword) (c : WCond) (sc : Scope) (b : Word) (d : SReg) (sel : BitVec 16) (l : Word),
    Present s n w → k < 2 → w.cur = k → (w.slotAt k).park = .waitaddr a c sc b d sel l → a.toNat < 2 ^ 53 →
    ((s.focus n).waitReady = true → ∀ x, (((s.focus n).unmark.waitRead ⟨a, sel, b, (s.focus n).slot.waitId⟩).2 = .word x →
      (waitHolds c x b = true → ∃ t, exec (.waitaddrEvaluation n k) s = .next t ∧ (t.wave.slotAt k).park = .no ∧
        (t.wave.slotAt k).pc = (w.slotAt k).after ∧ (d < 56 → t.sget d = x) ∧ t.spad = s.spad) ∧
      (waitHolds c x b = false → ∃ t, exec (.waitaddrEvaluation n k) s = .next t ∧
        (t.wave.slotAt k).park = .waitaddr a c sc b d sel x ∧ (t.wave.slotAt k).pc = (w.slotAt k).pc ∧ t.spad = s.spad))) ∧
    ((s.focus n).waitReady = false → turnedAway (.waitaddrEvaluation n k) "WAITADDR_EVALUATION" s)

/-- THE FRAME QUEUE AND THE SPILL ENGINE (R322 to R325): a granted CALL enters its frame; an escape spill begins the copy or
the trap that the engine chooses; copied frames are spilled; a restored fragment goes on. Which blocks of the spill area a
spill takes is free (log 56). -/
def Obligations.FrameEvents : Prop :=
  (∀ (s : State) (core dem : Nat) (x : FrameWait) (tgt ret : Word) (w : Wave), s.grantHead core = some x →
    Present s x.wave w → x.slot < 2 → x.req = .call dem tgt ret → w.wanted x.slot = [] → (w.slotAt x.slot).valid = true →
    ∃ t v, exec (.frameGrant core) s = .next t ∧ mget t.waves x.wave = some v ∧
      (v.slotAt x.slot).depth = (w.slotAt x.slot).depth + 1 ∧ (v.slotAt x.slot).pc = tgt ∧ (v.slotAt x.slot).park = .no ∧
      (v.frame (w.frameKey x.slot ((w.slotAt x.slot).depth + 1))).ret = ret ∧
      (v.frame (w.frameKey x.slot ((w.slotAt x.slot).depth + 1))).blocks = dem ∧ v.sregs = w.sregs) ∧
  (∀ (s : State) (core : Nat), s.wave.name = 0 → s.grantHead core = none → turnedAway (.frameGrant core) "FRAME_GRANT" s) ∧
  (∀ (s : State) (core : Nat), s.wave.name = 0 → s.spillReady core = true →
    ∃ t, exec (.escapeSpill core) s = .next t ∧ t.spad = s.spad ∧
      (∀ j e, s.spillMove core = .copy j e → (t.core core).spill = some j)) ∧
  (∀ (s : State) (core : Nat), s.wave.name = 0 → s.spillReady core = false → turnedAway (.escapeSpill core) "ESCAPE_SPILL" s) ∧
  (∀ (s : State) (core : Nat) (j : SpillJob) (w : Wave), (s.core core).spill = some j → j.back = false → Present s j.wave w →
    Named s → ∃ t v, exec (.spillCopyDone core) s = .next t ∧ mget t.waves j.wave = some v ∧ v.frames.length ≤ w.frames.length ∧
      ∀ k f, k ∈ j.frames → mget v.frames k = some f → f.spilled = true) ∧
  (∀ (s : State) (core : Nat) (j : SpillJob) (w : Wave), (s.core core).spill = some j → j.back = true → Present s j.wave w →
    (w.slotAt j.slot).park = .frame .restore →
    ∃ t v, exec (.frameRestoreDone core) s = .next t ∧ mget t.waves j.wave = some v ∧ (v.slotAt j.slot).park = .no ∧
      (t.core core).spill = none ∧ v.frames = w.frames) ∧
  (∀ (s : State) (core : Nat), s.wave.name = 0 → (∀ j, (s.core core).spill = some j → j.back = true) →
    turnedAway (.spillCopyDone core) "SPILL_COPY_DONE" s) ∧
  (∀ (s : State) (core : Nat), s.wave.name = 0 → (∀ j, (s.core core).spill = some j → j.back = false) →
    turnedAway (.frameRestoreDone core) "FRAME_RESTORE_DONE" s)


/-- DELIVERED TRAPS AND CODE FETCH FAULTS (R276, R281, R290, R335). -/
def Obligations.TrapEvents : Prop := Sys2Proof.Stated.DeliveredTraps ∧ Sys2Proof.Stated.CodeFetchFaults

/-- WAITADDR, ITS EVALUATION, ROTATION AND WAKE (R129, R131, R204). When a WAITADDR is evaluated again is the model's reading (log
52), and so is that the fairness timer stops while the group does not run (log 90). -/
def Obligations.WaitAddressAndTimers : Prop :=
  Sys2Proof.Stated.AwaitAddress ∧ Sys2Proof.Stated.AwaitEvaluation ∧ Sys2Proof.Stated.FragmentTimers

end

namespace Sys2Proof.Stated
open Sys2Proof.Machine

/-! ## Events of engines and of the matrix engine (95, spec/08, spec/09) -/

/-- The events of operations: whether the state lets them happen, and their names. A wave is never in focus between steps. -/
def engineEvent (s : State) : Instr → Option (Bool × String)
  | .copyElement op e => some (s.copyReady op e, "COPY_ELEMENT")
  | .bcopyComplete op => some (s.copyEnds op, "BCOPY_COMPLETE")
  | .gatherComplete op => some (s.gatherReady op, "GATHER_COMPLETE")
  | .gatomComplete op => some (s.gatomReady op, "GATOM_COMPLETE")
  | .gchunkServe op => some (s.chunkReady op, "GCHUNK_SERVE")
  | .pealRequest op line => some (s.pealReady op line, "PEAL_REQUEST")
  | .pealHoldTimeout n => some (match s.holdAt n with | some h => h.full || decide (h.till ≤ s.time) | none => false, "PEAL_HOLD_TIMEOUT")
  | .multicastResidual n => some (s.resid.any (fun r => r.name == n), "MULTICAST_RESIDUAL")
  | .mloadwReadsBegin op => some (s.loadBegins op, "MLOADW_READS_BEGIN")
  | .mstreamStart op => some (s.streamStarts op, "MSTREAM_START")
  | .mstreamFinish op => some (s.streamEnds op, "MSTREAM_FINISH")
  | .mzeroaccComplete op => some (s.zeroReady op, "MZEROACC_COMPLETE")
  | .collComplete op => some (s.collReady op, "COLL_COMPLETE")
  | .chimechkPhaseReady op => some (s.chimeReady op, "CHIMECHK_PHASE_READY")
  | .chimechkReexecutionDone op => some (s.replayReady op, "CHIMECHK_REEXECUTION_DONE")
  | _ => none

/-- The bytes of an element that are at hand: its fill outside the limits, else those read for it (R193, R194). -/
def atHand (c : CopyOp) (l : Layout) (e : Nat) : Option (List Byte) :=
  if l.inLimits e then mget c.got e else some l.fillBytes

/-- A line is in its home slice, whole, and permits an access (R337). -/
def AtHome (s : State) (ctx line : Nat) (k : Acc) : Prop :=
  ∃ y, s.l2Find ctx line = some y ∧ y.leaf.allows k = true ∧ y.poison = false ∧ y.upset = false

/-- The bytes of a line in its home slice. -/
def lineData (s : State) (ctx line : Nat) : List Byte := ((s.l2Find ctx line).map L2Line.data).getD []

/-- Every line in the home slices has the bytes of `m`, and nothing else of memory and scratchpads has changed. -/
def linesNow (s t : State) (m : Nat → Nat → List Byte) : Prop :=
  (∀ ctx line, lineData t ctx line = m ctx line) ∧ t.hbm = s.hbm

/-- The lines of a context changed, all others as they were. -/
def inCtx (s : State) (ctx : Nat) (m : Nat → List Byte) (c line : Nat) : List Byte :=
  if c = ctx then m line else lineData s c line

/-- The group of an operation goes on, and its wave's operations belong to one group. -/
def Going (s : State) (o : EngineOp) : Prop :=
  s.groupGone o.group = false ∧ ∀ x, x ∈ s.ops → x.wave = o.wave → x.group = o.group

/-- An operation at work whose end completes nothing else: no other operation of its class in its wave has ended. -/
def AtWork (s : State) (o : EngineOp) : Prop :=
  s.wave.name = 0 ∧ s.opAt o.name = some o ∧ o.wave ≠ 0 ∧ Going s o ∧ s.watches = [] ∧
    ∀ x, x ∈ s.ops → x.wave = o.wave → x.cls = o.cls → x.name ≠ o.name → x.ended = false

/-- The operation is the oldest of its class, and nothing that it sent is unanswered: it completes when it ends (R21). -/
def Oldest (s : State) (o : EngineOp) : Prop :=
  s.ops.find? (fun x => x.wave == o.wave && x.cls == o.cls) = some o ∧ s.answered o.name = true

/-- Lane i's address lies in global memory, in one line that permits the access. -/
def laneHome (s : State) (o : EngineOp) (a : Dword) (n : Nat) (k : Acc) : Prop :=
  placeOf o.sel a = .mem a.toNat ∧ a.toNat % 128 + n ≤ 128 ∧ AtHome s (s.opCtx o) (a.toNat / 128) k

/-- The lines after the lanes of a scatter below n have written, in rising order (R201). -/
def scattered (g : GatherOp) (m : Nat → List Byte) : Nat → Nat → List Byte
  | 0, line => m line
  | n + 1, line =>
      let a := (g.ea.getD n 0).toNat
      let d := scattered g m n line
      if g.notDone.getLsbD n && a / 128 == line then splice d (a % 128) (g.data.getD n []) else d

/-- The scratchpads after the lanes of a gather below n have written, in rising order (R201). -/
def gathered (m : Nat → List Byte) (core : Nat) (g : GatherOp) (sp : Cells) : Nat → Cells
  | 0 => sp
  | n + 1 =>
      let a := (g.ea.getD n 0).toNat
      let p := gathered m core g sp n
      if g.notDone.getLsbD n then
        cwrite 0 p (rawSpad core (g.sa.getD n 0)) (((m (a / 128)).drop (a % 128)).take g.size)
      else p

/-- The 64-bit value that an atomic leaves (R183, R202). -/
def atomDword (op : AtomOp) (old b c : Dword) : Dword :=
  let wide (v : Int) : Dword := BitVec.ofInt 64 v
  match op with
  | .add => wide (old.toInt + b.toInt)
  | .fadd => old
  | .smin => wide (min old.toInt b.toInt)
  | .nmin => wide (min old.toNat b.toNat)
  | .smax => wide (max old.toInt b.toInt)
  | .nmax => wide (max old.toNat b.toNat)
  | .and => old &&& b
  | .or => old ||| b
  | .xor => old ^^^ b
  | .exch => b
  | .cas => if old = b then c else old

/-- The bytes that lane i's atomic leaves for the bytes it finds (R202). -/
def atomBytes (g : GatomOp) (i : Nat) (old : List Byte) : List Byte :=
  if g.w64 then leBytes 8 (atomDword g.op (leDword old) (g.b.getD i 0) (g.c.getD i 0)).toNat
  else leBytes 4 (atomWord g.op (leWord old) (loWord (g.b.getD i 0)) (loWord (g.c.getD i 0))).toNat

/-- The lines after the lanes of an atomic below n, in rising order, each on what the lanes before it left (R202). -/
def atomics (g : GatomOp) (m : Nat → List Byte) : Nat → Nat → List Byte
  | 0, line => m line
  | n + 1, line =>
      let a := (g.ea.getD n 0).toNat
      let d := atomics g m n line
      if g.notDone.getLsbD n && a / 128 == line then
        splice d (a % 128) (atomBytes g n ((d.drop (a % 128)).take (if g.w64 then 8 else 4)))
      else d

/-- The old value that lane i of an atomic finds. -/
def oldValue (g : GatomOp) (m : Nat → List Byte) (i : Nat) : Dword :=
  let a := (g.ea.getD i 0).toNat
  leDword (((atomics g m i (a / 128)).drop (a % 128)).take (if g.w64 then 8 else 4))

/-- A frame holds a range of k registers from r; the argument registers are seven (R17, R18). -/
def rangeIn (f : Frame) (r : VReg) (k : Nat) : Prop :=
  match r with
  | .v n => n + k ≤ f.regs.length
  | .a n => n + k ≤ 7

/-- The chunk of R203 in whole numbers: start, size, and the record's new NEXT. -/
def chunk (next last least divisor : Nat) : Nat × Nat × Nat :=
  if last ≤ next then (last, 0, next)
  else
    let rem := last - next
    let div := max 1 divisor
    let size := min rem (max (max 1 least) (if rem % div = 0 then rem / div else rem / div + 1))
    (next, size, next + size)

/-- The code of element k among the bytes of a row or column (R80). -/
def codeAt (f : MFmt) (b : List Byte) (k : Nat) : Nat :=
  let byte (j : Nat) : Nat := (b.getD j 0).toNat
  match f with
  | .e4m3 | .e5m2 | .s8 => byte k
  | .e2m1 | .s4 => byte (k / 2) / 16 ^ (k % 2) % 16
  | .bf16 | .f16 => byte (2 * k) + 256 * byte (2 * k + 1)

/-- Element k of a row or column with its block scale (R77). -/
def factor (f : MFmt) (b scales : List Byte) (k : Nat) : Machine.Num :=
  scaleNum (scales.getD (k / 32) 0x7F#8) (elemNum f (codeAt f b k))

/-- The exact sum of the products of a group of n from `lo` (R92). -/
def groupValue (a b : Nat → Machine.Num) (lo n : Nat) : Machine.Num :=
  let ps := (List.range n).map (fun k => ((a (lo + k)).mul (b (lo + k))).1)
  if ps.any (· == .nan) then .nan else ps.foldl (fun x p => (x.add p).1) (.fin false 0 0)

/-- An FP32 accumulator after n groups of `size` products, each sum times 2^shift, one rounding to a group (R92). -/
def dotFloat (a b : Nat → Machine.Num) (size : Nat) (shift : Int) (acc : Word) : Nat → Word
  | 0 => acc
  | n + 1 =>
      let prev := dotFloat a b size shift acc n
      match groupValue a b (n * size) size with
      | .fin _ 0 _ => prev
      | .fin neg m e => (FF.fp32.deliver ((FF.fp32.get prev).add (.fin neg m (e + shift)))).word.1
      | x => (FF.fp32.deliver ((FF.fp32.get prev).add x)).word.1

/-- An integer accumulator after n groups of 32 products, saturated after each (R93). -/
def dotInt (a b : Nat → Int) (acc : Word) : Nat → Word
  | 0 => acc
  | n + 1 =>
      let sum := ((List.range 32).map (fun k => a (32 * n + k) * b (32 * n + k))).sum
      low (clampTo (-2147483648) 2147483647 ((dotInt a b acc n).toInt + sum))

/-- The groups along K (R92, R212). -/
def groupsOf : MFmt → Nat
  | .e4m3 | .e5m2 | .s8 | .bf16 | .f16 => 8
  | .e2m1 | .s4 => 16

/-- The element (i, n) of a stream's product (R222): A is row i, B column n of the plane, in its own format. -/
def productAt (s : State) (o : EngineOp) (m : MatOp) (st : Stream) (i n : Nat) (acc : Word) : Word :=
  let fb := (fmtOfCode m.tag).getD st.fmt
  let col := (s.core o.core).column m.plane n
  let row := st.rows.getD i []
  match st.fmt with
  | .s8 => dotInt (fun k => signed .s 8 (codeAt .s8 row k)) (fun k => signed .s 8 (codeAt fb col.1 k)) acc 8
  | .s4 => dotInt (fun k => signed .s 4 (codeAt .s4 row k)) (fun k => signed .s 4 (codeAt fb col.1 k)) acc 16
  | f => dotFloat (factor f row (st.scales.getD i [])) (factor fb col.1 col.2)
      (match f with | .bf16 | .f16 => 16 | _ => 32) m.shift acc (groupsOf f)

/-- A stream as the engine holds it: 256 bytes to a row, its format that of the instruction and compatible with the plane
(R212), and without scales where the format has none. -/
def streamOk (s : State) (o : EngineOp) (m : MatOp) (st : Stream) : Prop :=
  st.fmt = m.fmt ∧ compatible st.fmt m.tag = true ∧
  (∀ i, i < 64 → (m.mask &&& st.mask).getLsbD i = true → (st.rows.getD i []).length = 256) ∧
  (fmtInt st.fmt = true → ∀ i n j, (st.scales.getD i []).getD j 0x7F#8 = 0x7F#8 ∧
    ((s.core o.core).column m.plane n).2.getD j 0x7F#8 = 0x7F#8)

/-- The lowest rank of a collective that has not issued (R210). -/
def firstMissing (s : State) (c : Coll) (k : Nat) : Prop :=
  k < s.commSize c.comm ∧ (∀ x, x ∈ c.issues → x.rank ≠ k) ∧ ∀ j, j < k → ∃ x, x ∈ c.issues ∧ x.rank = j

/-- An operation has completed: it has left, its class counter has fallen, and its flags have joined those of its wave (R21,
R98); nothing in global memory has changed. -/
def leaves (s t : State) (o : EngineOp) (w : Wave) (f : BitVec 6) : Prop :=
  t.ops = s.ops.filter (fun x => x.name != o.name) ∧ t.hbm = s.hbm ∧ ∃ v, mget t.waves o.wave = some v ∧
    v.count (clsIndex o.cls) = w.count (clsIndex o.cls) - 1 ∧ v.flags = w.flags ||| f

/-- An object after a barrier operation left it as `n`: the generation completes if nothing is missing (R233). -/
def settledObj (n : BarObj) : BarObj :=
  if n.pending = 0 ∧ n.inBytes = 0 ∧ n.outBytes = 0 then { n with gen := (n.gen + 1) % 16, pending := n.expected } else n

/-- An object that an engine's arrival finds accepted, after it (R200, R209, R240). -/
def rung (o : BarObj) : BarObj := settledObj { o with pending := o.pending - 1 }

/-- An object after an element of n bytes has been counted: inbound into a scratchpad, else outbound (R195). -/
def counted (o : BarObj) (dir n : Nat) : BarObj :=
  settledObj (if dir = 0 then { o with inBytes := o.inBytes - n } else { o with outBytes := o.outBytes - n })

/-- A copy holds a line with these bytes, and waits for it no more. -/
def filled (t : State) (op line : Nat) (data : List Byte) : Prop :=
  ∃ o c, t.opAt op = some o ∧ o.kind = .copy c ∧ mget c.fills line = some data ∧ line ∉ c.asked

/-- A line is on its way to a copy, behind a port that another packet holds (R356). -/
def underWay (t : State) (op line : Nat) (data : List Byte) : Prop :=
  ∃ r, r ∈ t.resid ∧ r.line = line ∧ r.data = data ∧ op ∈ r.ops

/-- The operations of a list are copies. -/
def areCopies (s : State) (ops : List Nat) : Prop := ∀ n, n ∈ ops → ∃ o c, s.opAt n = some o ∧ o.kind = .copy c

/-- The expected cores of a hold that have not asked (R199). -/
def absent (h : Hold) : List Nat := h.expect.filter (fun c => h.asked.all (fun a => a.core != c))

/-- The cores enrolled in a peal, in the order in which they were enrolled (R196). -/
def enrolledCores (s : State) (ctx p : Nat) : List Nat :=
  (s.enrols.filter (fun e => e.ctx == ctx && e.peal == p)).map Enrol.core

/-- An element of a TYPE of a collective in bytes (R208). -/
def rankSize (ty : Nat) : Nat := if ty = 0 ∨ ty = 1 ∨ ty = 6 then 4 else 2

/-- One node of the tree of R209: TYPE 0 is signed, 1 unsigned, 6 FP32, 7 FP16 and 8 BF16; OP 0 adds, 1 is min, 2 max, 3 and, 4
or, 5 xor. -/
def rankOp (ty op : Nat) (a b : Word) : Word × BitVec 6 :=
  let f : FF := if ty = 7 then .fp16 else if ty = 8 then .bf16 else .fp32
  if op = 0 then (if 6 ≤ ty then (f.add a b).word else (a + b, 0))
  else if op = 1 then (if 6 ≤ ty then f.select false a b
    else if ty = 0 then low (min a.toInt b.toInt) else low (min a.toNat b.toNat), 0)
  else if op = 2 then (if 6 ≤ ty then f.select true a b
    else if ty = 0 then low (max a.toInt b.toInt) else low (max a.toNat b.toNat), 0)
  else if op = 3 then (a &&& b, 0) else if op = 4 then (a ||| b, 0) else (a ^^^ b, 0)

/-- The identities of R209. -/
def rankIdent (ty op : Nat) : Word :=
  if op = 0 then (if ty = 6 then 0x80000000#32 else if 7 ≤ ty then 0x8000#32 else 0)
  else if op = 1 then (if ty = 0 then 0x7FFFFFFF#32 else if ty = 1 then 0xFFFFFFFF#32 else if ty = 6 then 0x7F800000#32
    else if ty = 7 then 0x7C00#32 else 0x7F80#32)
  else if op = 2 then (if ty = 0 then 0x80000000#32 else if ty = 1 then 0 else if ty = 6 then 0xFF800000#32
    else if ty = 7 then 0xFC00#32 else 0xFF80#32)
  else if op = 3 then 0xFFFFFFFF#32 else 0

/-- Element e of the reduction over p ranks, whose data D gives, padded to 2^d (R209). -/
def reduced (ty op p d : Nat) (D : Nat → List Byte) (e : Nat) : Word × BitVec 6 :=
  tree (rankOp ty op) (fun k => if k < p then leWord (((D k).drop (e * rankSize ty)).take (rankSize ty)) else rankIdent ty op) d 0

/-- What rank k's DST receives (R209): `n` elements to a block of p. -/
def rankResult (kind : CollKind) (r : CollRec) (p k d : Nat) (D : Nat → List Byte) : List Byte :=
  let bytes (e : Nat) : List Byte := leBytes (rankSize r.ty) (reduced r.ty r.op p d D e).1.toNat
  let n := r.count / p
  match kind with
  | .allreduce => (List.range r.count).flatMap bytes
  | .redscatter => (List.range n).flatMap (fun e => bytes (k * n + e))
  | .allgather => (List.range p).flatMap D
  | .bcast => D r.root
  | .alltoall => (List.range p).flatMap (fun j => ((D j).drop (k * n * rankSize r.ty)).take (n * rankSize r.ty))

/-- The flags that a rank raises: those of every element's tree, where the kind reduces. -/
def rankFlags (kind : CollKind) (r : CollRec) (p d : Nat) (D : Nat → List Byte) : BitVec 6 :=
  match kind with
  | .allreduce | .redscatter => (List.range r.count).foldl (fun f e => f ||| (reduced r.ty r.op p d D e).2) 0
  | _ => 0

/-- n bytes from an address of space 00 lie in one line of the home slice, on the operation's own die. -/
def bytesHome (s : State) (o : EngineOp) (a : Dword) (n : Nat) (k : Acc) : Prop :=
  a.toNat < 2 ^ 53 ∧ a.toNat % 128 + n ≤ 128 ∧ AtHome s (s.opCtx o) (a.toNat / 128) k ∧
    s.homeDie (s.opCtx o) (a.toNat / 128) = dieOf o.core

/-- These bytes. -/
def bytesAt (s : State) (ctx : Nat) (a : Dword) (n : Nat) : List Byte := ((lineData s ctx (a.toNat / 128)).drop (a.toNat % 128)).take n

/-- The phase digest of R301 over n entries of a log. -/
def digestOf (n : Nat) (b : List Byte) : Dword :=
  (List.range n).foldl (fun p i =>
    let digest := leDword ((b.drop (16 * i)).take 8)
    let groups := leNat ((b.drop (16 * i + 8)).take 4)
    if groups = 0 then p else chime64 (p ^^^ digest ^^^ BitVec.ofNat 64 (groups * 2 ^ 32 ||| i))) 0

/-- A chime record that R302 accepts: reserved bits 0, a MODE below 4, 1 to 2^24 entries. -/
def chimeAccepted (x : Nat) : Prop := x / 2 ^ 117 % 2 ^ 11 = 0 ∧ x / 2 ^ 112 % 16 < 4 ∧ 1 ≤ x / 2 ^ 64 % 2 ^ 32 ∧ x / 2 ^ 64 % 2 ^ 32 ≤ 2 ^ 24

/-- A chime record's line after a check has ended: the fields, then REPLAY_LOST beside MODE, and STATUS (R302). -/
def recordLine (line : List Byte) (off x : Nat) (lost : Bool) (status : Nat) (fields : List (Nat × List Byte)) : List Byte :=
  (fields ++ [(14, leBytes 1 (x / 2 ^ 112 % 16 + 16 * lost.toNat)), (60, leBytes 4 status)]).foldl
    (fun (d : List Byte) (f : Nat × List Byte) => splice d (off + f.1) f.2) line

/-- A chime check of the context's phase is over, with a status and these fields written: the wave's SD has the status, and the
next phase is open (R302, step 3). -/
def phaseDone (s t : State) (o : EngineOp) (c : ChimeOp) (x status : Nat) (cx : Ctx) (fields : List (Nat × List Byte)) : Prop :=
  let off := c.addr.toNat % 128
  linesNow s t (inCtx s (s.opCtx o) (fun n => if n = c.addr.toNat / 128 then
    recordLine (lineData s (s.opCtx o) n) off x cx.replayLost status fields else lineData s (s.opCtx o) n)) ∧
  (∃ y, mget t.ctxs (s.opCtx o) = some y ∧ y.phase = cx.phase + 1 ∧ y.logBase = (ChimeRec.ofNat x).nextBase ∧
    y.logLen = (ChimeRec.ofNat x).nextLen ∧ y.cmdMax = (ChimeRec.ofNat x).nextMax ∧ y.replayLost = false ∧ y.stopped = false) ∧
  t.spad = s.spad ∧
  (Oldest s o → ∃ v, mget t.waves o.wave = some v ∧ (c.sd < 56 → v.sregs.toArray.getD c.sd 0 = BitVec.ofNat 32 status))

/-- A chime check at work whose record has been read: its record and its log stand in lines of their own, and the next phase has
no run whose launch would form (R311). -/
def Checking (s : State) (o : EngineOp) (c : ChimeOp) (x : Nat) (cx : Ctx) : Prop :=
  AtWork s o ∧ o.kind = .chime c ∧ o.state = .going ∧ c.recd = some x ∧ c.addr.toNat < 2 ^ 53 ∧ c.addr.toNat % 64 = 0 ∧
  mget s.ctxs (s.opCtx o) = some cx ∧ cx.id = s.opCtx o ∧ AtHome s (s.opCtx o) (c.addr.toNat / 128) .ewr ∧
  (lineData s (s.opCtx o) (c.addr.toNat / 128)).length = 128 ∧
  bytesHome s o (ChimeRec.ofNat x).base (16 * (ChimeRec.ofNat x).len) .rd ∧
  (ChimeRec.ofNat x).base.toNat / 128 ≠ c.addr.toNat / 128 ∧ (∃ w, mget s.waves o.wave = some w) ∧
  ∀ p, p ∈ s.runs → p.2.ctx = s.opCtx o →
    s.runBatch p.2 = none ∧ p.2.serial = false ∧ (p.2.placed = true → p.2.phase ≠ cx.phase + 1)

/-- The digest of the phase's log. -/
def phaseValue (s : State) (o : EngineOp) (x : Nat) : Dword :=
  digestOf (ChimeRec.ofNat x).len (bytesAt s (s.opCtx o) (ChimeRec.ofNat x).base (16 * (ChimeRec.ofNat x).len))

/-- A digest split is decided for the host (R303, step 6): nothing more is dispatched for the context, and the operation fails with
0x0801. -/
def splits (s t : State) (o : EngineOp) : Prop :=
  (∃ y, mget t.ctxs (s.opCtx o) = some y ∧ y.stopped = true) ∧ ∀ x, t.opAt o.name = some x → x.state = .failed 0x0801 0 0

/-- The address of row or column k (R218, R222). -/
def lineAt (m : MatOp) (core k : Nat) : Nat := rawSpad core (m.addr + BitVec.ofNat 32 (k * m.stride))

/-- Scale byte b of row or column k under the captured scale register (R216, R218), b below K / 32. -/
def scaleByte (s : State) (m : MatOp) (core k b : Nat) : Byte :=
  let src := m.scale.toNat % 2 ^ 23
  if scaledFmt m.fmt = true ∧ m.scale.toNat / 2 ^ 30 = 1 then BitVec.ofNat 8 src
  else if scaledFmt m.fmt = true ∧ m.scale.toNat / 2 ^ 30 = 2 then
    cget 0 s.spad (rawSpad core (BitVec.ofNat 32 (src + k * blocksOf m.fmt)) + b)
  else 0x7F#8

/-- The elements, the scales and the tag of a plane (R213). -/
def planeOf (c : Core) (q : Bool) : Cells × Cells × BitVec 3 := if q then (c.plane1, c.scale1, c.tag1) else (c.plane0, c.scale0, c.tag0)

/-- An unfinished instruction before an MLOADW in matrix order that it waits for (R218): another MLOADW, or a stream that captured
its plane. -/
def loadWaits (m : MatOp) (x : EngineOp) : Prop :=
  x.state = .going ∧ ∃ y, x.kind = .mat y ∧ (y.kind = 0 ∨ ((y.kind = 1 ∨ y.kind = 2) ∧ y.plane = m.plane))

end Sys2Proof.Stated

section
open Sys2Proof Sys2Proof.Machine Sys2Proof.Stated

/-- EVENTS OF OPERATIONS happen when their conditions hold, and are turned away when they do not. -/
def Sys2Proof.Stated.EngineEvents : Prop :=
  ∀ (s : State) (i : Instr) (b : Bool) (nm : String), s.wave.name = 0 → engineEvent s i = some (b, nm) →
    (b = true → ∃ t, exec i s = .next t) ∧ (b = false → turnedAway i nm s)

/-- A COPY'S ELEMENT INTO THE SCRATCHPAD (R193, R194): the bytes at hand stand at its destination, and the element is marked
done. -/
def Sys2Proof.Stated.CopyElementIn : Prop :=
  ∀ (s : State) (op e x p : Nat) (o : EngineOp) (c : CopyOp) (l : Layout) (g : Group) (b : List Byte),
    s.wave.name = 0 → s.opAt op = some o → o.kind = .copy c → c.recd = some x → Layout.ofNat x = some l → l.dir = 0 →
    s.groupAt o.group = some g → s.copyReady op e = true → c.superseded l o.core e = false → c.bar = none →
    atHand c l e = some b → recSpad g o.core (l.dstAt e) l.esize = some p →
    ∃ t o', exec (.copyElement op e) s = .next t ∧ t.spad = cwrite 0 s.spad p b ∧ t.opAt op = some o' ∧
      o'.kind = .copy (c.mark e) ∧ t.hbm = s.hbm ∧ t.groups = s.groups

/-- AN ENGINE'S WRITE CLEARS RESERVATIONS (R181): no lane of any wave holds one on a granule of the element that a copy has written
into a scratchpad. -/
def Sys2Proof.Stated.CopyClears : Prop :=
  ∀ (s : State) (op e x p : Nat) (o : EngineOp) (c : CopyOp) (l : Layout) (g : Group) (b : List Byte),
    s.wave.name = 0 → s.opAt op = some o → o.kind = .copy c → c.recd = some x → Layout.ofNat x = some l → l.dir = 0 →
    s.groupAt o.group = some g → s.copyReady op e = true → c.superseded l o.core e = false → c.bar = none →
    atHand c l e = some b → 0 < b.length → recSpad g o.core (l.dstAt e) l.esize = some p →
    ∃ t, exec (.copyElement op e) s = .next t ∧ othersAfter s t (granules p b.length)

/-- BYTE COUNTS (R195): an element that is written, or skipped under DIR 01, is subtracted from the barrier object that the copy
names, IN_BYTES for a copy into a scratchpad and OUT_BYTES else, and the generation completes when nothing is missing. -/
def Sys2Proof.Stated.CopyCounts : Prop :=
  ∀ (s : State) (op e x addr : Nat) (o : EngineOp) (c : CopyOp) (l : Layout) (g : Group) (b : List Byte),
    s.wave.name = 0 → s.opAt op = some o → o.kind = .copy c → c.recd = some x → Layout.ofNat x = some l →
    s.groupAt o.group = some g → s.copyReady op e = true → c.superseded l o.core e = false → o.bar = some addr →
    Memory.wf s.spad = true → (s.barGet addr).reserved = 0 →
    l.esize ≤ (if l.dir = 0 then (s.barGet addr).inBytes else (s.barGet addr).outBytes) →
    (l.dir = 0 → atHand c l e = some b → b.length = l.esize → ∀ p, recSpad g o.core (l.dstAt e) l.esize = some p →
      (p + l.esize ≤ addr ∨ addr + 16 ≤ p) →
      ∃ t o', exec (.copyElement op e) s = .next t ∧ t.opAt op = some o' ∧ o'.kind = .copy (c.mark e) ∧ t.hbm = s.hbm ∧
        t.barGet addr = counted (s.barGet addr) 0 l.esize ∧
        ((counted (s.barGet addr) 0 l.esize).gen ≠ (s.barGet addr).gen →
          released s t addr (counted (s.barGet addr) 0 l.esize).gen) ∧
        ∀ y, ¬ (addr ≤ y ∧ y < addr + 16) → cget 0 t.spad y = cget 0 (cwrite 0 s.spad p b) y) ∧
    (l.dir = 1 → l.inLimits e = false →
      ∃ t o', exec (.copyElement op e) s = .next t ∧ t.opAt op = some o' ∧ o'.kind = .copy (c.mark e) ∧ t.hbm = s.hbm ∧
        t.l2 = s.l2 ∧ t.barGet addr = counted (s.barGet addr) 1 l.esize ∧ spadKeptBut s t addr 16) ∧
    (l.dir ≠ 0 → (if l.dir = 1 then l.inLimits e = true ∧ ∃ p, recSpad g o.core (l.srcAt e) l.esize = some p ∧
        b = s.spadGet p l.esize else atHand c l e = some b) → laneHome s o (l.dstAt e) b.length .ewr →
      ∃ t o', exec (.copyElement op e) s = .next t ∧ t.opAt op = some o' ∧ o'.kind = .copy (c.mark e) ∧
        t.barGet addr = counted (s.barGet addr) 1 l.esize ∧ spadKeptBut s t addr 16 ∧
        linesNow s t (inCtx s (s.opCtx o) (fun line =>
          if line = (l.dstAt e).toNat / 128 then splice (lineData s (s.opCtx o) line) ((l.dstAt e).toNat % 128) b
          else lineData s (s.opCtx o) line)))

/-- BCOPY_COMPLETE (R21, R98, R194, R200, R240): a copy whose elements are all done completes; a BCOPYP with a barrier arrives
first, and an object that refuses the arrival, or expects none, is left as it is. -/
def Sys2Proof.Stated.CopyCompletes : Prop :=
  ∀ (s : State) (o : EngineOp) (w : Wave), AtWork s o → s.copyEnds o.name = true → mget s.waves o.wave = some w →
    (Oldest s o → (∀ c, o.kind = .copy c → c.peal = none ∨ o.bar = none) → ∃ t, exec (.bcopyComplete o.name) s = .next t ∧
      leaves s t o w o.flags ∧ t.spad = s.spad) ∧
    (∀ c addr, o.kind = .copy c → c.peal ≠ none → o.bar = some addr → Memory.wf s.spad = true →
      (Oldest s o → (s.barGet addr).reserved = 0 → (s.barGet addr).pending ≠ 0 → ∃ t,
        exec (.bcopyComplete o.name) s = .next t ∧ leaves s t o w o.flags ∧ t.barGet addr = rung (s.barGet addr) ∧
        spadKeptBut s t addr 16 ∧ ((rung (s.barGet addr)).gen ≠ (s.barGet addr).gen → released s t addr (rung (s.barGet addr)).gen)) ∧
      (((s.barGet addr).reserved ≠ 0 ∨ (s.barGet addr).pending = 0) → ∃ t, exec (.bcopyComplete o.name) s = .next t ∧
        t.spad = s.spad))

/-- WHAT COPIES WRITE, COUNT AND ARRIVE ON (R181, R193 to R195, R200, R233, R240): the element written, its bytes on the barrier, the
completion and the arrival of a BCOPYP. -/
def Obligations.CopyElementWritten : Prop :=
  Sys2Proof.Stated.CopyElementIn ∧ Sys2Proof.Stated.CopyClears ∧ Sys2Proof.Stated.CopyCounts ∧ Sys2Proof.Stated.CopyCompletes

/-- COMPLETION IN CLASS ORDER (R21, R98): an ended operation whose answers are in leaves when it is the oldest of its class
in its wave, the counter falls and its flags join the wave's; while an older one has not ended, nothing happens. That an
ended operation waits for its answers is the model's reading (log 28). -/
def Obligations.ClassOrderCompletion : Prop :=
  (∀ (s : State) (o a : EngineOp), s.ops.find? (fun x => x.wave == o.wave && x.cls == o.cls) = some a →
    (a.ended && s.answered a.name) = false → s.settleOp o = s) ∧
  (∀ (s : State) (o : EngineOp) (w : Wave), s.wave.name = 0 → o.wave ≠ 0 → mget s.waves o.wave = some w →
    s.ops.find? (fun x => x.wave == o.wave && x.cls == o.cls) = some o → o.state = .done → s.answered o.name = true →
    Going s o → s.watches = [] →
    (∀ x, x ∈ s.ops → x.wave = o.wave → x.cls = o.cls → x.name ≠ o.name → x.ended = false) →
    ∃ v, mget (s.settleOp o).waves o.wave = some v ∧ v.count (clsIndex o.cls) = w.count (clsIndex o.cls) - 1 ∧
      v.flags = w.flags ||| o.flags ∧ (s.settleOp o).ops = s.ops.filter (fun x => x.name != o.name) ∧
      (s.settleOp o).spad = s.spad ∧ (s.settleOp o).hbm = s.hbm)

/-- MZEROACC_COMPLETE, MLOADW_FINISH AND CHAINS (R218, R225 to R227): +0 in the captured lanes of the 64 registers of the
range; a finished load is done; a stream moves from the west neighbour into a chain input that takes it. -/
def Sys2Proof.Stated.MatrixEngineEvents : Prop :=
  (∀ (s : State) (op : Nat) (o : EngineOp) (m : MatOp) (w : Wave) (f : Frame), s.wave.name = 0 → s.opAt op = some o →
    o.kind = .mat m → s.zeroReady op = true → o.wave ≠ 0 → mget s.waves o.wave = some w → Going s o →
    (∀ x, x ∈ s.ops → x.wave = o.wave → x.cls = o.cls → x.name ≠ op → x.ended = false) →
    mget w.frames m.frame = some f → m.vd + 64 ≤ f.regs.length →
    ∃ t v, exec (.mzeroaccComplete op) s = .next t ∧ mget t.waves o.wave = some v ∧
      ∀ r k, k < 64 → lane (v.vget m.frame (.v r)) k =
        if m.vd ≤ r ∧ r < m.vd + 64 ∧ m.mask.getLsbD k = true then 0 else lane (w.vget m.frame (.v r)) k) ∧
  (∀ (s : State) (op : Nat) (o : EngineOp) (m : MatOp), s.wave.name = 0 → s.opAt op = some o → o.kind = .mat m →
    ((m.kind = 0 ∧ m.begun = true ∧ o.state = .going) → ∃ t, exec (.mloadwFinish op) s = .next t ∧ t.cores = (s.loadPlane o m).cores ∧
      ∀ x, x ∈ t.ops → x.name = op → x.state ≠ .going) ∧
    (¬ (m.kind = 0 ∧ m.begun = true ∧ o.state = .going) → turnedAway (.mloadwFinish op) "MLOADW_FINISH" s)) ∧
  (∀ (s : State) (core : Nat) (o : EngineOp) (st : Stream), s.wave.name = 0 → s.forwarder core = some (o, st) →
    (s.chainTaker core st.ctx = true → (s.core core).chainIn = none → ∃ t, exec (.chainStreamArrival core) s = .next t ∧
      (t.core core).chainIn = some st ∧ t.waves = s.waves ∧ t.spad = s.spad) ∧
    (s.chainTaker core st.ctx = false → ∃ t, exec (.chainStreamArrival core) s = .next t ∧ t.cores = s.cores ∧
      t.waves = s.waves ∧ t.spad = s.spad) ∧
    (s.chainTaker core st.ctx = true → (s.core core).chainIn ≠ none →
      turnedAway (.chainStreamArrival core) "CHAIN_STREAM_ARRIVAL" s)) ∧
  (∀ (s : State) (core : Nat), s.wave.name = 0 → s.forwarder core = none →
    turnedAway (.chainStreamArrival core) "CHAIN_STREAM_ARRIVAL" s)

/-- MLOADW_READS_BEGIN AND MLOADW_FINISH (R213, R216, R218): the reads begin when no earlier instruction that the load waits for is
unfinished; the finished load has left 256 bytes of the scratchpad and their block scales in every column of its plane, and
the other plane as it was. -/
def Sys2Proof.Stated.PlaneLoads : Prop :=
  (∀ (s : State) (op : Nat) (o : EngineOp) (m : MatOp), s.wave.name = 0 → s.opAt op = some o → o.kind = .mat m → m.kind = 0 →
    m.begun = false → o.state = .going →
    ((∀ x, x ∈ s.matrixBefore o → ¬ loadWaits m x) → ∃ t, exec (.mloadwReadsBegin op) s = .next t ∧ t = { s with ops := t.ops } ∧
      t.opAt op = some { o with kind := .mat { m with begun := true } }) ∧
    ((∃ x, x ∈ s.matrixBefore o ∧ loadWaits m x) → turnedAway (.mloadwReadsBegin op) "MLOADW_READS_BEGIN" s)) ∧
  (∀ (s : State) (op : Nat) (o : EngineOp) (m : MatOp), s.wave.name = 0 → s.opAt op = some o → o.kind = .mat m → m.kind = 0 →
    m.begun = true → o.state = .going → cwf 0 (planeOf (s.core o.core) m.plane).1 = true →
    cwf 0x7F#8 (planeOf (s.core o.core) m.plane).2.1 = true →
    ∃ t, exec (.mloadwFinish op) s = .next t ∧
      planeOf (t.core o.core) (!m.plane) = planeOf (s.core o.core) (!m.plane) ∧
      (t.core o.core).active = (s.core o.core).active ∧ (t.core o.core).msc = (s.core o.core).msc ∧
      ∀ n, n < 64 →
        (∀ k, k < 256 → cget 0 (planeOf (t.core o.core) m.plane).1 (n * 256 + k) = cget 0 s.spad (lineAt m o.core n + k)) ∧
        (∀ b, b < blocksOf m.fmt →
          cget 0x7F#8 (planeOf (t.core o.core) m.plane).2.1 (n * 16 + b) = scaleByte s m o.core n b) ∧
        (∀ b, blocksOf m.fmt ≤ b → b < 16 → cget 0x7F#8 (planeOf (t.core o.core) m.plane).2.1 (n * 16 + b) = 0x7F#8))

/-- MSTREAM_START (R222, R224, R225): an MSTREAM and the head of a chain read the rows of their mask and the scales of these from
the scratchpad; a follower takes the stream in the chain input, which is empty then; a head and a forwarding follower have
their stream to send on. -/
def Sys2Proof.Stated.StreamStarts : Prop :=
  ∀ (s : State) (op : Nat) (o : EngineOp) (m : MatOp), s.wave.name = 0 → s.opAt op = some o → o.kind = .mat m →
    s.streamStarts op = true →
    (m.role < 2 → ∃ t st, exec (.mstreamStart op) s = .next t ∧ t = { s with ops := t.ops } ∧
      t.opAt op = some { o with kind := .mat { m with begun := true, stream := some st, forward := m.role == 1 } } ∧
      st.fmt = m.fmt ∧ st.mask = m.mask ∧ st.causal = o.causal ∧ st.group = o.group ∧ st.ctx = s.opCtx o ∧
      ∀ i, i < 64 → m.mask.getLsbD i = true → (st.rows.getD i []).length = 256 ∧
        (∀ k, k < 256 → (st.rows.getD i []).getD k 0 = cget 0 s.spad (lineAt m o.core i + k)) ∧
        (∀ b, b < blocksOf m.fmt → (st.scales.getD i []).getD b 0x7F#8 = scaleByte s m o.core i b)) ∧
    (2 ≤ m.role → ∀ st, (s.core o.core).chainIn = some st → ∃ t, exec (.mstreamStart op) s = .next t ∧
      t = { s with ops := t.ops, cores := t.cores } ∧ (t.core o.core).chainIn = none ∧
      (∀ k, k ≠ o.core → mwf s.cores = true → mget t.cores k = mget s.cores k) ∧
      t.opAt op = some { o with kind := .mat { m with begun := true, stream := some st, forward := m.role == 3 } })

/-- EVENTS OF THE MATRIX ENGINE (R213, R216, R218, R222, R224 to R227): planes, streams, chains and MZEROACC. -/
def Obligations.MatrixEvents : Prop :=
  Sys2Proof.Stated.MatrixEngineEvents ∧ Sys2Proof.Stated.PlaneLoads ∧ Sys2Proof.Stated.StreamStarts

/-- A COPY'S ELEMENT INTO GLOBAL MEMORY (R193, R194), from the scratchpad or from global memory: its bytes stand in the line at
its destination and it is marked done; a source outside the limits is not copied from the scratchpad. -/
def Sys2Proof.Stated.CopiesToMemory : Prop :=
  (∀ (s : State) (op e x : Nat) (o : EngineOp) (c : CopyOp) (l : Layout) (g : Group) (b : List Byte),
    s.wave.name = 0 → s.opAt op = some o → o.kind = .copy c → c.recd = some x → Layout.ofNat x = some l → l.dir ≠ 0 →
    s.groupAt o.group = some g → s.copyReady op e = true → c.superseded l o.core e = false → c.bar = none →
    (if l.dir = 1 then l.inLimits e = true ∧ ∃ p, recSpad g o.core (l.srcAt e) l.esize = some p ∧ b = s.spadGet p l.esize
      else atHand c l e = some b) →
    laneHome s o (l.dstAt e) b.length .ewr →
    ∃ t o', exec (.copyElement op e) s = .next t ∧ t.opAt op = some o' ∧ o'.kind = .copy (c.mark e) ∧ t.spad = s.spad ∧
      linesNow s t (inCtx s (s.opCtx o) (fun line =>
        if line = (l.dstAt e).toNat / 128 then splice (lineData s (s.opCtx o) line) ((l.dstAt e).toNat % 128) b
        else lineData s (s.opCtx o) line))) ∧
  (∀ (s : State) (op e x : Nat) (o : EngineOp) (c : CopyOp) (l : Layout),
    s.wave.name = 0 → s.opAt op = some o → o.kind = .copy c → c.recd = some x → Layout.ofNat x = some l → l.dir = 1 →
    s.copyReady op e = true → c.bar = none → l.inLimits e = false →
    ∃ t o', exec (.copyElement op e) s = .next t ∧ t.opAt op = some o' ∧ o'.kind = .copy (c.mark e) ∧
      t.spad = s.spad ∧ t.hbm = s.hbm ∧ t.l2 = s.l2)

/-- SCATTER AND GATHER (R201): the lanes write in rising order, so that each byte has the value of the highest lane. -/
def Sys2Proof.Stated.ScattersAndGathers : Prop :=
  ∀ (s : State) (o : EngineOp) (g : GatherOp), AtWork s o → o.kind = .gather g → s.gatherReady o.name = true →
    g.lanes = g.notDone → g.sent = 0 →
    (g.scatter = true →
      (∀ i, i < 64 → g.notDone.getLsbD i = true → laneHome s o (g.ea.getD i 0) (g.data.getD i []).length .ewr) →
      ∃ t, exec (.gatherComplete o.name) s = .next t ∧ t.spad = s.spad ∧
        linesNow s t (inCtx s (s.opCtx o) (scattered g (lineData s (s.opCtx o)) 64))) ∧
    (g.scatter = false → 0 < g.size →
      (∀ i, i < 64 → g.notDone.getLsbD i = true → laneHome s o (g.ea.getD i 0) g.size .rd ∧
        s.homeDie (s.opCtx o) ((g.ea.getD i 0).toNat / 128) = dieOf o.core) →
      ∃ t, exec (.gatherComplete o.name) s = .next t ∧ linesNow s t (lineData s) ∧
        t.spad = gathered (lineData s (s.opCtx o)) o.core g s.spad 64)

/-- GATOM (R202): the lanes act in rising order, each on what the lanes before it left; with RET the destination receives the
old values when the operation completes. -/
def Sys2Proof.Stated.GlobalAtomics : Prop :=
  ∀ (s : State) (o : EngineOp) (g : GatomOp), AtWork s o → o.kind = .gatom g → s.gatomReady o.name = true →
    g.lanes = g.notDone → g.sent = 0 → g.old.length = 64 → (g.op = .fadd → g.w64 = false) →
    (g.w64 = false → ∀ i, (g.b.getD i 0).toNat < 2 ^ 32 ∧ (g.c.getD i 0).toNat < 2 ^ 32) →
    (∀ i, i < 64 → g.notDone.getLsbD i = true → laneHome s o (g.ea.getD i 0) (if g.w64 then 8 else 4) .ermw) →
    (∃ t, exec (.gatomComplete o.name) s = .next t ∧ t.spad = s.spad ∧
      linesNow s t (inCtx s (s.opCtx o) (atomics g (lineData s (s.opCtx o)) 64))) ∧
    (g.ret = true → Oldest s o → ∀ w f, mget s.waves o.wave = some w → mget w.frames g.frame = some f →
      rangeIn f g.reg (if g.w64 then 2 else 1) →
      ∃ t v, exec (.gatomComplete o.name) s = .next t ∧ mget t.waves o.wave = some v ∧ ∀ i k, i < 64 →
        k < (if g.w64 then 2 else 1) → lane (v.vget g.frame (vplus g.reg k)) i =
          if g.lanes.getLsbD i then BitVec.ofNat 32 ((oldValue g (lineData s (s.opCtx o)) i).toNat / 2 ^ (32 * k))
          else lane (w.vget g.frame (vplus g.reg k)) i)

/-- GCHUNK (R203): the pair receives the chunk's start and size, and the record's NEXT moves past it; a record with a reserved
byte set is the fault 0x0708, and the pair stays. -/
def Sys2Proof.Stated.ChunkResults : Prop :=
  ∀ (s : State) (o : EngineOp) (g : ChunkOp) (w : Wave), AtWork s o → Oldest s o → o.kind = .gchunk g →
    s.chunkReady o.name = true → g.res = none → mget s.waves o.wave = some w → laneHome s o g.addr 64 .ermw →
    let line := g.addr.toNat / 128
    let rec_ := ((lineData s (s.opCtx o) line).drop (g.addr.toNat % 128)).take 64
    let word (k : Nat) : Nat := leNat ((rec_.drop (4 * k)).take 4)
    let r := chunk (word 0) (word 1) (word 2) (word 3)
    ((∀ k, 16 ≤ k → rec_.getD k 0 = 0) → g.sd < 55 → ∃ t v, exec (.gchunkServe o.name) s = .next t ∧ t.spad = s.spad ∧
      linesNow s t (inCtx s (s.opCtx o) (fun n =>
        if n = line ∧ r.2.1 ≠ 0 then splice (lineData s (s.opCtx o) n) (g.addr.toNat % 128) (leBytes 4 r.2.2)
        else lineData s (s.opCtx o) n)) ∧
      mget t.waves o.wave = some v ∧ ∀ k, k < 56 → v.sregs.toArray.getD k 0 =
        if k = g.sd then BitVec.ofNat 32 r.1 else if k = g.sd + 1 then BitVec.ofNat 32 r.2.1
        else w.sregs.toArray.getD k 0) ∧
    ((∃ k, 16 ≤ k ∧ rec_.getD k 0 ≠ 0) → ∃ t v, exec (.gchunkServe o.name) s = .next t ∧
      mget t.waves o.wave = some v ∧ v.sregs = w.sregs ∧ ∃ d, d ∈ v.traps ∧ d.code = 0x0708)

/-- MSTREAM AND MSTREAMC (R92, R93, R222, R225): a finished stream leaves in every row that it has in common with the
instruction's mask the product of its row and the plane's columns, added to the accumulator or, with Z, to +0; every other
register and lane is as it was. A stream of another format is the fault 0x070E. -/
def Sys2Proof.Stated.MatrixResults : Prop :=
  (∀ (s : State) (o : EngineOp) (m : MatOp) (st : Stream) (w : Wave) (f : Frame), AtWork s o → o.kind = .mat m →
    s.streamEnds o.name = true → m.stream = some st → streamOk s o m st → mget s.waves o.wave = some w →
    mget w.frames m.frame = some f → m.vd + 64 ≤ f.regs.length →
    ∃ t v, exec (.mstreamFinish o.name) s = .next t ∧ mget t.waves o.wave = some v ∧ t.spad = s.spad ∧ t.hbm = s.hbm ∧
      ∀ r i, i < 64 → lane (v.vget m.frame (.v r)) i =
        if m.vd ≤ r ∧ r < m.vd + 64 ∧ (m.mask &&& st.mask).getLsbD i = true then
          productAt s o m st i (r - m.vd) (if m.z then 0 else lane (w.vget m.frame (.v r)) i)
        else lane (w.vget m.frame (.v r)) i) ∧
  (∀ (s : State) (o : EngineOp) (m : MatOp) (st : Stream) (w : Wave), AtWork s o → o.kind = .mat m →
    s.streamEnds o.name = true → m.stream = some st → st.fmt ≠ m.fmt → mget s.waves o.wave = some w →
    ∃ t v, exec (.mstreamFinish o.name) s = .next t ∧ mget t.waves o.wave = some v ∧
      (∀ r, v.vget m.frame (.v r) = w.vget m.frame (.v r)) ∧ (Oldest s o → ∃ d, d ∈ v.traps ∧ d.code = 0x070E))

/-- DEADLINES (R210, R390, R391): a collective whose deadline has passed with ranks missing aborts, with 0x070C and the first
missing rank, and an abort fails each rank's operation with its code and INFO; a watch expires once, at its time. The package
of the first rank to issue keeps the deadline (log 80), and an event whose condition does not hold is turned away (log 2). -/
def Sys2Proof.Stated.Deadlines : Prop :=
  (∀ (s : State) (n : Nat) (c : Coll) (d : Nat), s.wave.name = 0 → s.colls.find? (fun x => x.name == n) = some c →
    s.collAt c.comm c.nth = some c → c.abort = none → c.till = some d →
    (d ≤ s.time → s.collKeeper c = true → ∀ k, firstMissing s c k →
      ∃ t c', exec (.collDeadline n) s = .next t ∧ t.collAt c.comm c.nth = some c' ∧ c'.abort = some (0x070C, k) ∧
        c'.issues = c.issues ∧ t.spad = s.spad ∧ t.waves = s.waves) ∧
    ((s.time < d ∨ s.collKeeper c = false ∨ ∀ k, k < s.commSize c.comm → ∃ x, x ∈ c.issues ∧ x.rank = k) →
      turnedAway (.collDeadline n) "COLL_DEADLINE" s)) ∧
  (∀ (s : State) (op code info : Nat) (o : EngineOp) (c : CollOp) (cl : Coll), s.wave.name = 0 → s.opAt op = some o →
    o.kind = .coll c → o.state = .going → c.issued = true → s.collAt c.comm c.nth = some cl → cl.abort = some (code, info) →
    ∃ t, exec (.collComplete op) s = .next t ∧ ∀ x, t.opAt op = some x → x.state = .failed code 0 info) ∧
  (∀ (s : State) (n : Nat) (w : Watch), s.wave.name = 0 → s.watches[n]? = some w →
    (w.expired = false → w.till ≤ s.time → ∃ t x, exec (.watchExpired n) s = .next t ∧ t.watches[n]? = some x ∧
      x.expired = true ∧ t.waves = s.waves ∧ t.spad = s.spad) ∧
    ((w.expired = true ∨ s.time < w.till) → turnedAway (.watchExpired n) "WATCH_EXPIRED" s))


/-- WHAT ENGINES LEAVE in global memory, scratchpads and registers (R92, R93, R193, R194, R201 to R203, R222, R225). Lines
stand in their home slices; bringing one there is R337's. A GCHUNK uses the line's copy in the home slice (log 68), and a
write of a whole line is made from its elements only where it differs (log 75). -/
def Obligations.EngineResults : Prop :=
  Sys2Proof.Stated.CopiesToMemory ∧ Sys2Proof.Stated.ScattersAndGathers ∧ Sys2Proof.Stated.GlobalAtomics ∧ Sys2Proof.Stated.ChunkResults ∧ Sys2Proof.Stated.MatrixResults

/-- WHEN EVENTS OF OPERATIONS HAPPEN, AND DEADLINES (R185 to R227, R210, R390, R391). -/
def Obligations.EngineEventsAndDeadlines : Prop := Sys2Proof.Stated.EngineEvents ∧ Sys2Proof.Stated.Deadlines

/-- PEAL_REQUEST (R196, R198, R199, R351): a core that is not enrolled, or no longer, asks for an ordinary fill; so does one that a
late record names, which no longer names it then; an open hold takes the request and completes with its last expected core;
without a hold one opens, that expects the cores enrolled now (and completes where only this core is enrolled), or the die's
overflow is counted when the slice has 256. -/
def Sys2Proof.Stated.PealRequests : Prop :=
  ∀ (s : State) (op line p : Nat) (o : EngineOp) (c : CopyOp), s.wave.name = 0 → s.opAt op = some o → o.kind = .copy c →
    c.peal = some p → s.pealReady op line = true →
    let ctx := s.opCtx o
    let slice := s.sliceAt ctx line
    let member := c.left = false ∧ (⟨ctx, p, o.core, o.group⟩ : Enrol) ∈ s.enrols
    let named (l : Late) : Bool := l.ctx == ctx && l.peal == p && l.line == line && l.cores.contains o.core
    let open_ := s.holds.find? (fun h => h.ctx == ctx && h.peal == p && h.line == line)
    let plain (t : State) : Prop := t.holds = s.holds ∧ t.spad = s.spad ∧ t.opAt op =
      some { o with kind := .copy { c with asked := c.asked.filter (· != line), plain := line :: c.plain } }
    let asks (t : State) : Prop := t.spad = s.spad ∧ t.lates = s.lates ∧
      t.opAt op = some { o with kind := .copy { c with asked := line :: c.asked } }
    (¬ member → ∃ t, exec (.pealRequest op line) s = .next t ∧ plain t ∧ t.lates = s.lates) ∧
    (member → s.lates.any named = true → ∃ t, exec (.pealRequest op line) s = .next t ∧ plain t ∧
      (t.lates.filter named).length < (s.lates.filter named).length ∧
      ∀ l, l ∈ t.lates → l ∈ s.lates ∨ ∃ k, k ∈ s.lates ∧ l = { k with cores := k.cores.filter (· != o.core) }) ∧
    (member → s.lates.any named = false → ∀ h, open_ = some h →
      ((∃ k, k ∈ absent h ∧ k ≠ o.core) → ∃ t, exec (.pealRequest op line) s = .next t ∧ asks t ∧
        { h with asked := h.asked ++ [⟨o.core, op⟩] } ∈ t.holds ∧ t.holds.length = s.holds.length) ∧
      ((∀ k, k ∈ absent h → k = o.core) → ∃ t, exec (.pealRequest op line) s = .next t ∧ (∀ x, x ∈ t.holds → x.name ≠ h.name) ∧
        (AtHome s h.ctx h.line .rd → (lineData s h.ctx h.line).length = 128 → areCopies s (h.asked.map Asked.op) →
          ∀ n, n ∈ op :: h.asked.map Asked.op → filled t n line (lineData s ctx line) ∨ underWay t n line (lineData s ctx line)))) ∧
    (member → s.lates.any named = false → open_ = none → (s.holds.filter (fun h => h.slice == slice)).length = 256 → slice < 64 →
      ∃ t, exec (.pealRequest op line) s = .next t ∧ plain t ∧ t.lates = s.lates ∧
        (t.die (slice / 16)).holdOvf = min ((s.die (slice / 16)).holdOvf + 1) (2 ^ 32 - 1)) ∧
    (member → s.lates.any named = false → open_ = none → (s.holds.filter (fun h => h.slice == slice)).length ≠ 256 →
      (∃ k, k ∈ enrolledCores s ctx p ∧ k ≠ o.core) → ∀ g d, s.groupAt o.group = some g →
      g.peals.find? (fun x => x.peal == p) = some d → ∃ t h, exec (.pealRequest op line) s = .next t ∧ t.spad = s.spad ∧
        t.opAt op = some { o with kind := .copy { c with asked := line :: c.asked } } ∧ t.holds = s.holds ++ [h] ∧
        h.ctx = ctx ∧ h.peal = p ∧ h.line = line ∧ h.slice = slice ∧ h.expect = enrolledCores s ctx p ∧
        h.asked = [⟨o.core, op⟩] ∧ h.opened = s.time ∧ h.till = s.time + 4000 * d.timer) ∧
    (member → s.lates.any named = false → open_ = none → (s.holds.filter (fun h => h.slice == slice)).length ≠ 256 →
      (∀ k, k ∈ enrolledCores s ctx p → k = o.core) → AtHome s ctx line .rd → (lineData s ctx line).length = 128 →
      ∃ t, exec (.pealRequest op line) s = .next t ∧ (∀ h, h ∈ t.holds → h ∈ s.holds) ∧
        (filled t op line (lineData s ctx line) ∨ underWay t op line (lineData s ctx line)))

/-- PEAL_HOLD_TIMEOUT (R199, R272): a hold whose timer has passed, or that misses nobody, ends; a late record names the cores that
it missed, also where the hold is then dropped (log 92, the model's choice); and every copy that asked has the line, or the line is on
its way to it. -/
def Sys2Proof.Stated.PealTimers : Prop :=
  ∀ (s : State) (n : Nat) (h : Hold), s.wave.name = 0 → s.holds.find? (fun x => x.name == n) = some h →
    ((h.till ≤ s.time ∨ absent h = []) → ∃ t, exec (.pealHoldTimeout n) s = .next t ∧
      t.holds = s.holds.filter (fun x => x.name != n) ∧
      t.lates = (if absent h = [] then s.lates else s.lates ++ [⟨h.ctx, h.peal, h.line, h.slice, absent h, h.till, h.causal⟩]) ∧
      (AtHome s h.ctx h.line .rd → (lineData s h.ctx h.line).length = 128 → areCopies s (h.asked.map Asked.op) → t.spad = s.spad ∧
        ∀ a, a ∈ h.asked → filled t a.op h.line (lineData s h.ctx h.line) ∨ underWay t a.op h.line (lineData s h.ctx h.line))) ∧
    (s.time < h.till → absent h ≠ [] → turnedAway (.pealHoldTimeout n) "PEAL_HOLD_TIMEOUT" s)

/-- MULTICAST_RESIDUAL (R356): a residual entry serves the next of its copies and stays while others are left; a flit that waits
whole forks, so that each copy has the line or it is on its way. -/
def Sys2Proof.Stated.Residuals : Prop :=
  ∀ (s : State) (n : Nat) (r : Residual), s.wave.name = 0 → s.resid.find? (fun x => x.name == n) = some r → areCopies s r.ops →
    (r.whole = false → ∀ k rest, r.ops = k :: rest → ∃ t, exec (.multicastResidual n) s = .next t ∧ filled t k r.line r.data ∧
      t.spad = s.spad ∧ (rest ≠ [] → { r with ops := rest } ∈ t.resid) ∧ (rest = [] → ∀ x, x ∈ t.resid → x.name ≠ n)) ∧
    (r.whole = false → r.ops = [] → exec (.multicastResidual n) s = .next { s with resid := s.resid.filter (fun x => x.name != n) }) ∧
    (r.whole = true → ∃ t, exec (.multicastResidual n) s = .next t ∧ t.spad = s.spad ∧
      ∀ k, k ∈ r.ops → filled t k r.line r.data ∨ underWay t k r.line r.data)

/-- PEALS (R196, R198 to R200, R272, R351, R356): requests, holds and the multicast of their fills. Which ports are free is a free
choice. -/
def Obligations.PealEvents : Prop :=
  Sys2Proof.Stated.PealRequests ∧ Sys2Proof.Stated.PealTimers ∧ Sys2Proof.Stated.Residuals

/-- COLL_COMPLETE (R209): a rank issues with its SRC; when every rank has issued it writes what R209's table gives to its DST;
when every rank has written it completes, raises the tree's flags and arrives on its barrier. That the results are written
before any rank completes is the model's reading (log 80). -/
def Sys2Proof.Stated.CollectiveResults : Prop :=
  (∀ (s : State) (op x k : Nat) (o : EngineOp) (c : CollOp) (cm : Comm), s.wave.name = 0 → s.opAt op = some o → o.kind = .coll c →
    s.collReady op = true → c.issued = false → c.recd = some x →
    let r := CollRec.ofNat x
    let n := rankSize r.ty * (if c.ck = .bcast ∧ k ≠ r.root then 0 else r.count)
    let nth := mgetD cm.nth k 0
    mget s.comms r.comm = some cm → s.rankOf cm (s.opCtx o) = some k → r.ok c.ck cm.ranks.length = true → bytesHome s o r.src n .rd →
    (∀ cl, s.collAt r.comm nth = some cl → ∀ i, i ∈ cl.issues → i.rank ≠ k) →
    ∃ t cl cm', exec (.collComplete op) s = .next t ∧ t.spad = s.spad ∧ t.hbm = s.hbm ∧
      t.opAt op = some { o with kind := .coll { c with comm := r.comm, nth := nth, rank := k, issued := true } } ∧
      t.collAt r.comm nth = some cl ∧ mget t.comms r.comm = some cm' ∧ mgetD cm'.nth k 0 = nth + 1 ∧ cm'.ranks = cm.ranks ∧
      ∃ i, i ∈ cl.issues ∧ i.rank = k ∧ i.kind = c.ck ∧ i.ty = r.ty ∧ i.op = r.op ∧ i.count = r.count ∧ i.root = r.root ∧
        i.time = s.time ∧ i.failed = false ∧ i.data = bytesAt s (s.opCtx o) r.src n ∧ (r.deadline ≠ 0 → i.deadline = r.deadline)) ∧
  (∀ (s : State) (op x d : Nat) (o : EngineOp) (c : CollOp) (cl : Coll) (D : Nat → List Byte), s.wave.name = 0 →
    s.opAt op = some o → o.kind = .coll c → s.collReady op = true → c.issued = true → c.wrote = none → c.recd = some x →
    let r := CollRec.ofNat x
    let p := s.commSize c.comm
    let b := rankResult c.ck r p c.rank d D
    s.collAt c.comm c.nth = some cl → cl.abort = none → c.rank < p → p ≤ 2 ^ d → (∀ e, p ≤ 2 ^ e → d ≤ e) →
    r.ok c.ck p = true → (∀ j, j < p → (cl.issues.find? (fun i => i.rank == j)).map RankIssue.data = some (D j)) →
    (c.ck = .alltoall → ∀ j, j < p → (D j).length = rankSize r.ty * r.count) →
    bytesHome s o r.dst b.length .ewr →
    ∃ t cl', exec (.collComplete op) s = .next t ∧ t.spad = s.spad ∧
      t.opAt op = some { o with kind := .coll { c with wrote := some (rankFlags c.ck r p d D) } } ∧
      t.collAt c.comm c.nth = some cl' ∧ c.rank ∈ cl'.wrote ∧
      linesNow s t (inCtx s (s.opCtx o) (fun line => if line = r.dst.toNat / 128 then
        splice (lineData s (s.opCtx o) line) (r.dst.toNat % 128) b else lineData s (s.opCtx o) line))) ∧
  (∀ (s : State) (o : EngineOp) (c : CollOp) (cl : Coll) (f : BitVec 6) (w : Wave), AtWork s o → Oldest s o → o.kind = .coll c →
    o.state = .going → c.issued = true → c.wrote = some f → s.collAt c.comm c.nth = some cl → cl.abort = none →
    s.commSize c.comm ≤ cl.wrote.length → mget s.waves o.wave = some w →
    (o.bar = none → ∃ t, exec (.collComplete o.name) s = .next t ∧ leaves s t o w f ∧ t.spad = s.spad) ∧
    (∀ addr, o.bar = some addr → Memory.wf s.spad = true → (s.barGet addr).reserved = 0 → (s.barGet addr).pending ≠ 0 →
      ∃ t, exec (.collComplete o.name) s = .next t ∧ leaves s t o w f ∧ t.barGet addr = rung (s.barGet addr) ∧
        spadKeptBut s t addr 16))

/-- CHIMECHK_PHASE_READY (R301 to R303): the record is read, or refused; when the phase is over MODE 1 records its digest, MODE 2
compares it with EXPECTED and MODE 3 tells the other rank; equal digests end the phase with STATUS 0, different ones start the
re-execution over a log that is cleared, or split at once where commands were lost. -/
def Sys2Proof.Stated.ChimePhases : Prop :=
  (∀ (s : State) (op : Nat) (o : EngineOp) (c : ChimeOp), s.wave.name = 0 → s.opAt op = some o → o.kind = .chime c →
    s.chimeReady op = true → c.recd = none →
    let fails (code : Nat) : Prop := ∃ t, exec (.chimechkPhaseReady op) s = .next t ∧
      ∀ y, t.opAt op = some y → y.state = .failed code c.addr 0
    let b := bytesAt s (s.opCtx o) c.addr 64
    (2 ^ 53 ≤ c.addr.toNat → fails 0x0702) ∧ (c.addr.toNat < 2 ^ 53 → c.addr.toNat % 64 ≠ 0 → fails 0x0708) ∧
    (c.addr.toNat % 64 = 0 → bytesHome s o c.addr 64 .rd → ¬ chimeAccepted (leNat b) → fails 0x0708) ∧
    (c.addr.toNat % 64 = 0 → bytesHome s o c.addr 64 .rd → chimeAccepted (leNat b) → (ChimeRec.ofNat (leNat b)).mode ≠ 3 →
      ∃ t, exec (.chimechkPhaseReady op) s = .next t ∧ t.spad = s.spad ∧
        t.opAt op = some { o with kind := .chime { c with recd := some (leNat b) } })) ∧
  (∀ (s : State) (o : EngineOp) (c : ChimeOp) (x : Nat) (cx : Ctx), Checking s o c x cx → s.chimeReady o.name = true →
    c.ready = false →
    let r := ChimeRec.ofNat x
    let p := phaseValue s o x
    let result := (48, leBytes 8 p.toNat)
    (r.mode = 1 → ∃ t, exec (.chimechkPhaseReady o.name) s = .next t ∧ phaseDone s t o c x 2 cx [result]) ∧
    (r.mode = 2 → p = r.expected → ∃ t, exec (.chimechkPhaseReady o.name) s = .next t ∧ phaseDone s t o c x 0 cx [result]) ∧
    (r.mode = 2 → p ≠ r.expected → cx.replayLost = false → AtHome s (s.opCtx o) (r.base.toNat / 128) .ewr →
      (lineData s (s.opCtx o) (r.base.toNat / 128)).length = 128 → r.expLog = 0 →
      ∃ t y o' c', exec (.chimechkPhaseReady o.name) s = .next t ∧ mget t.ctxs (s.opCtx o) = some y ∧ y.stopped = true ∧
        y.replay = some (o.name, 0) ∧ y.serial = true ∧ y.phase = cx.phase ∧ t.opAt o.name = some o' ∧ o'.kind = .chime c' ∧
        c'.rerun = true ∧ c'.first = p ∧ c'.other = r.expected ∧ o'.state = .going ∧
        bytesAt t (s.opCtx o) r.base (16 * r.len) = List.replicate (16 * r.len) 0 ∧
        bytesAt t (s.opCtx o) (c.addr + 48) 8 = leBytes 8 p.toNat) ∧
    (r.mode = 2 → p ≠ r.expected → cx.replayLost = true → r.expLog = 0 →
      ∃ t, exec (.chimechkPhaseReady o.name) s = .next t ∧ splits s t o) ∧
    (r.mode = 3 → ∀ k, s.chimeRank r.comm (s.opCtx o) = some k → ∃ t cm, exec (.chimechkPhaseReady o.name) s = .next t ∧
      t.opAt o.name = some { o with kind := .chime { c with ready := true, first := p } } ∧ mget t.comms r.comm = some cm ∧
      .chime r.comm cx.phase.toNat k p false (bytesAt s (s.opCtx o) r.base (16 * r.len)) ∈ cm.said)) ∧
  (∀ (s : State) (o : EngineOp) (c : ChimeOp) (x : Nat) (cx : Ctx) (d : Dword) (l : List Byte), Checking s o c x cx →
    s.chimeReady o.name = true → c.ready = true → s.chimePeer o (ChimeRec.ofNat x) false = some (d, l) → c.first = d →
    ∃ t, exec (.chimechkPhaseReady o.name) s = .next t ∧
      phaseDone s t o c x 0 cx [(48, leBytes 8 d.toNat), (32, leBytes 8 d.toNat)])

/-- CHIMECHK_REEXECUTION_DONE (R303): the next command slot is run again; after the last the digest is taken again, and compared
with EXPECTED or told to the other rank; equal digests commit the phase with STATUS 1, different ones split. -/
def Sys2Proof.Stated.ChimeReplays : Prop :=
  ∀ (s : State) (o : EngineOp) (c : ChimeOp) (x : Nat) (cx : Ctx), Checking s o c x cx → s.replayReady o.name = true →
    let r := ChimeRec.ofNat x
    let p := phaseValue s o x
    (∀ n slot q, cx.replay = some n → s.replayNext (s.opCtx o) = some (slot, q) → ∃ t y,
      exec (.chimechkReexecutionDone o.name) s = .next t ∧ mget t.ctxs (s.opCtx o) = some y ∧ y.replay = some (o.name, slot + 1)) ∧
    (∀ n, cx.replay = some n → s.replayNext (s.opCtx o) = none → r.mode = 2 →
      (p = r.expected → ∃ t, exec (.chimechkReexecutionDone o.name) s = .next t ∧ phaseDone s t o c x 1 cx []) ∧
      (p ≠ r.expected → ∃ t, exec (.chimechkReexecutionDone o.name) s = .next t ∧ splits s t o)) ∧
    (∀ n k, cx.replay = some n → s.replayNext (s.opCtx o) = none → r.mode = 3 → s.chimeRank r.comm (s.opCtx o) = some k →
      ∃ t cm y, exec (.chimechkReexecutionDone o.name) s = .next t ∧ mget t.comms r.comm = some cm ∧
        .chime r.comm cx.phase.toNat k p true [] ∈ cm.said ∧ mget t.ctxs (s.opCtx o) = some y ∧ y.replay = none ∧
        t.opAt o.name = some { o with kind := .chime { c with own := p } }) ∧
    (∀ d l, cx.replay = none → s.chimePeer o r true = some (d, l) →
      (d = c.own → ∃ t, exec (.chimechkReexecutionDone o.name) s = .next t ∧ phaseDone s t o c x 1 cx []) ∧
      (d ≠ c.own → ∃ t, exec (.chimechkReexecutionDone o.name) s = .next t ∧ splits s t o))

/-- COLLECTIVES AND CHIME CHECKS (R209, R301 to R303). -/
def Obligations.CollectiveEvents : Prop :=
  Sys2Proof.Stated.CollectiveResults ∧ Sys2Proof.Stated.ChimePhases ∧ Sys2Proof.Stated.ChimeReplays

end

namespace Sys2Proof.Stated
open Sys2Proof.Machine

/-! ## The launcher's own events and the ring commands (95, spec/11, spec/13) -/

/-- The entry at the head of a ring has been consumed (R308). -/
def consumed (t : State) (ctx q : Nat) (r : Ring) : Prop :=
  ∃ c, mget t.ctxs ctx = some c ∧ mget c.rings q = some { r with head := r.head + 1, ready := none }

/-- A ring of a context. -/
def ringOf (s : State) (ctx q : Nat) : Option Ring := (mget s.ctxs ctx).bind (fun c => mget c.rings q)

/-- No wave and no group is in focus. -/
def Unfocused (s : State) : Prop := s.wave.name = 0 ∧ s.grp.name = 0

end Sys2Proof.Stated

section
open Sys2Proof Sys2Proof.Machine Sys2Proof.Stated

/-- WAVE_START AND WAVE_RETIRE (R36, R127, R249, R317): a wave begins with the values of R36: S0 to S3, every other register 0,
slot 0 at the kernel's entry with all lanes, slot 1 invalid, nothing pending; a wave without live lanes gives its frames back;
the last one takes its group along. -/
def Sys2Proof.Stated.WaveStartAndRetire : Prop :=
  (∀ (s : State) (n : Nat) (w : Wave), s.wave.name = 0 → mget s.waves n = some w →
    (s.waveStarts n = true → ∀ g, mget s.groups w.group = some g → s.grp.name = 0 →
      ∃ t v, exec (.waveStart n) s = .next t ∧ mget t.waves n = some v ∧ v.life = .running ∧ v.live = allLanes ∧
        v.slot0.pc = g.entry ∧ v.slot0.mask = allLanes ∧ v.slot0.level = allLanes ∧ v.slot0.valid = true ∧
        v.slot0.stk = [] ∧ v.slot0.sbase = 0 ∧ v.slot0.depth = 0 ∧ v.slot0.park = .no ∧ v.slot0.windows = [] ∧
        v.slot1.valid = false ∧ v.top.pending = false ∧ v.tokctr = 0 ∧ v.cur = 0 ∧ v.ftimer = 0 ∧
        (∀ i : Fin 7, ∀ k, k < 64 → lane (v.aregs.get i) k = 0) ∧ v.flags = 0 ∧ v.mark = 0 ∧ (∀ i : Fin 5, v.ecnt.get i = 0) ∧
        v.window = 0 ∧ (∀ k, k < 64 → lane v.draws k = 0) ∧ v.cycleHi = none ∧ v.timeHi = none ∧
        (∀ k, k < 64 → v.resvAt k = none) ∧ v.halted = false ∧ v.traps = [] ∧ v.fenced = none ∧
        (∀ i : Fin 56, v.sregs.get i = if i.val = 0 then loWord g.recAddr else if i.val = 1 then hiWord g.recAddr
          else if i.val = 2 then BitVec.ofNat 32 g.recLen else if i.val = 3 then BitVec.ofNat 32 g.index else 0) ∧
        v.frames = w.frames ∧ v.index = w.index ∧ t.spad = s.spad ∧ t.hbm = s.hbm ∧ t.groups = s.groups) ∧
    (s.waveStarts n = false → turnedAway (.waveStart n) "WAVE_START" s)) ∧
  (∀ (s : State) (n : Nat) (w : Wave), Present s n w →
    (s.waveRetires n = true →
      (∀ m x, m ≠ n → mget s.waves m = some x → x.group = w.group → x.index < 192 → x.life ≠ .done →
        ∃ t v, exec (.waveRetire n) s = .next t ∧ mget t.waves n = some v ∧ v.life = .done ∧ v.frames = [] ∧
          t.spad = s.spad ∧ t.ops = s.ops) ∧
      ((∀ p, p ∈ s.waves → p.2.group = w.group → p.1 ≠ n → p.2.life = .done) → mwf s.groups = true → mwf s.waves = true →
        (groupOf s w).name = w.group →
        ∃ t, exec (.waveRetire n) s = .next t ∧ mget t.groups w.group = none)) ∧
    (s.waveRetires n = false → turnedAway (.waveRetire n) "WAVE_RETIRE" s))

/-- DISPATCH AND ITS QUEUES (R247, R314, R316 to R319): the chosen queue's next group starts at the place that fits, on the
resources that its kernel names; timers of bins and queues act when they are due. -/
def Sys2Proof.Stated.LauncherQueues : Prop :=
  (∀ (s : State) (part n : Nat) (r : Ready) (cores : List Nat) (a b : Nat) (l : Launch) (bin : Bin) (x : Batch) (u : State)
      (k : Kernel) (pl : List PealDecl), s.wave.name = 0 → s.choice part = some (r, cores, a, b) → r.next = .fresh n →
    mget s.launches n = some l → s.binAt l.run l.node = some bin → bin.batchOf n = some x →
    s.readKernel l.ctx bin.node.kernel = (u, some (k, pl)) →
    ∃ t g, exec (.groupDispatch part) s = .next t ∧ mget t.groups s.names = some g ∧ g.state = .running ∧
      g.entry = k.entry ∧ g.waves = k.waves ∧ g.core0 = cores.headD 0 ∧ g.spadBase = a ∧ g.semBase = b ∧
      g.spadSize = k.spad ∧ g.gid = l.gbase + BitVec.ofNat 32 l.started ∧ g.launch = l.name) ∧
  (∀ (s : State) (part : Nat), s.wave.name = 0 → s.choice part = none →
    turnedAway (.groupDispatch part) "GROUP_DISPATCH" s) ∧
  (∀ (s : State) (run node : Nat) (r : Run) (b : Bin) (x : Batch), s.wave.name = 0 → mget s.runs run = some r →
    r.name = run → mget r.bins node = some b → b.batches.getLast? = some x →
    (s.binDue run node = true → ∃ t r' b', exec (.binTimerExpiry run node) s = .next t ∧ mget t.runs run = some r' ∧
      mget r'.bins node = some b' ∧ b'.next = (x.first + b.stretch) % 2 ^ 32 ∧
      (b'.batches.getLast?).map Batch.closed = some true ∧ t.waves = s.waves ∧ t.spad = s.spad) ∧
    (s.binDue run node = false → turnedAway (.binTimerExpiry run node) "BIN_TIMER_EXPIRY" s)) ∧
  (∀ (s : State) (ctx q : Nat) (l : LQueue), s.wave.name = 0 → s.queueAt ctx q = some l →
    (s.agingDue ctx q = true → ∃ t, exec (.queueAging ctx q) s = .next t ∧ t = { s with ctxs := t.ctxs } ∧
      t.queueAt ctx q = some { l with eff := l.eff + 1, readyFrom := l.readyFrom.map (· + 4 * 16000000) }) ∧
    (s.agingDue ctx q = false → turnedAway (.queueAging ctx q) "QUEUE_AGING" s) ∧
    (s.reservingDue ctx q = true → ∃ t, exec (.queueReserving ctx q) s = .next t ∧ t = { s with ctxs := t.ctxs } ∧
      t.queueAt ctx q = some { l with reserving := some s.time }) ∧
    (s.reservingDue ctx q = false → turnedAway (.queueReserving ctx q) "QUEUE_RESERVING" s))

/-- The PARK codes (R293): a sleep has ended before an image is written. -/
def parkCode : Park → Nat
  | .no | .sleep _ => 0
  | .topJoin => 1
  | .frame _ => 2
  | .count _ _ _ => 3
  | .barrier _ _ _ => 4
  | .sem _ _ _ _ => 5
  | .waitaddr _ _ _ _ _ _ _ => 6
  | .halt => 8

/-- The stack entries of a wave: slot 0's from the bottom up, then slot 1's (R293). -/
def stkOf (w : Wave) : List (Nat × StkEntry) := w.slot0.stk.map (Prod.mk 0) ++ w.slot1.stk.map (Prod.mk 1)
/-- Blocks of the frames of a wave. -/
def blocksIn (m : AMap Frame) : Nat := (m.map (fun p => p.2.blocks)).sum
/-- Bytes o.. of a record are the little-endian words of the lanes. -/
def lanesIn (r : List Byte) (o : Nat) (v : Lanes) : Prop := ∀ i, i < 64 → fieldAt r (o + 4 * i) 4 = (lane v i).toNat

/-- Slot k in a wave record (R293). -/
def slotRecord (s : State) (w : Wave) (k : Nat) (r : List Byte) : Prop :=
  let o := 320 + 32 * k
  let f := w.slotAt k
  fieldAt r o 4 = f.pc.toNat ∧ fieldAt r (o + 4) 1 = f.valid.toNat ∧ (f.park.code ≠ 7 → fieldAt r (o + 5) 1 = parkCode f.park) ∧
  fieldAt r (o + 6) 1 = f.sbase % 256 ∧ fieldAt r (o + 7) 1 = f.depth % 256 ∧ fieldAt r (o + 8) 8 = f.mask.toNat ∧
  fieldAt r (o + 16) 8 = f.level.toNat ∧ fieldAt r (o + 25) 7 = 0 ∧
  (parkCode f.park ≠ 5 → fieldAt r (o + 24) 1 = 255) ∧
  ∀ core n m d, f.park = .sem core n m d → ∀ pre x post, (mgetD (s.core core).sems n (0, [])).2 = pre ++ x :: post →
    x.wave = w.name → x.slot = k → (∀ y, y ∈ pre → ¬ (y.wave = w.name ∧ y.slot = k)) → fieldAt r (o + 24) 1 = pre.length % 256

/-- A stack entry in a wave record (R294). -/
def stackRecord (r : List Byte) (o k : Nat) (e : StkEntry) : Prop :=
  fieldAt r o 4 = e.jpc.toNat ∧ fieldAt r (o + 4) 4 = e.dpc.toNat ∧ fieldAt r (o + 8) 1 = e.token.toNat ∧
  fieldAt r (o + 9) 1 = e.fdepth % 256 ∧ fieldAt r (o + 10) 1 = k % 256 ∧ fieldAt r (o + 11) 5 = 0 ∧
  fieldAt r (o + 16) 8 = e.outer.toNat ∧ fieldAt r (o + 24) 8 = e.expect.toNat ∧ fieldAt r (o + 32) 8 = e.arrived.toNat ∧
  fieldAt r (o + 40) 8 = e.resume.toNat ∧ fieldAt r (o + 48) 8 = e.deferred.toNat ∧ fieldAt r (o + 56) 8 = 0

/-- A wave record with its stack entries and frame blocks (R293, R294). -/
def waveRecord (s : State) (w : Wave) (r : List Byte) : Prop :=
  r.length = 3584 + 64 * (stkOf w).length + 2048 * blocksIn w.frames ∧
  (∀ k : Fin 56, fieldAt r (4 * k.val) 4 = w.sregs[k].toNat) ∧
  fieldAt r 224 4 = w.flags.toNat ∧ fieldAt r 228 2 = w.window.toNat ∧ fieldAt r 230 1 = w.mark % 256 ∧
  fieldAt r 231 1 = w.tokctr.toNat ∧ fieldAt r 232 8 = w.live.toNat ∧
  (∀ c : Fin 5, fieldAt r 240 8 / 2 ^ (10 * c.val) % 1024 = w.ecnt[c] % 1024) ∧ fieldAt r 240 8 < 2 ^ 50 ∧
  fieldAt r 248 1 = w.cur % 2 + 2 * w.cycleHi.isSome.toNat + 4 * w.timeHi.isSome.toNat + 8 * w.halted.toNat +
    16 * (!w.traps.isEmpty).toNat ∧
  fieldAt r 249 1 = (stkOf w).length % 256 ∧ fieldAt r 250 2 = w.ftimer % 65536 ∧ fieldAt r 252 4 = blocksIn w.frames % 2 ^ 32 ∧
  (∀ x, w.cycleHi = some x → fieldAt r 256 4 = x.toNat) ∧ (∀ x, w.timeHi = some x → fieldAt r 260 4 = x.toNat) ∧
  fieldAt r 264 4 = w.top.jpc.toNat ∧ fieldAt r 268 1 = w.top.token.toNat ∧ fieldAt r 269 1 = w.top.hbase % 256 ∧
  fieldAt r 270 1 = w.top.sdepth % 256 ∧ fieldAt r 271 1 = w.top.pending.toNat ∧ fieldAt r 272 8 = w.top.outer.toNat ∧
  fieldAt r 280 8 = w.top.expect.toNat ∧ fieldAt r 288 8 = w.top.arrived.toNat ∧ fieldAt r 296 8 = w.top.resume.toNat ∧
  fieldAt r 304 16 = 0 ∧ fieldAt r 384 128 = 0 ∧ slotRecord s w 0 r ∧ slotRecord s w 1 r ∧ lanesIn r 512 w.draws ∧
  (∀ k : Fin 7, lanesIn r (768 + 256 * k.val) w.aregs[k]) ∧
  (∀ j, j < 128 → fieldAt r (2560 + 8 * j) 8 = match mget w.frames j with
    | some f => f.ret.toNat + f.blocks * 2 ^ 32 + 2 ^ 36
    | none => 0) ∧
  (∀ i k e, (stkOf w)[i]? = some (k, e) → stackRecord r (3584 + 64 * i) k e) ∧
  (∀ pre p post m v, w.frames = pre ++ p :: post → p.2.regs[m]? = some v →
    lanesIn r (3584 + 64 * (stkOf w).length + 2048 * blocksIn pre + 256 * m) v)

/-- A core section (R295). -/
def coreRecord (s : State) (g : Group) (core : Nat) (r : List Byte) : Prop :=
  let c := s.core core
  let o := g.spadSize
  r.length = o + 512 + (if g.matrix then 34880 else 0) ∧
  (∀ j, j < o → r.getD j 0 = cget 0 s.spad (spadAddr core g.spadBase + j)) ∧
  (∀ k, k < 64 → fieldAt r (o + 8 * k + 2) 6 = 0 ∧
    fieldAt r (o + 8 * k) 2 = (if k < g.semCount then (mgetD c.sems (g.semBase + k) (0, [])).1 % 65536 else 0)) ∧
  (g.matrix = true →
    (∀ j, j < 16384 → r.getD (o + 512 + j) 0 = cget 0 c.plane0 j ∧ r.getD (o + 512 + 16384 + j) 0 = cget 0 c.plane1 j) ∧
    (∀ j, j < 1024 → r.getD (o + 512 + 32768 + j) 0 = cget 0x7F#8 c.scale0 j ∧
      r.getD (o + 512 + 33792 + j) 0 = cget 0x7F#8 c.scale1 j) ∧
    fieldAt r (o + 512 + 34816) 1 = c.tag0.toNat ∧ fieldAt r (o + 512 + 34817) 1 = c.tag1.toNat ∧
    fieldAt r (o + 512 + 34818) 1 = c.active.toNat ∧ fieldAt r (o + 512 + 34819) 1 = 0 ∧
    (∀ k : Fin 4, fieldAt r (o + 512 + 34820 + 4 * k.val) 4 = c.msc[k].toNat) ∧ fieldAt r (o + 512 + 34836) 44 = 0)

/-- The page an operation is parked on. -/
def parkedPage (o : EngineOp) : Option Dword :=
  match o.state with
  | .parked p => some p
  | .going | .failed _ _ _ | .done => none

/-- An engine record (R296); `before`: the older operations of the image. What a copy that has not read its layout record, or an
operation that has ended, keeps as done is the model's (log 84). -/
def engineRecord (s : State) (before : List EngineOp) (o : EngineOp) (r : List Byte) : Prop :=
  fieldAt r 0 8 = o.causal.toNat ∧ fieldAt r 8 4 = o.pc.toNat ∧ fieldAt r 12 1 = clsIndex o.cls ∧
  (∀ w, s.waveAt o.wave = some w → fieldAt r 13 1 = w.index % 256) ∧ fieldAt r 14 1 = o.slot % 256 ∧
  fieldAt r 15 1 = (parkedPage o).isSome.toNat ∧
  fieldAt r 16 2 = (before.filter (fun x => x.wave == o.wave && x.cls == o.cls)).length % 65536 ∧
  fieldAt r 18 2 = o.sel.toNat ∧ fieldAt r 20 4 = r.length - 64 ∧ fieldAt r 24 8 = ((parkedPage o).getD 0).toNat ∧
  fieldAt r 32 32 = 0 ∧
  (∀ c, o.cls = .bcopy → o.kind = .copy c → r.length = 192 ∧
    (∀ x, c.recd = some x → x < 2 ^ 512 → fieldAt r 64 64 = x) ∧
    (o.ended = false → fieldAt r 128 8 = c.doneMap.toNat ∧ fieldAt r 136 4 = c.low % 2 ^ 32) ∧
    fieldAt r 140 4 = (c.bar.getD 0x80000000).toNat ∧ fieldAt r 144 1 = c.peal.getD 0 % 256 ∧
    fieldAt r 145 1 = c.peal.isSome.toNat ∧ fieldAt r 146 1 = c.nt.toNat ∧ fieldAt r 147 45 = 0) ∧
  (∀ g, o.cls = .gather → o.kind = .gather g → r.length = (if g.scatter then 1920 else 896) ∧
    fieldAt r 64 8 = (if o.ended then 0 else (g.left o.core).toNat) ∧ fieldAt r 72 1 = Nat.log2 g.size % 256 ∧
    fieldAt r 73 1 = g.nt.toNat ∧ fieldAt r 74 6 = 0 ∧ fieldAt r 848 48 = 0 ∧
    (∀ i, i < 64 → fieldAt r (80 + 8 * i) 8 = (g.ea.getD i 0).toNat ∧ fieldAt r (592 + 4 * i) 4 = (g.sa.getD i 0).toNat) ∧
    (g.scatter = true → ∀ i j, i < 64 → j < 16 → r.getD (896 + 16 * i + j) 0 = (g.data.getD i []).getD j 0))

/-- The fields of the header of an image of n bytes with a number of engine records (R292). -/
def headRecord (s : State) (g : Group) (reason code n records : Nat) (r : List Byte) : Prop :=
  r.length = 64 ∧ fieldAt r 0 2 = 0x4749 ∧ fieldAt r 2 2 = 1 ∧ fieldAt r 4 4 = g.spadSize ∧ fieldAt r 8 8 = s.time % 2 ^ 64 ∧
  fieldAt r 16 4 = g.semCount * 2 ^ 30 % 2 ^ 32 ∧ fieldAt r 20 1 = g.semCount / 4 + 32 * g.ordered.toNat + 64 * g.matrix.toNat + 128 * g.cluster.toNat ∧
  fieldAt r 21 1 = g.waves - 1 ∧ fieldAt r 22 2 = g.node ∧ fieldAt r 24 4 = g.gid.toNat ∧ fieldAt r 28 4 = g.lid.toNat ∧
  fieldAt r 32 1 = reason ∧ (g.trapped = [] → fieldAt r 33 1 = 0) ∧ (∀ p, p ∈ g.trapped → fieldAt r 33 1 ≤ p.1) ∧
  (g.trapped ≠ [] → ∃ p, p ∈ g.trapped ∧ fieldAt r 33 1 = p.1) ∧ fieldAt r 34 2 = code ∧
  (∀ p, p < 64 → (fieldAt r 36 8 / 2 ^ p % 2 = 1 ↔ ∃ e, e ∈ s.enrols ∧ e.group = g.name ∧ e.peal = p)) ∧
  fieldAt r 44 2 = 0 ∧ fieldAt r 46 2 = records ∧ fieldAt r 48 4 = n ∧ fieldAt r 52 4 = (g.chime.getD 0xFFFFFFFF).toNat ∧
  fieldAt r 56 8 = g.digest.toNat

/-- The parts of a list of records, each of which holds what belongs to its item. -/
def parts {α : Type} (items : List α) (b : List Byte) (P : List α → α → List Byte → Prop) : Prop :=
  ∃ rs, b = List.flatten rs ∧ rs.length = items.length ∧
    ∀ pre x post r, items = pre ++ x :: post → rs[pre.length]? = some r → P pre x r

/-- The image of a group (R292): header, wave records in logical wave order, core sections in CORE order, engine records. -/
def imageIs (s : State) (g : Group) (reason code : Nat) (b : List Byte) : Prop :=
  ∃ hd ws cs os, b = hd ++ ws ++ cs ++ os ∧ headRecord s g reason code b.length (s.savedOps g.name).length hd ∧
    parts (s.groupWaves g.name) ws (fun _ w r => waveRecord s w r) ∧
    parts g.cores cs (fun _ c r => coreRecord s g c r) ∧
    parts (s.savedOps g.name) os (fun before o r => engineRecord s before o r)

/-- The fields of a group fit the header's, and its frames hold the registers of their blocks. -/
def imageFits (s : State) (g : Group) (reason code : Nat) : Prop :=
  g.spadSize < 2 ^ 32 ∧ g.semCount ≤ 64 ∧ g.waves ≤ 256 ∧ g.node < 2 ^ 16 ∧ reason < 16 ∧ code < 2 ^ 16 ∧
  (∀ p, p ∈ g.trapped → p.1 < 256) ∧ (∀ e, e ∈ s.enrols → e.group = g.name → e.peal < 64) ∧
  (s.savedOps g.name).length < 2 ^ 16 ∧ (s.image g reason code).length < 2 ^ 32 ∧ (s.savedOps g.name).Pairwise (fun x y => x.name ≠ y.name) ∧
  ∀ w, w ∈ s.groupWaves g.name → ∀ p, p ∈ w.frames → p.2.regs.length = 8 * p.2.blocks ∧ p.2.blocks < 16

/-- THE IMAGE (R37, R288, R291 to R296): a drained group with room has its image written into the room, and is saved and off its
cores; where a page of the save area fails, it is as when room cannot be reserved. The state described is that after steps 3 and 4
of R288, with the enrolments from before them. -/
def Sys2Proof.Stated.ImageWritten : Prop :=
  ∀ (s : State) (n reason code : Nat) (g g' : Group), Unfocused s → mget s.groups n = some g → g.name = n → n ≠ 0 →
    g.state = .draining reason code true → s.chainStuck n = false → s.drained g = true →
    let u := (s.applyNotices.settleDrain g).deliverFaults n
    let v := { u with enrols := s.enrols }
    mget u.groups n = some g' → imageFits v g' reason code →
    ∃ b, imageIs v g' reason code b ∧ (b.length ≤ g'.imageLen →
      (∀ x, u.gwrite g'.start none g'.ctx (g'.image.toNat % 2 ^ 53) b false = (x, .ok ()) →
        ∃ t h, exec (.preemptDrainComplete n) s = .next t ∧ mget t.groups n = some h ∧ h.state = .saved ∧
          h.imageLen = b.length ∧ h.image = g'.image ∧ ∀ p, p ∈ t.waves → p.2.group ≠ n) ∧
      (∀ x e, u.gwrite g'.start none g'.ctx (g'.image.toNat % 2 ^ 53) b false = (x, .error e) →
        ∃ t h, exec (.preemptDrainComplete n) s = .next t ∧ mget t.groups n = some h ∧
          h.state = if reason = 0 then .running else .heldInPlace code))

/-- A slot of a wave record that can be read back (R297). -/
def slotSound (r : List Byte) (k : Nat) : Prop :=
  let o := 320 + 32 * k
  fieldAt r (o + 4) 1 < 2 ∧ fieldAt r (o + 7) 1 ≤ 63 ∧ fieldAt r (o + 25) 7 = 0
/-- The lanes of a slot of a wave record. -/
def maskIn (r : List Byte) (k : Nat) : Dword :=
  if fieldAt r (324 + 32 * k) 1 = 1 then BitVec.ofNat 64 (fieldAt r (328 + 32 * k) 8) else 0
/-- Blocks that frame record j of a wave record gives. -/
def blocksAt (r : List Byte) (j : Nat) : Nat :=
  let x := fieldAt r (2560 + 8 * j) 8
  if x / 2 ^ 36 % 2 = 1 then x / 2 ^ 32 % 16 else 0

/-- A wave record that passes (R297); `os`: the engine records of the image. -/
def waveSound (i : Nat) (r : List Byte) (os : List (List Byte)) : Prop :=
  fieldAt r 304 16 = 0 ∧ fieldAt r 384 128 = 0 ∧ fieldAt r 248 1 < 32 ∧ fieldAt r 224 4 < 64 ∧ fieldAt r 240 8 < 2 ^ 50 ∧
  slotSound r 0 ∧ slotSound r 1 ∧ maskIn r 0 &&& maskIn r 1 = 0 ∧
  (maskIn r 0 ||| maskIn r 1) &&& ~~~(BitVec.ofNat 64 (fieldAt r 232 8)) = 0 ∧ fieldAt r 249 1 ≤ 64 ∧
  (∀ j, j < fieldAt r 249 1 → fieldAt r (3584 + 64 * j + 11) 5 = 0 ∧ fieldAt r (3584 + 64 * j + 56) 8 = 0 ∧
    fieldAt r (3584 + 64 * j + 9) 1 ≤ 63 ∧ fieldAt r (3584 + 64 * j + 10) 1 < 2) ∧
  fieldAt r 230 1 ≤ 63 ∧ fieldAt r 270 1 ≤ 63 ∧ fieldAt r 271 1 < 2 ∧
  (∀ j, j < 128 → fieldAt r (2560 + 8 * j) 8 < 2 ^ 37) ∧ fieldAt r 252 4 = ((List.range 128).map (blocksAt r)).sum ∧
  ∀ c, c < 5 → (os.filter (fun x => fieldAt x 13 1 == i && fieldAt x 12 1 == c)).length ≤ fieldAt r 240 8 / 2 ^ (10 * c) % 1024

/-- A core section that passes. -/
def coreSound (g : Group) (r : List Byte) : Prop :=
  (∀ k, k < 64 → fieldAt r (g.spadSize + 8 * k + 2) 6 = 0 ∧ (g.semCount ≤ k → fieldAt r (g.spadSize + 8 * k) 2 = 0)) ∧
  (g.matrix = true → fieldAt r (g.spadSize + 512 + 34819) 1 = 0 ∧ fieldAt r (g.spadSize + 512 + 34836) 44 = 0 ∧
    fieldAt r (g.spadSize + 512 + 34818) 1 < 2)

/-- An engine record that passes. -/
def engineSound (g : Group) (r : List Byte) : Prop :=
  fieldAt r 32 32 = 0 ∧ fieldAt r 13 1 < g.waves ∧ fieldAt r 14 1 < 2 ∧ fieldAt r 15 1 < 2 ∧
  ((fieldAt r 12 1 = 0 ∧ fieldAt r 20 4 = 128 ∧ fieldAt r 147 45 = 0 ∧ fieldAt r 145 1 < 2 ∧ fieldAt r 146 1 < 2) ∨
   (fieldAt r 12 1 = 1 ∧ (fieldAt r 20 4 = 832 ∨ fieldAt r 20 4 = 1856) ∧ fieldAt r 74 6 = 0 ∧ fieldAt r 848 48 = 0 ∧
     fieldAt r 72 1 ≤ 4 ∧ fieldAt r 73 1 < 2))

/-- A header that passes for a group and an image of n bytes. -/
def headSound (g : Group) (n : Nat) (r : List Byte) : Prop :=
  fieldAt r 0 2 = 0x4749 ∧ fieldAt r 2 2 = 1 ∧ fieldAt r 16 4 % 2 ^ 30 = 0 ∧ fieldAt r 32 1 / 16 = 0 ∧ fieldAt r 44 2 = 0 ∧
  fieldAt r 48 4 = n ∧ fieldAt r 4 4 = g.spadSize ∧ fieldAt r 16 5 / 2 ^ 30 % 128 = g.semCount ∧ fieldAt r 20 1 / 32 % 2 = g.ordered.toNat ∧
  fieldAt r 20 1 / 64 % 2 = g.matrix.toNat ∧ fieldAt r 20 1 / 128 = g.cluster.toNat ∧ fieldAt r 21 1 = g.waves - 1

/-- An image that passes the checks of R297: its parts have the lengths that its counts say. That the header's sizes agree with the
group, and that fields stay within their ranges, the model checks with the reserved fields (log 43). -/
def imageSound (g : Group) (n : Nat) (b : List Byte) : Prop :=
  ∃ hd ws cs os, b = hd ++ List.flatten ws ++ List.flatten cs ++ List.flatten os ∧ b.length = n ∧ hd.length = 64 ∧
    ws.length = g.waves ∧ cs.length = g.cores.length ∧ os.length = fieldAt hd 46 2 ∧
    (∀ r, r ∈ ws → r.length = 3584 + 64 * fieldAt r 249 1 + 2048 * fieldAt r 252 4) ∧
    (∀ r, r ∈ cs → r.length = g.spadSize + 512 + if g.matrix then 34880 else 0) ∧
    (∀ r, r ∈ os → r.length = 64 + fieldAt r 20 4) ∧ headSound g n hd ∧
    (∀ i r, ws[i]? = some r → waveSound i r os) ∧ (∀ r, r ∈ cs → coreSound g r) ∧ (∀ r, r ∈ os → engineSound g r)

/-- RESTORING A GROUP (R297): an image that fails a check leaves the group saved; one that passes starts the group, with the
registers of its wave records and nothing reserved (where no fragment acquires a semaphore again, and no GROUP_RESUME skips). -/
def Sys2Proof.Stated.ImageRestored : Prop :=
  ∀ (s u : State) (n : Nat) (g : Group) (r : Ready) (cores : List Nat) (a c : Nat) (b : List Byte), Unfocused s →
    mget s.groups n = some g → g.name = n → n ≠ 0 → s.choice g.part = some (r, cores, a, c) → r.next = .restore n →
    (s.modLaunch g.launch (fun l => { l with restore := l.restore.filter (· != n) })).launcherRead g.ctx
      (g.image &&& 0x1FFFFFFFFFFFFF#64) g.imageLen = (u, some b) → b.length = g.imageLen →
    (¬ imageSound g g.imageLen b → ∃ t g', exec (.groupRestore n) s = .next t ∧ mget t.groups n = some g' ∧
      g'.state = g.state ∧ g'.resumed = none ∧ t.waves = s.waves) ∧
    (imageSound g g.imageLen b → ∃ t g', exec (.groupRestore n) s = .next t ∧ mget t.groups n = some g' ∧ g'.state ≠ .saved ∧
      (g.resumed = none → (∀ p, p ∈ s.waves → p.2.group ≠ n ∧ p.1 < s.names) →
        ∀ hd ws rest, b = hd ++ List.flatten ws ++ rest → hd.length = 64 → ws.length = g.waves →
          (∀ x, x ∈ ws → x.length = 3584 + 64 * fieldAt x 249 1 + 2048 * fieldAt x 252 4 ∧
            ∀ k, k < 2 → fieldAt x (325 + 32 * k) 1 ≠ 5) →
          g'.state = .running ∧ ∀ i x, ws[i]? = some x →
            ∃ w, (∃ m, mget t.waves m = some w) ∧ w.group = n ∧ w.index = i ∧
              (∀ k : Fin 56, w.sregs[k].toNat = fieldAt x (4 * k.val) 4) ∧ (∀ k : Fin 7, lanesIn x (768 + 256 * k.val) w.aregs[k]) ∧
              lanesIn x 512 w.draws ∧ w.flags.toNat = fieldAt x 224 4 ∧ w.window.toNat = fieldAt x 228 2 ∧
              w.mark = fieldAt x 230 1 ∧ w.live.toNat = fieldAt x 232 8 ∧ w.tokctr.toNat = fieldAt x 231 1 ∧
              (∀ k, k < 2 → (w.slotAt k).pc.toNat = fieldAt x (320 + 32 * k) 4 ∧
                (w.slotAt k).mask.toNat = fieldAt x (328 + 32 * k) 8) ∧
              ∀ k, k < 64 → w.resvAt k = none))

/-- DRAINS (R288, R289, R291, R297, R319): a group that the launcher takes drains when the save area has room for it; a
drained group without room goes on or is held in place; a saved group leaves the front of its launch when it is placed again.
When room is reserved, and where an image goes, are the model's readings (log 10, 43). -/
def Sys2Proof.Stated.GroupDrains : Prop :=
  (∀ (s : State) (n : Nat) (g : Group), Unfocused s → mget s.groups n = some g → g.name = n → n ≠ 0 →
    (s.preemptDue n = true → ((s.takeRoom g).2 = true → ∃ t g', exec (.preemptionRequest n) s = .next t ∧
        mget t.groups n = some g' ∧ g'.state = .draining 0 0 true ∧ t.waves = s.waves ∧ t.spad = s.spad) ∧
      ((s.takeRoom g).2 = false → ∃ t, exec (.preemptionRequest n) s = .next t ∧ t.groups = s.groups ∧
        t.waves = s.waves ∧ t.spad = s.spad)) ∧
    (s.preemptDue n = false → turnedAway (.preemptionRequest n) "PREEMPTION_REQUEST" s)) ∧
  (∀ (s : State) (n reason code : Nat) (room : Bool) (g : Group), Unfocused s → mget s.groups n = some g → g.name = n → n ≠ 0 →
    g.state = .draining reason code room → s.chainStuck n = false →
    (s.drained g = true → (∃ t, exec (.preemptDrainComplete n) s = .next t) ∧
      (room = false → ∃ t g', exec (.preemptDrainComplete n) s = .next t ∧ mget t.groups n = some g' ∧
        g'.state = if reason = 0 then .running else .heldInPlace code)) ∧
    (s.drained g = false → turnedAway (.preemptDrainComplete n) "PREEMPT_DRAIN_COMPLETE" s)) ∧
  (∀ (s : State) (n : Nat) (g : Group) (r : Ready) (cores : List Nat) (a b : Nat), Unfocused s → mget s.groups n = some g →
    g.name = n → n ≠ 0 → s.choice g.part = some (r, cores, a, b) →
    (r.next = .restore n → ∃ t, exec (.groupRestore n) s = .next t ∧
      (∀ l, mget t.launches g.launch = some l → n ∉ l.restore) ∧
      (((s.modLaunch g.launch (fun l => { l with restore := l.restore.filter (· != n) })).launcherRead g.ctx
          (g.image &&& 0x1FFFFFFFFFFFFF#64) g.imageLen).2 = none →
        ∃ g', mget t.groups n = some g' ∧ g'.state = g.state ∧ g'.resumed = none ∧ t.waves = s.waves)) ∧
    (r.next ≠ .restore n → turnedAway (.groupRestore n) "GROUP_RESTORE" s))

/-- PRE-EMPTION (R288, R289, R291 to R297, R319): drains, what an image holds, and what a restore reads. -/
def Obligations.GroupPreemption : Prop :=
  Sys2Proof.Stated.GroupDrains ∧ Sys2Proof.Stated.ImageWritten ∧ Sys2Proof.Stated.ImageRestored

/-- RING COMMANDS (R282, R286 to R288, R307 to R313): each acts when it stands at the head of its ring, and is consumed. A ring's
arrival and the acting of its command are two steps of the model (log 2), TAIL is taken by value (log 85), and that GROUP_DISCARD of a
group that is not saved makes it cancelled is the model's inference (log 50). -/
def Obligations.RingCommands : Prop :=
  (∀ (s : State) (src : RingSrc) (r : Ring), Unfocused s → ringOf s src.ctx src.queue = some r →
    (s.atRing src (.ringNop src) = true → ∃ t, exec (.ringNop src) s = .next t ∧ consumed t src.ctx src.queue r ∧
      t.waves = s.waves ∧ t.groups = s.groups ∧ t.spad = s.spad ∧ t.runs = s.runs ∧ t.ops = s.ops) ∧
    (s.atRing src (.ringNop src) = false → turnedAway (.ringNop src) "RING_NOP" s)) ∧
  (∀ (s : State) (src : RingSrc) (r : Ring) (gid : Word) (i : Instr) (nm : String), Unfocused s →
    ringOf s src.ctx src.queue = some r →
    ((i = .preempt src gid ∧ nm = "PREEMPT") ∨ (i = .groupDiscard src gid ∧ nm = "GROUP_DISCARD") ∨
      ∃ k, i = .groupResume src gid k ∧ nm = "GROUP_RESUME") →
    (s.atRing src i = true → (∃ t, exec i s = .next t) ∧
      (s.groupId src.ctx gid = none → ∃ t, exec i s = .next t ∧ consumed t src.ctx src.queue r ∧ t.waves = s.waves ∧
        t.groups = s.groups ∧ t.spad = s.spad)) ∧
    (s.atRing src i = false → turnedAway i nm s)) ∧
  (∀ (s : State) (src : RingSrc) (r : Ring) (gid : Word) (g : Group), Unfocused s → ringOf s src.ctx src.queue = some r →
    s.groupId src.ctx gid = some g → mget s.groups g.name = some g → g.name ≠ 0 →
    (s.atRing src (.preempt src gid) = true → g.state = .running ∨ g.state = .ending → (s.takeRoom g).2 = true →
      ∃ t g', exec (.preempt src gid) s = .next t ∧ consumed t src.ctx src.queue r ∧ mget t.groups g.name = some g' ∧
        g'.state = .draining 0 0 true ∧ t.waves = s.waves ∧ t.spad = s.spad) ∧
    (s.atRing src (.groupDiscard src gid) = true → g.state ≠ .saved → ∃ t g', exec (.groupDiscard src gid) s = .next t ∧
      mget t.groups g.name = some g' ∧ g'.state = .cancelled) ∧
    (∀ k code, s.atRing src (.groupResume src gid k) = true → g.state = .heldInPlace code →
      ∃ t g', exec (.groupResume src gid k) s = .next t ∧ consumed t src.ctx src.queue r ∧ mget t.groups g.name = some g' ∧
        g'.state = .running ∧ g'.trapped = [] ∧ t.spad = s.spad)) ∧
  (∀ (s : State) (src : RingSrc) (r : Ring) (page : Dword) (all : Bool), Unfocused s → ringOf s src.ctx src.queue = some r →
    (s.atRing src (.faultResume src page all) = true → ∃ t, exec (.faultResume src page all) s = .next t ∧
      consumed t src.ctx src.queue r ∧ t.spad = s.spad ∧ t.groups = s.groups ∧
      ∀ (k : Nat) (o : EngineOp) (p : Dword) (g : Group), s.ops[k]? = some o → o.state = .parked p →
        mget s.groups o.group = some g → (g.ctx = src.ctx ∧ (all = true ∨ p.toNat / 8192 = page.toNat / 8192) →
          t.ops[k]? = some { o with state := .going }) ∧
        (¬ (g.ctx = src.ctx ∧ (all = true ∨ p.toNat / 8192 = page.toNat / 8192)) → t.ops[k]? = some o)) ∧
    (s.atRing src (.faultResume src page all) = false → turnedAway (.faultResume src page all) "FAULT_RESUME" s)) ∧
  (∀ (s : State) (src : RingSrc) (q : Ring) (num : Word) (node : Nat) (k : Bool), Unfocused s →
    ringOf s src.ctx src.queue = some q →
    (s.atRing src (.thawBin src num node k) = true → (∃ t, exec (.thawBin src num node k) s = .next t) ∧
      ((s.runs.map Prod.snd).find? (fun r => r.ctx == src.ctx && r.number == num) = none →
        ∃ t, exec (.thawBin src num node k) s = .next t ∧ consumed t src.ctx src.queue q ∧ t.runs = s.runs ∧
          t.launches = s.launches) ∧
      (∀ r b, (s.runs.map Prod.snd).find? (fun r => r.ctx == src.ctx && r.number == num) = some r → node < r.nodes →
        mget s.runs r.name = some r → (∀ p, p ∈ s.runs → p.2.name = r.name → p.2 = r) → mwf r.bins = true →
        mget r.bins node = some b → b.frozen ≠ none → k = false → s.heldOf r.name node = [] →
        b.node.good = true → ∃ t, exec (.thawBin src num node k) s = .next t ∧
          ∀ r', mget t.runs r.name = some r' → ∀ b', mget r'.bins node = some b' → b'.frozen = none)) ∧
    (s.atRing src (.thawBin src num node k) = false → turnedAway (.thawBin src num node k) "THAW_BIN" s)) ∧
  (∀ (s : State) (src : RingSrc) (q : Ring) (c : Ctx) (cmd : LaunchCmd), Unfocused s → ringOf s src.ctx src.queue = some q →
    mget s.ctxs src.ctx = some c → s.pendingRun src = none →
    (s.launchReady src cmd = true → ((s.graphOf src.ctx cmd).2 = none → ∃ t, exec (.launchGraph src cmd) s = .next t ∧
        consumed t src.ctx src.queue q ∧ t.runs = s.runs ∧ t.groups = s.groups) ∧
      (∀ x, (s.graphOf src.ctx cmd).2 = some x → ∃ t c', exec (.launchGraph src cmd) s = .next t ∧
        consumed t src.ctx src.queue q ∧ mget t.ctxs src.ctx = some c' ∧
        c'.nextRun = s.runNumber src.ctx (s.runs.length + 4) c.nextRun + 1)) ∧
    (s.launchReady src cmd = false → turnedAway (.launchGraph src cmd) "LAUNCH_GRAPH" s)) ∧
  (∀ (s u : State) (ctx q x : Nat) (r : Ring) (i : Instr), Unfocused s → ringOf s ctx q = some r →
    s.ringEntry ctx q = (u, some x) →
    ((q ≠ 16 ∧ queueEntry ⟨ctx, q, u.nextId unitLauncher⟩ x = some i) ∨
      (q = 16 ∧ controlEntry ⟨s.partOf ctx, u.nextId unitLauncher, BitVec.ofNat 64 (bits x 95 32)⟩ x = some i)) →
    ∃ t r', exec (.ringTailWrite ctx q) s = .next t ∧ ringOf u ctx q = some r' ∧ r'.head = r.head ∧ r'.block = r.block ∧
      ringOf t ctx q = some { r' with ready := some i } ∧ t.waves = s.waves ∧ t.groups = s.groups ∧ t.spad = s.spad) ∧
  (∀ (s : State) (ctx q : Nat), Unfocused s → (s.ringEntry ctx q).2 = none →
    turnedAway (.ringTailWrite ctx q) "RING_TAIL_WRITE" s)


/-- WAVES AND THE LAUNCHER (R36, R127, R247, R249, R314, R316 to R319). -/
def Obligations.WavesAndLauncher : Prop := Sys2Proof.Stated.WaveStartAndRetire ∧ Sys2Proof.Stated.LauncherQueues

end

namespace Sys2Proof.Stated
open Sys2Proof.Machine

/-! ## Control commands (spec/15, spec/17) -/

/-- A control command may begin, and its result record can be written (R396). -/
def Begins (s : State) (src : CtlSrc) (i : Instr) : Prop := Unfocused s ∧ s.atCtl src i = true ∧ s.resultOk src = true

/-- The state in which a command acts: its entry has been consumed. -/
def taken (s : State) (src : CtlSrc) : State := s.ringDone (s.ctrlOf src.part) 16

/-- The commands of control rings that begin by consuming their entry, with their names (R397). -/
def ctlName : Instr → Option (CtlSrc × String)
  | .ctxCreate src _ => some (src, "CTX_CREATE")
  | .tlbInval src _ _ _ _ => some (src, "TLB_INVAL")
  | .windowSet src _ _ _ => some (src, "WINDOW_SET")
  | .windowAccept src _ _ _ _ => some (src, "WINDOW_ACCEPT")
  | .windowRetire src _ _ _ _ => some (src, "WINDOW_RETIRE")
  | .hostwinSet src _ _ _ => some (src, "HOSTWIN_SET")
  | .qpSet src _ _ _ _ => some (src, "QP_SET")
  | .notifySet src _ _ _ _ => some (src, "NOTIFY_SET")
  | .commSet src _ _ _ => some (src, "COMM_SET")
  | .traceRead src _ _ _ => some (src, "TRACE_READ")
  | .knell src _ _ _ _ => some (src, "KNELL")
  | .watchSet src _ _ _ _ => some (src, "WATCH_SET")
  | .energyRead src _ _ => some (src, "ENERGY_READ")
  | .quote src _ _ => some (src, "QUOTE")
  | .partSet src _ _ => some (src, "PART_SET")
  | .partReset src _ => some (src, "PART_RESET")
  | .partDestroy src _ => some (src, "PART_DESTROY")
  | .routeSet src _ _ => some (src, "ROUTE_SET")
  | .configWrite src _ => some (src, "CONFIG_WRITE")
  | .firmwareWrite src _ _ => some (src, "FIRMWARE_WRITE")
  | _ => none

/-- The context that a command about one context names. -/
def ctlCtx : Instr → Option Nat
  | .tlbInval _ c _ _ _ | .windowSet _ c _ _ | .windowAccept _ c _ _ _ | .windowRetire _ c _ _ _ | .hostwinSet _ c _ _
  | .notifySet _ c _ _ _ | .watchSet _ c _ _ _ => some c
  | _ => none

/-- The commands of the management partition. -/
def ofManagement : Instr → Bool
  | .partSet _ _ _ | .partReset _ _ | .partDestroy _ _ | .routeSet _ _ _ | .configWrite _ _ | .firmwareWrite _ _ _ => true
  | _ => false

end Sys2Proof.Stated

section
open Sys2Proof Sys2Proof.Machine Sys2Proof.Stated

/-- HOW A CONTROL COMMAND RUNS (R396, R397): it waits for its place; one whose result cannot be written is consumed without
effect; a context that is not the partition's gets STATUS 2 or 1, and a management command of a tenant STATUS 2. Which of
STATUS 1 and 2 a context gets is the model's reading (log 37). -/
def Obligations.ControlCommandFrame : Prop :=
  ∀ (s : State) (i : Instr) (src : CtlSrc) (nm : String), s.wave.name = 0 → ctlName i = some (src, nm) →
    (s.atCtl src i = false → turnedAway i nm s) ∧
    (s.atCtl src i = true → s.resultOk src = false → exec i s = .next (taken s src)) ∧
    (s.atCtl src i = true → s.resultOk src = true → ∀ c, ctlCtx i = some c → (taken s src).ownsCtx src.part c = false →
      exec i s = .next ((taken s src).ctlEnd src ((taken s src).denied c) 0)) ∧
    (s.atCtl src i = true → s.resultOk src = true → ofManagement i = true → src.part ≠ 0 →
      exec i s = .next ((taken s src).ctlEnd src 2 0))

/-- COMMANDS ABOUT CONTEXTS (R306, R336, R390, R397): CTX_CREATE makes the context that its descriptor describes; CTX_DESTROY
begins to end one and removes it when nothing of it is left; TLB_INVAL leaves no translation of its range; WATCH_SET and
NOTIFY_SET change the settings they name; COMM_SET and ROUTE_SET enter their lists. LOG2 0 of NOTIFY_SET, the HEAD of a new
ring, package-wide communicator ids and bytes of ROUTE_SET that name no port are the model's readings (log 41, 42, 49, 99). -/
def Obligations.ContextCommands : Prop :=
  (∀ (s u : State) (src : CtlSrc) (a : Dword) (b : List Byte), Begins s src (.ctxCreate src a) →
    (taken s src).ctlRead src a 64 = (u, some b) →
    (ctxDescOk (leNat b) src.part = true → mget s.ctxs (bits (leNat b) 43 32) = none →
      ∃ t c, exec (.ctxCreate src a) s = .next t ∧ mget t.ctxs (bits (leNat b) 43 32) = some c ∧
        c.id = bits (leNat b) 43 32 ∧ c.part = src.part ∧ c.control = false ∧
        c.ptRoot = BitVec.ofNat 64 (bits (leNat b) 191 128) ∧ c.fqBase = BitVec.ofNat 64 (bits (leNat b) 255 192) ∧
        c.queues = BitVec.ofNat 16 (bits (leNat b) 79 64) ∧ c.promise = (leNat b).testBit 92) ∧
    (ctxDescOk (leNat b) src.part = false → ∃ t, exec (.ctxCreate src a) s = .next t ∧ t = u.ctlEnd src 1 0)) ∧
  (∀ (s : State) (src : CtlSrc) (ctx : Nat) (c : Ctx), Unfocused s → mget s.ctxs ctx = some c → c.part = src.part →
    c.control = false → s.resultOk src = true →
    (c.ending = false → s.atCtl src (.ctxDestroy src ctx) = true → ∃ t c', exec (.ctxDestroy src ctx) s = .next t ∧
      mget t.ctxs ctx = some c' ∧ c'.ending = true) ∧
    (c.ending = true → s.atCtl src (.ctxDestroy src ctx) = true → s.ctxQuiet ctx = true → mwf s.ctxs = true →
      ∃ t, exec (.ctxDestroy src ctx) s = .next t ∧ mget t.ctxs ctx = none) ∧
    (s.atCtl src (.ctxDestroy src ctx) = false → turnedAway (.ctxDestroy src ctx) "CTX_DESTROY" s)) ∧
  (∀ (s : State) (src : CtlSrc) (ctx : Nat) (v : BitVec 40) (n : Nat) (f : Bool), Begins s src (.tlbInval src ctx v n f) →
    (taken s src).ownsCtx src.part ctx = true → ∃ t k, exec (.tlbInval src ctx v n f) s = .next t ∧
      (∀ x, x ∈ t.tlbs → x.hits ctx v.toNat n = false) ∧ t.invals = s.invals ++ [(⟨k, src, ctx⟩ : Inval)] ∧ t.spad = s.spad) ∧
  (∀ (s : State) (n : Nat), s.wave.name = 0 →
    (∀ v, s.invals.find? (fun x => x.name == n) = some v → ∃ t, exec (.invalidationComplete n) s = .next t ∧
      t.invals = s.invals.filter (fun x => x.name != n) ∧ t.spad = s.spad) ∧
    (s.invals.find? (fun x => x.name == n) = none → turnedAway (.invalidationComplete n) "INVALIDATION_COMPLETE" s)) ∧
  (∀ (s : State) (src : CtlSrc) (ctx : Nat) (b f k : Word) (c : Ctx), Begins s src (.watchSet src ctx b f k) →
    (taken s src).ownsCtx src.part ctx = true → mget s.ctxs ctx = some c → ∃ t c', exec (.watchSet src ctx b f k) s = .next t ∧
      mget t.ctxs ctx = some c' ∧ c'.watchBar = (if b = 0 then c.watchBar else b) ∧
      c'.watchFrm = (if f = 0 then c.watchFrm else f) ∧ c'.watchColl = (if k = 0 then c.watchColl else k)) ∧
  (∀ (s : State) (src : CtlSrc) (ctx : Nat) (ring : Dword) (g q : Nat), Begins s src (.notifySet src ctx ring g q) →
    (taken s src).ownsCtx src.part ctx = true → q ≤ ((mget s.parts src.part).map Part.qpMax).getD 0 →
    ∃ t c', exec (.notifySet src ctx ring g q) s = .next t ∧ mget t.ctxs ctx = some c' ∧
      c'.notify = some (ring, if g = 0 then 16 else g, q) ∧ c'.notified = 0 ∧ c'.consumed = 0) ∧
  (∀ (s u : State) (src : CtlSrc) (n : Nat) (a : Dword) (k : Nat) (b : List Byte) (l : List (Nat × Nat)),
    Begins s src (.commSet src n a k) → (taken s src).ctlRead src a (8 * k) = (u, some b) → ranksOf k b = some l →
    a.toNat % 8 = 0 → l.eraseDups.length = l.length →
    (∃ r, r ∈ l ∧ r.1 = s.hub.config.device ∧ u.ownsCtx src.part r.2 = true) →
    ∃ t, exec (.commSet src n a k) s = .next t ∧ mget t.comms n = some ⟨src.part, l, [], []⟩) ∧
  (∀ (s u : State) (src : CtlSrc) (d : Nat) (a : Dword) (b : List Byte), Begins s src (.routeSet src d a) → src.part = 0 →
    (taken s src).ctlRead src a 8 = (u, some b) → d ≤ 1023 → ∃ t, exec (.routeSet src d a) s = .next t ∧
      mget t.routes d = some ((b.map BitVec.toNat).filter (· < 128)))

/-- WINDOWS, HOST WINDOWS AND QUEUE PAIRS (R360, R367, R370, R398): each command enters what its bytes say; WINDOW_ACCEPT
opens an inbound entry with GEN 0, WINDOW_RETIRE closes it and sends the notice, RETIRE_COMPLETE ends the retirement. Which
records are refused, and what is taken while the fabric is absent, is the model's reading (log 38, 88). -/
def Obligations.WindowCommands : Prop :=
  (∀ (s u : State) (src : CtlSrc) (ctx sel : Nat) (a : Dword) (b : List Byte), Begins s src (.windowSet src ctx sel a) →
    (taken s src).ownsCtx src.part ctx = true → (taken s src).ctlRead src a 16 = (u, some b) →
    (sel ≠ 0 → ((winOf (leNat b)).v = true → (winOf (leNat b)).pages ≠ 0) → ∃ t, exec (.windowSet src ctx sel a) s = .next t ∧
      mget t.windows (ctx * 4096 + sel) = some (winOf (leNat b))) ∧
    (sel = 0 → exec (.windowSet src ctx sel a) s = .next (u.ctlEnd src 1 0))) ∧
  (∀ (s : State) (src : CtlSrc) (ctx dev sctx sel : Nat), Begins s src (.windowAccept src ctx dev sctx sel) →
    (taken s src).ownsCtx src.part ctx = true → sel ≠ 0 →
    (s.inboundAt dev sctx sel = none → ∃ t, exec (.windowAccept src ctx dev sctx sel) s = .next t ∧
      t.inbound = s.inbound ++ [(⟨ctx, dev, sctx, sel, 0, true, none, false⟩ : Inbound)]) ∧
    (∀ b, s.inboundAt dev sctx sel = some b → b.isOpen = false → b.retiring = none →
      ∃ t b', exec (.windowAccept src ctx dev sctx sel) s = .next t ∧ b' ∈ t.inbound ∧ b'.isOpen = true ∧ b'.ctx = ctx ∧
        b'.gen = b.gen)) ∧
  (∀ (s : State) (src : CtlSrc) (ctx dev sctx sel : Nat) (b : Inbound), Begins s src (.windowRetire src ctx dev sctx sel) →
    (taken s src).ownsCtx src.part ctx = true → s.inboundAt dev sctx sel = some b → b.ctx = ctx → b.isOpen = true →
    ∃ t b', exec (.windowRetire src ctx dev sctx sel) s = .next t ∧ b' ∈ t.inbound ∧ b'.isOpen = false ∧
      b'.gen = (b.gen + 1) % 4096 ∧ b'.retiring = some src ∧ .retireNotice b.dev b.sctx b.sel b.gen ∈ t.outbox) ∧
  (∀ (s : State) (n : Nat), s.wave.name = 0 →
    (∀ b src, s.inbound[n]? = some b → b.retiring = some src → ∃ t b', exec (.retireComplete n) s = .next t ∧
      b' ∈ t.inbound ∧ b' = { b with retiring := none } ∧ b ∉ t.inbound ∧ t.windows = s.windows) ∧
    ((∀ b, s.inbound[n]? = some b → b.retiring = none) → turnedAway (.retireComplete n) "RETIRE_COMPLETE" s)) ∧
  (∀ (s u : State) (src : CtlSrc) (ctx idx : Nat) (a : Dword) (b : List Byte), Begins s src (.hostwinSet src ctx idx a) →
    (taken s src).ownsCtx src.part ctx = true → (taken s src).ctlRead src a 32 = (u, some b) →
    (bits (leNat b) 111 4 = 0 → ∃ t, exec (.hostwinSet src ctx idx a) s = .next t ∧
      mget t.hostWin (ctx * 64 + idx) = some (hostWinOf (leNat b))) ∧
    (bits (leNat b) 111 4 ≠ 0 → exec (.hostwinSet src ctx idx a) s = .next (u.ctlEnd src 1 0))) ∧
  (∀ (s u : State) (src : CtlSrc) (qp : Nat) (bind : Bool) (ctx va : Nat) (a : Dword) (b : List Byte),
    Begins s src (.qpSet src qp bind ctx a) → (taken s src).ctlRead src a 64 = (u, some b) →
    u.ownsCtx src.part (if bind then (taken s src).ctrlOf src.part else ctx) = true → attrBad (leNat b) = false →
    tableVa (BitVec.ofNat 64 (bits (leNat b) 511 448)) = some va → va % 4 = 0 →
    u.writable (if bind then (taken s src).ctrlOf src.part else ctx) va 4 = true →
    qp ≤ ((mget u.parts src.part).map Part.qpMax).getD 0 → ∃ t, exec (.qpSet src qp bind ctx a) s = .next t ∧
      mget t.qps (qpKey src.part qp) =
        some (qpOf (leNat b) (if bind then (taken s src).ctrlOf src.part else ctx) bind))

/-- READOUTS (R382, R385, R407, R411): TRACE_READ, KNELL, ENERGY_READ and QUOTE write what they read into their buffers, then
end with STATUS 0; a buffer that cannot be written gives STATUS 1; QUOTE gives STATUS 3 once the keys are erased. STATUS 1 of
a buffer, and what a knell readout leaves out, are the model's readings (log 39, 59). -/
def Obligations.ReadoutCommands : Prop :=
  (∀ (s u : State) (src : CtlSrc) (first n : Nat) (a : Dword) (ok : Bool), Begins s src (.traceRead src first n a) →
    (taken s src).ctlWrite src a ((taken s src).tabor.readout src.part first n) = (u, ok) →
    exec (.traceRead src first n a) s = .next (u.ctlEnd src (if ok then 0 else 1) 0)) ∧
  (∀ (s : State) (src : CtlSrc) (sc ctx n : Nat) (a : Dword), Begins s src (.knell src sc ctx a n) →
    (sc = 3 → exec (.knell src sc ctx a n) s = .next ((taken s src).ctlEnd src 1 0)) ∧
    (sc = 2 → src.part ≠ 0 → exec (.knell src sc ctx a n) s = .next ((taken s src).ctlEnd src 2 0)) ∧
    (sc = 1 → ∀ u b k cut, fitWaiters n (taken s src).time ((taken s src).waits.filter (fun w => w.part == src.part)) 0 =
        (b, k, cut) →
      (taken s src).ctlWrite src a (leBytes 64 ((taken s src).time % 2 ^ 64 + (taken s src).time % 2 ^ 64 * 2 ^ 64 +
        k * 2 ^ 128 + b2n cut * 2 ^ 160) ++ b) = (u, true) →
      exec (.knell src sc ctx a n) s = .next ((u.emitN src.part unitTabor 0x0806 src.causal 0 k).ctlEnd src 0 0))) ∧
  (∀ (s : State) (src : CtlSrc) (ctx : Nat) (a : Dword), Begins s src (.energyRead src ctx a) →
    (ctx = 0xFFF → ∀ u v b, (taken s src).takeReading src.part none 0 = (u, b) → u.ctlWrite src a b = (v, true) →
      exec (.energyRead src ctx a) s = .next (v.ctlEnd src 0 0)) ∧
    (ctx ≠ 0xFFF → (taken s src).ownsCtx src.part ctx = true → ∀ u v b,
      (taken s src).takeReading src.part (some ctx) 0 = (u, b) → u.ctlWrite src a b = (v, true) →
      exec (.energyRead src ctx a) s = .next (v.ctlEnd src 0 0)) ∧
    (ctx ≠ 0xFFF → (taken s src).ownsCtx src.part ctx = false →
      exec (.energyRead src ctx a) s = .next ((taken s src).ctlEnd src ((taken s src).denied ctx) 0))) ∧
  (∀ (s : State) (src : CtlSrc) (n a : Dword), Begins s src (.quote src n a) →
    (s.hub.erased = true → exec (.quote src n a) s = .next ((taken s src).ctlEnd src 3 0)) ∧
    (s.hub.erased = false → ∀ u v b ok, (taken s src).ctlRead src n 64 = (u, some b) →
      u.ctlWrite src a (u.quoteBody src.part b ++ u.signature (u.quoteBody src.part b) ++ u.aliasPublic) = (v, ok) →
      exec (.quote src n a) s = .next (v.ctlEnd src (if ok then 0 else 1) 0)))

/-- PARTITIONS, CONFIGURATION AND FIRMWARE (R394, R397, R402, R403, R405): PART_SET makes the partition of its record and its
control context; PART_RESET and PART_DESTROY begin a reset, whose end clears the cores and ends the partition that is to be
destroyed; a verified record or image goes to flash, any other leaves it as it is. What of a record PART_SET looks at, and
when the readings of a reset are taken, are the model's readings (log 32, 33). -/
def Obligations.PartitionCommands : Prop :=
  (∀ (s u : State) (src : CtlSrc) (p : Nat) (a : Dword) (b : List Byte), Begins s src (.partSet src p a) → src.part = 0 →
    (taken s src).ctlRead src a 64 = (u, some b) →
    (u.partRefused p (leNat b) = true → exec (.partSet src p a) s = .next (u.ctlEnd src 1 0)) ∧
    (u.partRefused p (leNat b) = false → ∃ t x c, exec (.partSet src p a) s = .next t ∧ mget t.parts p = some x ∧
      x.ctrlCtx = bits (leNat b) 115 104 ∧ x.clusters = BitVec.ofNat 128 (bits (leNat b) 255 128) ∧
      x.units = unitsOf (leNat b) ∧ x.qpMax = bits (leNat b) 123 116 ∧ x.resetting = none ∧
      mget t.ctxs x.ctrlCtx = some c ∧ c.part = p ∧ c.control = true ∧
      c.ptRoot = BitVec.ofNat 64 (bits (leNat b) 511 448))) ∧
  (∀ (s : State) (src : CtlSrc) (p : Nat) (x : Part) (i : Instr) (d : Bool),
    (i = .partReset src p ∧ d = false) ∨ (i = .partDestroy src p ∧ d = true) → Begins s src i → src.part = 0 →
    (p = 0 → exec i s = .next ((taken s src).ctlEnd src 1 0)) ∧
    (p ≠ 0 → mget s.parts p = some x → ∃ t y, exec i s = .next t ∧ mget t.parts p = some y ∧
      y.resetting = some (4, src, d) ∧ y.clusters = x.clusters ∧ y.units = x.units)) ∧
  (∀ (s : State) (p k : Nat) (x : Part) (src : CtlSrc) (d : Bool), Unfocused s → mget s.parts p = some x →
    x.resetting = some (k, src, d) →
    (s.partQuiet p = true → ∃ t, exec (.partResetEnginesEnded p) s = .next t ∧
      (∀ c off, c ∈ x.cores → off < 2 ^ 20 → cget 0 t.spad (spadAddr c off) = 0) ∧
      (d = false → ∃ y, mget t.parts p = some y ∧ y.resetting = none) ∧
      (d = true → mwf s.parts = true → mget t.parts p = none)) ∧
    (s.partQuiet p = false → turnedAway (.partResetEnginesEnded p) "PART_RESET_ENGINES_ENDED" s)) ∧
  (∀ (s u : State) (src : CtlSrc) (a : Dword) (b : List Byte), Begins s src (.configWrite src a) → src.part = 0 →
    (taken s src).ctlRead src a signedLen = (u, some b) → ∃ t, exec (.configWrite src a) s = .next t ∧
      t.hub.config = s.hub.config ∧
      t.hub.flash = if configOk b then cwrite 0 s.hub.flash 0 b else s.hub.flash) ∧
  (∀ (s u : State) (src : CtlSrc) (a : Dword) (n : Nat) (b : List Byte), Begins s src (.firmwareWrite src a n) → src.part = 0 →
    (n ≤ flashLen - imageAt → (taken s src).ctlRead src a n = (u, some b) → ∃ t, exec (.firmwareWrite src a n) s = .next t ∧
      t.hub.config = s.hub.config ∧ t.hub.flash = if imageOk s.hub.config.minSvn b then
        cwrite 0 (cclear s.hub.flash imageAt flashLen) imageAt b else s.hub.flash) ∧
    (flashLen - imageAt < n → exec (.firmwareWrite src a n) s = .next ((taken s src).ctlEnd src 1 0)))


end

namespace Sys2Proof.Stated
open Sys2Proof.Machine

/-! ## Packets and hosts (95, spec/14, spec/15) -/

/-- A packet for this package arrives whole at a port that is up. -/
def Arrives (s : State) (port : Nat) (p : Packet) : Prop :=
  Unfocused s ∧ s.hub.pkg = .running ∧ s.portUp port = true ∧ p.hchk ≠ .uncorrectable ∧ p.dst = s.hub.config.device

/-- The state once the port has taken a packet (R364). -/
def landed (s : State) (port : Nat) : State := s.modPort port (fun x => { x with beat := none, failed := 0 })

/-- The state in which a request is served: identifiers older than 1 ms are forgotten (R366), and an ordered request waits
for what came before it (R363). -/
def serving (s : State) (port : Nat) (p : Packet) : State :=
  let u : State := { landed s port with performed := s.performed.filter (fun x => s.time ≤ x.time + 16000000) }
  if p.cls = 2 then u.applyNotices else u

/-- The request has not been performed before. -/
def Fresh (s : State) (p : Packet) : Prop :=
  ∀ x, x ∈ s.performed → s.time ≤ x.time + 16000000 → ¬ (x.src = p.src ∧ x.causal = p.causal ∧ x.tag = p.tag)

/-- A packet with an identifier that stands among those performed gets its old answer again, and changes no memory. -/
def repeated (s t : State) (p : Packet) : Prop :=
  (∃ x, x ∈ s.performed ∧ s.time ≤ x.time + 16000000 ∧ x.src = p.src ∧ x.causal = p.causal ∧ x.tag = p.tag) →
    t.hbm = s.hbm ∧ t.l2 = s.l2 ∧ t.performed = s.performed.filter (fun x => s.time ≤ x.time + 16000000)

/-- A host's request on a queue pair that is ready. -/
def Requests (s : State) (q : QpRef) (p : Qp) : Prop :=
  Unfocused s ∧ s.hub.pkg = .running ∧ s.qpAt q = some p ∧ p.state = .ready

/-- A negative answer: the queue pair is in the error state (R369). -/
def refusedHost (t : State) (q : QpRef) (invalid : Bool) : Prop :=
  (∃ p, t.qpAt q = some p ∧ p.state = .error) ∧ .answer q false invalid [] ∈ t.outbox

/-- The answers that a package as a source takes, with their kinds. -/
def answerKind (port : Nat) (p : Packet) : Instr → Option PKind
  | .fabricReadResponse a b => if a = port ∧ b = p then some .readResp else none
  | .fabricAtomicResponse a b => if a = port ∧ b = p then some .atomResp else none
  | .fabricAcknowledgement a b => if a = port ∧ b = p then some .ack else none
  | _ => none

end Sys2Proof.Stated

section
open Sys2Proof Sys2Proof.Machine Sys2Proof.Stated

/-- REQUESTS FROM OTHER PACKAGES (R361, R362, R366, R367): performed once at the home slices of the target context and
recorded with their answer; a repeat changes nothing; one under another generation gets the retire NACK. What a target
without an open entry answers, and which packets it ignores, are the model's readings (log 26, 27), and so are the place that an answer
names and its entry's base (log 18), length 64 for a GCHUNK's request (log 19), and that a class 2 packet takes the pending notices at
once (log 58). -/
def Obligations.FabricRequests : Prop :=
  (∀ (s : State) (port : Nat) (p : Packet) (b : Inbound), Arrives s port p → Fresh s p →
    s.inboundAt p.src p.ctx p.window = some b → b.gen = p.gen → b.isOpen = true →
    p.base * 8192 + p.offset.toNat + p.len ≤ 2 ^ 53 →
    (∀ u, (serving s port p).gwrite p.causal none b.ctx (p.base * 8192 + p.offset.toNat) p.payload false .ewr = (u, .ok ()) →
      ∃ t, exec (.fabricWrite port p) s = .next t ∧ t.hbm = u.hbm ∧ t.l2 = u.l2 ∧ t.spad = s.spad ∧
        t.performed = u.performed ++ [⟨p.src, p.causal, p.tag, .ack, u.answerTo p p.offset [], u.time⟩]) ∧
    (∀ u d, (serving s port p).gread p.causal none b.ctx (p.base * 8192 + p.offset.toNat) p.len = (u, .ok d) →
      ∃ t, exec (.fabricReadRequest port p) s = .next t ∧ t.hbm = u.hbm ∧ t.l2 = u.l2 ∧ t.spad = s.spad ∧
        t.performed = u.performed ++ [⟨p.src, p.causal, p.tag, .readResp, u.answerTo p p.offset d, u.time⟩]) ∧
    (∀ u old, p.len ≠ 64 → (serving s port p).gatomic p.causal none b.ctx (p.base * 8192 + p.offset.toNat)
        (if p.w64 then 8 else 4) (Packet.atomic p) .ermw = (u, .ok old) →
      ∃ t, exec (.fabricAtomicRequest port p) s = .next t ∧ t.hbm = u.hbm ∧ t.l2 = u.l2 ∧ t.spad = s.spad ∧
        t.performed = u.performed ++
          [⟨p.src, p.causal, p.tag, .atomResp, u.answerTo p p.offset (if p.ret then old else []), u.time⟩])) ∧
  (∀ (s : State) (port : Nat) (p : Packet) (i : Instr), Arrives s port p →
    (i = .fabricWrite port p ∨ i = .fabricReadRequest port p ∨ i = .fabricAtomicRequest port p) →
    ∃ t, exec i s = .next t ∧ repeated s t p ∧
      (Fresh s p → ∀ b, s.inboundAt p.src p.ctx p.window = some b → b.gen ≠ p.gen → t.hbm = s.hbm ∧ t.l2 = s.l2)) ∧
  (∀ (s : State) (port : Nat), Unfocused s →
    (s.hub.pkg = .running → s.portUp port = true → ∃ t, exec (.reservedKindPacket port) s = .next t ∧
      t = { s with ports := t.ports } ∧ (t.portAt port).drops = satInc 16 (s.portAt port).drops) ∧
    (s.portUp port = false → exec (.reservedKindPacket port) s = .next s))

/-- ANSWERS, NACKS AND TIMEOUTS (R190, R362, R366, R367): an answer ends the request it belongs to; read bytes wait for their
element; a retire NACK fails the operation with 0x0704, an error NACK with the cause in OFFSET; a timeout sends the request
again, on another port of its route if one is up, and the eighth fails its operation with 0x0703. The messages of the
collective sequencers act as the model's own functions say (log 14, 80). -/
def Obligations.FabricAnswers : Prop :=
  (∀ (s : State) (port : Nat) (p : Packet) (i : Instr) (k : PKind), Arrives s port p → answerKind port p i = some k →
    (s.requestOf p = none → exec i s = .next (landed s port)) ∧
    (∀ u, s.requestOf p = some u → ∃ t, exec i s = .next t ∧ (∀ v, v ∈ t.unacked → v.name ≠ u.name)) ∧
    (∀ u o c, s.requestOf p = some u → u.op ≠ 0 → s.opAt u.op = some o → o.ended = false → o.kind = .copy c →
      k = .readResp → ∃ t o' c', exec i s = .next t ∧ t.opAt u.op = some o' ∧ o'.kind = .copy c' ∧
        mget c'.got u.elem = some p.payload ∧ u.elem ∉ c'.sent)) ∧
  (∀ (s : State) (port : Nat) (p : Packet) (i : Instr) (code : Nat) (u : Unacked) (o : EngineOp), Arrives s port p →
    ((i = .retireNack port p ∧ code = 0x0704) ∨ (i = .errorNack port p ∧ code = p.offset.toNat % 2 ^ 16)) →
    s.requestOf p = some u → u.op ≠ 0 → s.opAt u.op = some o → o.ended = false →
    ∃ t, exec i s = .next t ∧ (∀ v, v ∈ t.unacked → v.name ≠ u.name) ∧
      (∀ x, t.opAt u.op = some x → ∃ a n, x.state = .failed code a n)) ∧
  (∀ (s : State) (n : Nat) (u : Unacked), Unfocused s → s.unacked.find? (fun v => v.name == n) = some u →
    (u.sent + 1600000 ≤ s.time →
      (u.outs + 1 ≠ 8 → ∃ t v, exec (.endToEndTimeout n) s = .next t ∧ v ∈ t.unacked ∧ v.name = n ∧ v.outs = u.outs + 1 ∧
        v.sent = s.time ∧ v.pkt = u.pkt ∧ t.ops = s.ops ∧
        ((∃ q, q ∈ mgetD s.routes u.pkt.dst [] ∧ s.portUp q = true ∧ q ≠ u.port) →
          v.port ≠ u.port ∧ v.port ∈ mgetD s.routes u.pkt.dst [] ∧ .packet v.port u.kind u.pkt ∈ t.outbox)) ∧
      (u.outs + 1 = 8 → ∃ t, exec (.endToEndTimeout n) s = .next t ∧ (∀ v, v ∈ t.unacked → v.name ≠ n) ∧
        ∀ o, u.op ≠ 0 → s.opAt u.op = some o → o.ended = false →
          ∀ x, t.opAt u.op = some x → ∃ a k, x.state = .failed 0x0703 a k)) ∧
    (s.time < u.sent + 1600000 → turnedAway (.endToEndTimeout n) "END_TO_END_TIMEOUT" s)) ∧
  (∀ (s : State) (dev ctx sel gen : Nat), Unfocused s → s.hub.pkg = .running → ∃ t,
    exec (.retireNotice dev ctx sel gen) s = .next t ∧ (∀ e, mget s.windows (ctx * 4096 + sel) = some e →
      mget t.windows (ctx * 4096 + sel) = some (if e.device = dev ∧ e.gen = gen then { e with v := false } else e)) ∧
    (∀ k, k ≠ ctx * 4096 + sel → mget t.windows k = mget s.windows k) ∧
    ((∀ u, u ∈ s.unacked → ¬ (u.pkt.ctx = ctx ∧ u.pkt.window = sel ∧ u.pkt.gen = gen ∧ u.pkt.dst = dev)) →
      .retireReport dev ctx sel gen ∈ t.outbox)) ∧
  (∀ (s : State) (port : Nat) (p : Packet), Arrives s port p →
    (∀ r, exec (.collectiveSequencerPacket port p (.issue r)) s = .next ((landed s port).seqIssue r p.causal)) ∧
    (∀ c n k, exec (.collectiveSequencerPacket port p (.written c n k)) s = .next ((landed s port).seqWrote c n k)) ∧
    (∀ c n k, exec (.collectiveSequencerPacket port p (.abort c n k)) s = .next ((landed s port).seqAbort c n k p.causal)) ∧
    (∀ c n k, exec (.collectiveSequencerPacket port p (.timeout c n k)) s = .next ((landed s port).seqTimeout c n k)) ∧
    (∀ c a b d e f, exec (.collectiveSequencerPacket port p (.chime c a b d e f)) s =
      .next ((landed s port).chimeHear c (.chime c a b d e f))))

/-- LINKS (R358, R364, R368): a beat whose CRC fails is counted and asked for again, one that fails at the far end is sent again
with all after it, in order (log 77), and the port retrains after 16 failed replays; training that ends well resends the replay buffer, else the port is down and its buffer empty. -/
def Sys2Proof.Stated.Links : Prop :=
  (∀ (s : State) (port beat : Nat), Unfocused s → s.hub.pkg = .running → s.portUp port = true →
    ∃ t, exec (.beatCrcFail port (.here beat)) s = .next t ∧ (t.portAt port).crc = satInc 32 (s.portAt port).crc ∧
      t = { s with ports := t.ports, tabor := t.tabor, outbox := t.outbox } ∧
      ((s.portAt port).beat = some beat → (s.portAt port).failed = 15 → (t.portAt port).state = 1 ∧
        (t.portAt port).retrains = satInc 16 (s.portAt port).retrains ∧ t.outbox = s.outbox) ∧
      (((s.portAt port).beat ≠ some beat ∨ (s.portAt port).failed ≠ 15) → (t.portAt port).state = (s.portAt port).state ∧
        t.outbox = s.outbox ++ [.replayRequest port beat])) ∧
  (∀ (s : State) (port beat : Nat), Unfocused s → s.hub.pkg = .running → s.portUp port = true →
    ∃ t, exec (.beatCrcFail port (.far beat)) s = .next t ∧ (t.portAt port).replay = (s.portAt port).replay ∧
      t = { s with ports := t.ports, tabor := t.tabor, outbox := t.outbox } ∧
      ((s.portAt port).asked = some beat → (s.portAt port).repeats = 15 → (t.portAt port).state = 1 ∧
        (t.portAt port).retrains = satInc 16 (s.portAt port).retrains ∧ t.outbox = s.outbox) ∧
      (((s.portAt port).asked ≠ some beat ∨ (s.portAt port).repeats ≠ 15) → (t.portAt port).state = (s.portAt port).state ∧
        ∀ a b, (s.portAt port).replay = a ++ b → b ≠ [] → (s.portAt port).next < 256 → beat < 256 →
          ((a ++ b).map (fun r => beatsOf r.2)).sum ≤ 256 →
          (beat + (b.map (fun r => beatsOf r.2)).sum) % 256 = (s.portAt port).next →
          t.outbox = s.outbox ++ b.map (fun r => .packet port r.1 r.2))) ∧
  (∀ (s : State) (port dev peer : Nat), Unfocused s → s.hub.pkg = .running → s.portEnabled port = true →
    (s.portAt port).state ≠ 2 →
    (∃ t, exec (.retrainEnd port true dev peer) s = .next t ∧ (t.portAt port).state = 2 ∧
      (t.portAt port).peerDev = dev % 2 ^ 16 ∧ (t.portAt port).peerPort = peer % 2 ^ 8 ∧
      t.outbox = s.outbox ++ (s.portAt port).replay.map (fun r => .packet port r.1 r.2) ∧
      t = { s with ports := t.ports, outbox := t.outbox }) ∧
    (∃ t, exec (.retrainEnd port false dev peer) s = .next t ∧ (t.portAt port).state = 0 ∧ (t.portAt port).replay = [] ∧
      t = { s with ports := t.ports })) ∧
  (∀ (s : State) (die gw : Nat) (beat : Word), Unfocused s → ∃ t, exec (.dieLinkFlitReplay die gw beat) s = .next t ∧
    t = { s with tabor := t.tabor })

/-- REQUESTS OF HOSTS (R275, R369, R400): performed at the home slices and answered; a wrong key, a refused page or an
unsupported request is answered with a NAK, and its queue pair is then in the error state. That a NAK puts its queue pair in
the error state is the family's (log 30); that a fetch-add takes the pending notices at once is the model's reading (log 51, 58). -/
def Obligations.HostRequests : Prop :=
  (∀ (s : State) (q : QpRef) (p : Qp) (key : Word) (va : Dword) (data : List Byte), Requests s q p → keyOk q p key = true →
    data.length ≤ 2 ^ 20 → s.inWindow p.ctx va data.length = false →
    (∀ u, s.hostWrite p.ctx va data = (u, true) →
      exec (.rdmaWrite q key va data) s = .next { u with outbox := u.outbox ++ [.answer q true false []] }) ∧
    (∀ u, s.hostWrite p.ctx va data = (u, false) → ∃ t, exec (.rdmaWrite q key va data) s = .next t ∧
      refusedHost t q false) ∧
    (∀ imm u v, s.writable p.ctx (p.imm.extractLsb' 0 53).toNat 4 = true → s.hostWrite p.ctx va data = (u, true) →
      u.hostWrite p.ctx p.imm (leBytes 4 imm.toNat) = (v, true) → exec (.rdmaWriteWithImmediate q key va data imm) s =
        .next { v with outbox := v.outbox ++ [.answer q true false []] })) ∧
  (∀ (s u : State) (q : QpRef) (p : Qp) (key : Word) (va : Dword) (n : Nat) (b : List Byte), Requests s q p →
    keyOk q p key = true → n ≤ 2 ^ 20 → s.inWindow p.ctx va n = false → va.toNat + n ≤ 2 ^ 53 →
    s.gread 0 none p.ctx va.toNat n = (u, .ok b) →
    exec (.rdmaRead q key va n) s = .next { u with outbox := u.outbox ++ [.answer q true false b] }) ∧
  (∀ (s u : State) (q : QpRef) (p : Qp) (key : Word) (va x : Dword) (b : List Byte), Requests s q p → keyOk q p key = true →
    s.inWindow p.ctx va 8 = false → va.toNat % 8 = 0 → va.toNat + 8 ≤ 2 ^ 53 →
    s.applyNotices.gatomic 0 none p.ctx va.toNat 8 (fun b => leBytes 8 (leDword b + x).toNat) = (u, .ok b) →
    exec (.atomicFetchAdd q key va x) s = .next { u with outbox := u.outbox ++ [.answer q true false b] }) ∧
  (∀ (s : State) (q : QpRef) (p : Qp) (key : Word) (va : Dword) (data : List Byte), Requests s q p →
    keyOk q p key = true → s.inWindow p.ctx va 4 = true → data.length = 4 →
    (windowNak q.part va 4 true = none → exec (.rdmaWrite q key va data) s =
      .next ((s.regWrite (va.toNat - regWindow) (leWord data)).hostAck q [])) ∧
    (windowNak q.part va 4 false = none → exec (.rdmaRead q key va 4) s =
      .next ((s.regRead (va.toNat - regWindow)).1.hostAck q (leBytes 4 (s.regRead (va.toNat - regWindow)).2.toNat))) ∧
    (∀ x, windowNak q.part va 4 true = some x → ∃ t, exec (.rdmaWrite q key va data) s = .next t ∧ refusedHost t q x)) ∧
  (∀ (s : State) (q : QpRef) (p : Qp) (key : Word) (va x : Dword) (data : List Byte) (imm : Word) (n : Nat) (i : Instr),
    Requests s q p → keyOk q p key = false → data.length ≤ 2 ^ 20 → n ≤ 2 ^ 20 →
    (i = .rdmaWrite q key va data ∨ i = .rdmaRead q key va n ∨ i = .rdmaWriteWithImmediate q key va data imm ∨
      i = .atomicFetchAdd q key va x) → ∃ t, exec i s = .next t ∧ refusedHost t q false) ∧
  (∀ (s : State) (q : QpRef) (p : Qp), Requests s q p → ∃ t, exec (.unsupportedRdmaRequest q) s = .next t ∧
    refusedHost t q true)

/-- QUEUE PAIRS (R370, R371, R392, R398, R406): answers of hosts, the timers of queue pairs, and connections. -/
def Sys2Proof.Stated.QueuePairs : Prop :=
  (∀ (s : State) (n : Nat) (data : List Byte), Unfocused s →
    (∀ o p, s.hostOps.find? (fun o => o.name == n && o.out) = some o → s.qpAt o.qp = some p →
      (∃ t, exec (.hostRdmaResponse n .done data) s = .next t ∧
        t.qpAt o.qp = some { p with retries := 0, rnrs := 0 }) ∧
      (∃ t x, exec (.hostRdmaResponse n .nak data) s = .next t ∧ t.qpAt o.qp = some x ∧ x.state = .error ∧
        ∀ y, y ∈ t.hostOps → y.name ≠ n ∨ y.qp ≠ o.qp) ∧
      (∃ t, exec (.hostRdmaResponse n .rnr data) s = .next t ∧ t = { s with qps := t.qps } ∧
        t.qpAt o.qp = some { p with rnrTill := some (s.time + 160000 * rnrTicks.getD p.rnrTimer 1) })) ∧
    (s.hostOps.find? (fun o => o.name == n && o.out) = none →
      ∀ a, turnedAway (.hostRdmaResponse n a data) "HOST_RDMA_RESPONSE" s)) ∧
  (∀ (s : State) (q : QpRef) (p : Qp), Unfocused s → s.qpAt q = some p →
    (s.ackDue q = true → (p.retries < p.retry → ∃ t, exec (.ackTimeout q) s = .next t ∧
        t.qpAt q = some { p with retries := p.retries + 1 } ∧ t.ops = s.ops) ∧
      (p.retry ≤ p.retries → ∃ t x, exec (.ackTimeout q) s = .next t ∧ t.qpAt q = some x ∧ x.state = .error)) ∧
    (s.ackDue q = false → turnedAway (.ackTimeout q) "ACK_TIMEOUT" s) ∧
    (s.rnrDue q = true → ((p.rnrRetry = 7 ∨ p.rnrs < p.rnrRetry) → ∃ t, exec (.rnrTimerExpiry q) s = .next t ∧
        t.qpAt q = some { p with rnrTill := none, rnrs := p.rnrs + 1 } ∧ t.ops = s.ops) ∧
      (p.rnrRetry ≠ 7 → p.rnrRetry ≤ p.rnrs → ∃ t x, exec (.rnrTimerExpiry q) s = .next t ∧ t.qpAt q = some x ∧
        x.state = .error)) ∧
    (s.rnrDue q = false → turnedAway (.rnrTimerExpiry q) "RNR_TIMER_EXPIRY" s)) ∧
  (∀ (s : State) (q : QpRef) (peer : BitVec 128), Unfocused s →
    (s.hub.pkg = .running → q.part = 0 → q.qp = 0 → peer = s.hub.config.mgmtPeer →
      ∃ t p, exec (.connectionRequest q peer) s = .next t ∧ t.outbox = s.outbox ++ [.connection q true] ∧
        t.qpAt ⟨0, 0⟩ = some p ∧ p.state = .ready ∧ p.ctx = 0 ∧ p.control = true ∧ p.gid = peer) ∧
    (s.hub.pkg = .running → ¬ (q.part = 0 ∧ q.qp = 0 ∧ peer = s.hub.config.mgmtPeer) →
      exec (.connectionRequest q peer) s = .next { s with outbox := s.outbox ++ [.connection q false] }) ∧
    (s.hub.pkg = .loader → q.qp = 1 → s.hub.loaderConn = false → ∃ t, exec (.connectionRequest q peer) s = .next t ∧
      t.hub.loaderConn = true ∧ t.outbox = s.outbox ++ [.connection q true] ∧ t.qps = s.qps))


/-- LINKS AND QUEUE PAIRS (R358, R364, R368, R370, R371, R392, R398, R406). Timer codes, the management peer's attributes,
ignored packets, first training and NAKs are the model's (log 21, 23, 27, 29, 30). -/
def Obligations.LinksAndQueuePairs : Prop := Sys2Proof.Stated.Links ∧ Sys2Proof.Stated.QueuePairs

end

namespace Sys2Proof.Stated
open Sys2Proof.Machine

/-! ## Memory, time, energy and the package (spec/13, spec/14, spec/16, spec/17) -/

/-- A Tabor-only difference. -/
def onlyTabor (s t : State) : Prop := t = { s with tabor := t.tabor }

/-- What the package retains at a warm reset (R38, R348, R412). -/
def retained (s t : State) : Prop :=
  t.homeKey = s.homeKey ∧ t.vkeys = s.vkeys ∧ t.windows = s.windows ∧ t.inbound = s.inbound ∧ t.hostWin = s.hostWin ∧
  t.qps = s.qps ∧ t.routes = s.routes ∧ t.hub = { s.hub with resetUse := true } ∧ t.time = s.time

/-- The loader's standing, and its status word in the staging area (R406). -/
def loaderStands (t : State) (l : LoaderStatus) (n : Nat) : Prop :=
  t.hub.loader = l ∧ cread 0 t.hub.staging 0x0FFFFFC0 4 = leBytes 4 n

/-- What the loader verifies: a record with its signature, or an image as long as its own first bytes say (R405, R406; log 12). -/
def stagedItem (s : State) : List Byte :=
  if s.hub.loadImm = 2 then cread 0 s.hub.staging 0 signedLen
  else cread 0 s.hub.staging 0 (min (flashLen - imageAt) (Config.imageBytes (cread 0 s.hub.staging 0 4096)))

/-- The configuration record that flash holds. -/
def flashConfig (s : State) : ConfigRec := configOf (leNat ((cread 0 s.hub.flash 0 signedLen).take 64))

/-- What a warm reset clears (R38). -/
def cleared (t : State) : Prop :=
  t.waves = [] ∧ t.groups = [] ∧ t.spad = [] ∧ t.cores = [] ∧ t.ops = [] ∧ t.enrols = [] ∧ t.holds = [] ∧ t.runs = [] ∧
  t.launches = [] ∧ t.l2 = [] ∧ t.rdc = [] ∧ t.tlbs = [] ∧ t.wave.name = 0

end Sys2Proof.Stated

section
open Sys2Proof Sys2Proof.Machine Sys2Proof.Stated

/-- LEASES, ROWS AND SCRUBBING (R342, R344 to R347): a notice raises the view of its die; a snapshot takes the view and drops
the copies whose lease has ended; windows of activates, migrations, refreshes, precharges, samples and the patrol scrub
change the state of their channel or layer. When such an event comes is the outside's choice (log 2, 3), what a row keeps
open is the model's (log 22), and so are REMOTE_READ and HOME_WRITE as events of their own (log 57). -/
def Obligations.MemoryEvents : Prop :=
  (∀ (s : State) (home d : Nat), Unfocused s → home < 4 → d < 4 →
    (s.noticesTo home d = [] → turnedAway (.leaseNotice home d) "LEASE_NOTICE" s) ∧
    (∀ n ns, s.noticesTo home d = n :: ns → ∃ t, exec (.leaseNotice home d) s = .next t ∧ t.notices = s.notices.erase n ∧
      t = { s with dies := t.dies, notices := t.notices } ∧
      (∀ k : Fin 4, (t.die d).view.get k = if k.val = home then max ((s.die d).view.get k) n.time else (s.die d).view.get k))) ∧
  (∀ (s : State) (d : Nat), Unfocused s →
    (d < 4 → ∃ t, exec (.leaseSnapshot d) s = .next t ∧ t = { s with dies := t.dies, rdc := t.rdc } ∧
      (t.die d).snap = (s.die d).view ∧ (t.die d).view = (s.die d).view ∧
      (∀ x, x ∈ t.rdc ↔ x ∈ s.rdc ∧ (x.die = d → (s.die d).view.toArray.getD x.home 0 ≤ x.till))) ∧
    (4 ≤ d → turnedAway (.leaseSnapshot d) "LEASE_SNAPSHOT" s)) ∧
  (∀ (s : State) (c : Nat), Unfocused s →
    (65536 ≤ (s.chan c).acts → ∃ t, exec (.hashWindowEnd c) s = .next t ∧ (t.chan c).acts = 0 ∧ (t.chan c).confl = 0 ∧
      (s.feature 6 = true ∧ (s.chan c).thresh ≠ 0 ∧ (s.chan c).migrating = false ∧
          65536 * (s.chan c).thresh < (s.chan c).confl * 8 →
        (t.chan c).version = ((s.chan c).version + 1) % 8 ∧ (t.chan c).migrating = true ∧ (t.chan c).boundary = 0) ∧
      (¬ (s.feature 6 = true ∧ (s.chan c).thresh ≠ 0 ∧ (s.chan c).migrating = false ∧
          65536 * (s.chan c).thresh < (s.chan c).confl * 8) → (t.chan c).version = (s.chan c).version)) ∧
    ((s.chan c).acts < 65536 → turnedAway (.hashWindowEnd c) "HASH_WINDOW_END" s) ∧
    ((s.chan c).migrating = true → ∃ t, exec (.rowGroupMigration c) s = .next t ∧ t.hbm = s.hbm ∧ t.l2 = s.l2 ∧
      t.waves = s.waves ∧ (t.chan c).version = (s.chan c).version ∧
      ((s.chan c).boundary < 65535 → (t.chan c).boundary = (s.chan c).boundary + 1 ∧ (t.chan c).migrating = true) ∧
      (65535 ≤ (s.chan c).boundary → (t.chan c).boundary = 0 ∧ (t.chan c).migrating = false) ∧
      ((s.layer (layerKey c)).hold = false → ∀ b, b < 32 → mget (t.chan c).openRows b = some (s.chan c).boundary)) ∧
    ((s.chan c).migrating = false → turnedAway (.rowGroupMigration c) "ROW_GROUP_MIGRATION" s)) ∧
  (∀ (s : State) (c bank row : Nat), Unfocused s →
    (mget (s.chan c).openRows bank = some row → mwf (s.chan c).openRows = true →
      (∃ t, exec (.rowPrecharge c bank row) s = .next t ∧ mget (t.chan c).openRows bank = none ∧ t.hbm = s.hbm ∧ t.l2 = s.l2) ∧
      (c < 256 → bank < 32 → ∃ t, exec (.bankRefresh c bank) s = .next t ∧ mget (t.chan c).openRows bank = none ∧
        t.hbm = s.hbm ∧ t.l2 = s.l2)) ∧
    (mget (s.chan c).openRows bank ≠ some row → turnedAway (.rowPrecharge c bank row) "ROW_PRECHARGE" s) ∧
    (mget (s.chan c).openRows bank = none → c < 256 → bank < 32 → exec (.bankRefresh c bank) s = .next s) ∧
    ((256 ≤ c ∨ 32 ≤ bank) → turnedAway (.bankRefresh c bank) "BANK_REFRESH" s)) ∧
  (∀ (s : State) (c line : Nat), Unfocused s →
    (c < 256 → line / 2 ^ 30 = c / 64 →
      (s.isSoft line = false → exec (.patrolScrub c line .none) s = .next (s.touchRow c line)) ∧
      (s.isSoft line = true → ∃ t, exec (.patrolScrub c line .none) s = .next t ∧ t.hbm = s.hbm ∧ t.l2 = s.l2 ∧
        (t.chan c).corr = satInc 32 (s.chan c).corr ∧ (mwf s.badLines = true → mget t.badLines line = none)) ∧
      (∃ t, exec (.patrolScrub c line .corrected) s = .next t ∧ t.hbm = s.hbm ∧ t.l2 = s.l2 ∧
        (t.chan c).corr = satInc 32 (s.chan c).corr ∧ (mwf s.badLines = true → ∀ k, mget t.badLines line ≠ some (.soft k))) ∧
      (∃ t, exec (.patrolScrub c line .uncorrectable) s = .next t ∧ t.hbm = s.hbm ∧ t.l2 = s.l2 ∧
        (t.chan c).corr = (s.chan c).corr ∧ (mget t.badLines line = some .bad ∨ mget t.badLines line = some .poisoned))) ∧
    (¬ (c < 256 ∧ line / 2 ^ 30 = c / 64) → ∀ e, turnedAway (.patrolScrub c line e) "PATROL_SCRUB" s)) ∧
  (∀ (s : State) (stack layer : Nat) (deg : Int), Unfocused s → stack ≤ 7 → layer ≤ 15 →
    ∃ t, exec (.layerTempSample stack layer deg) s = .next t ∧ t = { s with layers := t.layers, tabor := t.tabor } ∧
      (t.layer (stack * 16 + layer)).deg = deg ∧
      (t.layer (stack * 16 + layer)).interval = nextInterval (s.layer (stack * 16 + layer)).interval deg ∧
      (105 < deg → (t.layer (stack * 16 + layer)).hold = true) ∧ (deg < 100 → (t.layer (stack * 16 + layer)).hold = false) ∧
      (100 ≤ deg → deg ≤ 105 → (t.layer (stack * 16 + layer)).hold = (s.layer (stack * 16 + layer)).hold)) ∧
  (∀ (s : State) (d ctx : Nat) (va : BitVec 53) (b : List Byte), Unfocused s → (mget s.ctxs ctx).isSome = true →
    (d < 4 → s.homeDie ctx (va.toNat / 128) ≠ d → ∃ t, exec (.remoteRead d ctx va) s = .next t ∧
      t = (s.readLine 0 (some d) ctx (va.toNat / 128) .rd).1) ∧
    (va.toNat % 128 + b.length ≤ 128 → ∃ t, exec (.homeWrite ctx va b) s = .next t ∧
      t = (s.writeLine 0 none ctx (va.toNat / 128) (va.toNat % 128) b false .wr).1))

/-- REGISTERS, THE TRACE STORE AND TIME (R349, R351, R380, R383, R384, R400, R408). Slewing is left to the free passage of time
(log 20); who reads and writes registers, and when, is the outside's choice (log 3). -/
def Obligations.DeviceRegisters : Prop :=
  (∀ (s : State) (off : Nat) (v : Word), Unfocused s → exec (.registerWrite off v) s = .next (s.regWrite off v)) ∧
  (∀ (s : State) (c : Nat) (v : Word), c < 256 →
    ((s.regWrite (0x20 * c) v).chan c).corr = v.toNat ∧
    ((s.regWrite (0x20 * c + 0x18) v).chan c).actMax =
      (if 512 ≤ v.toNat % 2 ^ 14 ∧ v.toNat % 2 ^ 14 ≤ 8192 then v.toNat % 2 ^ 14 else (s.chan c).actMax) ∧
    s.regWrite (0x20 * c + 8) v = s.modChan c (fun x => { x with parity := v.toNat % 2 ^ 16 }) ∧
    s.regWrite (0x20 * c + 0x14) v = s) ∧
  (∀ (s : State), Unfocused s → ∃ t u, exec .trWpLoRead s = .next t ∧ t = { s with tabor := u } ∧
    u = { s.tabor with wpHi := BitVec.ofNat 32 (s.tabor.count / 2 ^ 32) }) ∧
  (∀ (s : State) (d : Nat), Unfocused s → d < 4 → ∃ t, exec (.ltLoRead d) s = .next t ∧ t = { s with dies := t.dies } ∧
    t.die d = { s.die d with ltHi := BitVec.ofNat 32 ((s.die d).lt / 2 ^ 32) } ∧ ∀ k, k ≠ d → t.die k = s.die k) ∧
  (∀ (s : State) (m : BitVec 5), Unfocused s → ∃ t, exec (.tocsinCauseClear m) s = .next t ∧
    t = { s with hub := { s.hub with cause := s.hub.cause &&& ~~~m } }) ∧
  (∀ (s : State), Unfocused s → ∃ t, exec .traceUnfreeze s = .next t ∧ t = { s with tabor := { s.tabor with frozen := false } }) ∧
  (∀ (s : State), Unfocused s →
    (s.tabor.left = some 0 → s.tabor.frozen = false → ∃ t, exec .traceStoreFreeze s = .next t ∧ onlyTabor s t ∧
      t.tabor.frozen = true ∧ t.tabor.left = none ∧ t.tabor.count = s.tabor.count + 1) ∧
    ((s.tabor.left ≠ some 0 ∨ s.tabor.frozen = true) → turnedAway .traceStoreFreeze "TRACE_STORE_FREEZE" s)) ∧
  (∀ (s : State) (off : Int), Unfocused s → s.hub.pkg = .running → s.hub.role ≠ 0 → s.hub.everLocked = true →
    ∃ t, exec (.ptpSyncMessage off) s = .next t ∧ t.hub.offset = off ∧
      (off < -16000000 → t.time = ((s.time : Int) - off).toNat) ∧ (-16000000 ≤ off → t.time = s.time) ∧
      t.hub.goodSyncs = (if off.natAbs ≤ 1024 then min (s.hub.goodSyncs + 1) 16 else 0) ∧
      t.hub.lock = (if t.hub.goodSyncs = 16 then 2 else 1) ∧
      t.outbox = (if s.hub.role = 2 then s.outbox ++ [.timeSync t.time] else s.outbox)) ∧
  (∀ (s : State), Unfocused s → s.hub.pkg = .running → s.hub.role ≠ 0 → s.hub.lock ≠ 0 →
    ∃ t, exec .syncLoss s = .next t ∧ t.hub.lock = 3 ∧ t.hub.goodSyncs = 0 ∧ t.time = s.time)

/-- ENERGY, LIMITS, TOCSIN AND RESETS (R38, R348, R405, R406, R408 to R410, R412, R414). Signatures and lengths of items are free
functions (log 12), estimates are free values (log 13), and the loader acts on an immediate in steps (log 86). The model's readings are
the order of the alarm bits (log 34), what a warm reset keeps beyond the spec's lists (log 24), staging from offset 0 and other
immediates (log 36), and the 10 MHz unit of 0x0803 (log 40). -/
def Obligations.PackageEvents : Prop :=
  (∀ (s : State) (rail : Nat), Unfocused s → ∃ t, exec (.energyInterval rail) s = .next t ∧
    t.hub.package = s.hub.package + rail ∧ t.hub.counted = s.time ∧ t.waves = s.waves ∧ t.spad = s.spad ∧
    (((t.parts.map (fun p => p.2.energy.total)).sum : Nat) : Int) + t.hub.unattrib =
      (((s.parts.map (fun p => p.2.energy.total)).sum : Nat) : Int) + s.hub.unattrib + (rail : Int)) ∧
  (∀ (s : State) (power : Nat) (hot : Int), Unfocused s → 35 ≤ s.hub.clock → s.hub.clock ≤ 70 →
    ∃ t, exec (.clockLimiting power hot) s = .next t ∧ t = { s with hub := { s.hub with clock := t.hub.clock } } ∧
      ((s.hub.config.powerLimit < power ∨ 105 < hot) → t.hub.clock = max 35 (s.hub.clock - 5)) ∧
      (power < s.hub.config.powerLimit → hot < 100 → t.hub.clock = min 70 (s.hub.clock + 5)) ∧
      35 ≤ t.hub.clock ∧ t.hub.clock ≤ 70) ∧
  (∀ (s : State), Unfocused s → exec .thermalStop s = .next { s with hub := { s.hub with pkg := .stopped } }) ∧
  (∀ (s : State) (a : Alarm), Unfocused s → s.hub.config.policy < 2 → ∃ t, exec (.tocsinAlarm a) s = .next t ∧
    t = { s with hub := t.hub } ∧ t.hub.cause = s.hub.cause ||| 1#5 <<< alarmBit a ∧
    t.hub.erased = (s.hub.erased || s.hub.config.policy == 1) ∧ t.hub.alarms = min (s.hub.alarms + 1) (2 ^ 30 - 1)) ∧
  (∀ (s : State) (a : Alarm), Unfocused s → 2 ≤ s.hub.config.policy → ∃ t, exec (.tocsinAlarm a) s = .next t ∧
    t.hub.erased = true ∧ t.hbm = [] ∧ t.homeKey = 0 ∧ t.vkeys = Vector.replicate 8 0 ∧ cleared t) ∧
  (∀ (s : State), Unfocused s →
    (s.hub.pkg = .running → ∃ t, exec .warmReset s = .next t ∧ cleared t ∧ retained s t) ∧
    (s.hub.pkg ≠ .running → exec .warmReset s = .next s)) ∧
  (∀ (s : State), ∃ t, exec .coldReset s = .next t ∧ t.hub = Hub.boot s.hub.flash ∧ t.hub.flash = s.hub.flash ∧
    cleared t ∧ t.hbm = [] ∧ t.homeKey = Config.homeKey s.oracle ∧ t.outbox = s.outbox ∧ t.time = 0) ∧
  (∀ (s : State) (imm : Word), Unfocused s →
    (s.hub.pkg ≠ .loader → exec (.loaderImmediate imm) s = .next s) ∧
    (s.hub.pkg = .loader → Memory.wf s.hub.staging = true → (s.hub.loader = .idle ∨ s.hub.loader = .refused) →
      (s.hub.loaderConn = false → exec (.loaderImmediate imm) s = .next s) ∧
      (s.hub.loaderConn = true → ∃ t, exec (.loaderImmediate imm) s = .next t ∧ loaderStands t .verifying 1 ∧
        t.hub.loadImm = imm ∧ t.hub.flash = s.hub.flash)) ∧
    (s.hub.pkg = .loader → Memory.wf s.hub.staging = true → s.hub.loader = .verifying →
      let k := s.hub.loadImm
      let x := stagedItem s
      ((k = 2 ∧ configOk x = true) → ∃ t, exec (.loaderImmediate imm) s = .next t ∧ loaderStands t .written 3 ∧
        t.hub.flash = cwrite 0 s.hub.flash 0 x) ∧
      ((k = 1 ∧ imageOk (flashConfig s).minSvn x = true) → ∃ t, exec (.loaderImmediate imm) s = .next t ∧
        loaderStands t .written 3 ∧ t.hub.flash = cwrite 0 (cclear s.hub.flash imageAt flashLen) imageAt x) ∧
      (¬ (k = 2 ∧ configOk x = true) → ¬ (k = 1 ∧ imageOk (flashConfig s).minSvn x = true) →
        ∃ t, exec (.loaderImmediate imm) s = .next t ∧ loaderStands t .refused 2 ∧ t.hub.flash = s.hub.flash)) ∧
    (s.hub.pkg = .loader → s.hub.loader = .written → exec (.loaderImmediate imm) s = .next s.coldReset))


end

namespace Sys2Proof.Stated
open Sys2Proof.Machine

/-! ## The whole machine (spec/01, spec/02, spec/05, spec/13) -/

/-- The vector register that an instruction of spec/06 writes under the mask. -/
def laneDest (s : State) (i : Instr) : Option VReg :=
  (laneElement s 0 i).map (fun x => x.1) <|> (floatElement s 0 i).map (fun x => x.1) <|> (movedElement s 0 i).map (fun x => x.1) <|>
    (convertedElement s 0 i).map (fun x => x.1)

/-- The scalar registers that an instruction of spec/04 or a reduction of spec/06 writes. -/
def scalarDest (s : State) (i : Instr) : Option (List SReg) :=
  (scalarResult s i).map (fun x => [x.1]) <|> (pairResult s i).map (fun x => [x.1, x.1 + 1]) <|>
    (reduction s i).map (fun x => [x.1])

/-- The instructions of these that raise no flag: moves, selections, integers that wrap, and pairs. -/
def flagless (s : State) (i : Instr) : Bool :=
  (pairResult s i).isSome || (movedElement s 0 i).isSome ||
    (match scalarResult s i with | some (_, _, sat) => !sat | none => false) ||
    ((List.range 64).all (fun k => match laneElement s k i with | some (_, _, sat) => !sat | none => false))

/-- What a step answers when wave n has issued in v: the issue is noted (R320), and what follows every move (R128, R318, R321)
comes after it; where a held layer holds its access up, or would hold up the write-back that follows it, nothing has happened
but time passing (R345; log 69). -/
def afterIssue (v : State) (n : Nat) : Host.Outcome State Fault Refusal → Host.Outcome State Fault Refusal
  | .next t =>
      let w := v.noteIssue t n
      .next (if w.waitsHeld then { v with heldUp := false }.finish else w.finish)
  | .fault f => .fault f
  | .refused r => .refused r

/-- The rotations and the current waves stand as R128 and R321 ask, between two steps: no wave is in focus; a running wave
issues from a slot that is ready, if one is; and in ordered mode each core with a wave that is not parked has a current wave. -/
def Settled (s : State) : Prop :=
  s.wave.name = 0 ∧
  (∀ n w, (n, w) ∈ s.waves → w.life = .running →
    (w.slotAt w.cur).ready = true ∨ (w.slotAt (1 - w.cur)).ready = false) ∧
  (∀ n g, (n, g) ∈ s.groups → g.ordered = true → g.state = .running → ∀ c ∈ g.cores,
    (∃ p, p ∈ s.waves ∧ p.2.group = g.name ∧ p.2.core = c ∧ p.2.blocked = false) → ∃ k, mget g.current c = some k)

/-- An instruction word and its literal word, as two words of a code stream. -/
def wordPair (w lit : Nat) : Nat := lit * 2 ^ 32 + w

end Sys2Proof.Stated

section
open Sys2Proof Sys2Proof.Machine Sys2Proof.Stated

/-- WHAT REGISTER INSTRUCTIONS LEAVE ALONE (R11, R17, R22, R41, R144): everything but the wave; of the wave, everything but the
destination, the flags, the draw counts and the issuing slot's program counter and windows. -/
def Obligations.RegisterFrames : Prop :=
  (∀ (s t : State) (i : Instr) (ds : List SReg), scalarDest s i = some ds → Clear s i → exec i s = .next t →
    t = { s with wave := t.wave } ∧ waveKept s.wave t.wave ∧ t.wave.resv = s.wave.resv ∧ t.wave.draws = s.wave.draws ∧
    t.pc = s.pc + BitVec.ofNat 32 i.words ∧ t.wave.aregs = s.wave.aregs ∧ t.wave.frames = s.wave.frames ∧
    (∀ k, k ∉ ds → t.sget k = s.sget k) ∧ t.wave.flags &&& s.wave.flags = s.wave.flags ∧
    (flagless s i = true → t.wave.flags = s.wave.flags)) ∧
  (∀ (s t : State) (i : Instr) (d : VReg), laneDest s i = some d → Clear s i → exec i s = .next t →
    t = { s with wave := t.wave } ∧ waveKept s.wave t.wave ∧ t.wave.resv = s.wave.resv ∧ t.exec = s.exec ∧
    t.pc = s.pc + BitVec.ofNat 32 i.words ∧ (∀ k, t.sget k = s.sget k) ∧
    (∀ key, key ≠ s.frameKey → mget t.wave.frames key = mget s.wave.frames key) ∧
    (∀ q k, k < 64 → (q ≠ d ∨ s.exec.getLsbD k = false) → lane (t.vget q) k = lane (s.vget q) k) ∧
    t.wave.flags &&& s.wave.flags = s.wave.flags ∧ (flagless s i = true → t.wave.flags = s.wave.flags) ∧
    (convertedElement s 0 i = none → t.wave.draws = s.wave.draws))

/-- DECODED WORDS: instruction words that the spec writes out in its examples, with what they stand for, one with its literal
word (R41, R49, R50, R56, R57). -/
def Obligations.DecodedWords : Prop :=
  decodeTableWord 32 0x946000FF = some (.slit 12 0xFF#19) ∧
  decodeTableWord 32 0xA8518007 = some (.msetx 10 12) ∧
  decodeTableWord 32 0xA8470005 = some (.mpop 8 56) ∧
  decodeTableWord 32 0xA84F0006 = some (.mfirst 9 56) ∧
  decodeTableWord 32 0x98800183 = some (.slea .n 3#3 16 0 (.reg 3)) ∧
  decodeTableWord 64 (wordPair 0x9297E000 0x70000000) = some (.smov 18 (.lit 0x70000000#32)) ∧
  decodeTableWord 32 0x80924901 = some (.sadd .s32sat 18 (.reg 18) (.reg 18)) ∧
  decodeTableWord 32 0x0E080803 = some (.vmov (.v 2) (.reg (.v 1)) 0#2) ∧
  decodeTableWord 32 0x38500A81 = some (.vredmax .f32 10 (.reg (.v 1)) 1#4) ∧
  decodeTableWord 32 0x38580C80 = some (.vargmax .f32 11 (.reg (.v 1)) 0#4) ∧
  decodeTableWord 64 (wordPair 0x360857F0 0x3F800000) = some (.vexp2s (.v 2) (.sca (.reg 10)) (.lit 0x3F800000#32) 0#4) ∧
  decodeTableWord 32 0x260C0201 = some (.vmovs (.v 3) (.reg 16) 0#2) ∧
  decodeTableWord 32 0x340C1800 = some (.vrcp .f32 (.v 3) (.reg (.v 3)) 0#4) ∧
  decodeTableWord 32 0x1C101030 = some (.vmulF .f32 (.v 4) (.reg (.v 2)) (.reg (.v 3)) 0#2) ∧
  decodeTableWord 32 0x2C1424B0 = some (.vcvt .e4m3 .f32 .rne (.v 5) (.reg (.v 4)))

/-- DECODING UNDOES ENCODING, for every well-formed instruction that has words, with every operand at every value that its
field admits, whatever bytes follow (R40, R41, R44 to R50, R56, R57). -/
def Obligations.EncodeDecode : Prop :=
  ∀ (i : Instr) (rest : List Byte), i.wf = true → (encodeWord i).isSome = true →
    decode ((encode i).flatMap wordBytes ++ rest) = .ok (i, rest)

/-- ENCODING UNDOES DECODING: a word that decodes stands for a well-formed instruction whose encoding is that word, so no two
words mean one instruction and no bit of a word is ignored (R47, R59). -/
def Obligations.DecodeEncode : Prop :=
  ∀ (w lit : Word) (i : Instr), decodeWord w lit = .ok i →
    i.wf = true ∧ encodeWord i = some w.toNat ∧ (i.words = 2 → i.literal = some lit)

/-- A STEP RUNS THE DECODED INSTRUCTION (R40, R41, R59, R128, R320, R324, R335): when a step lets a wave issue, the words at the
program counter of its fragment are decoded and performed, then what follows every move happens; a word that does not decode
and a fetch that fails take their traps; a fragment whose frame lies in the spill area waits for it. Which wave issues, and how
much time passes after, is a free choice (log 2). The fault of a wave without a frame (log 60) and the wait of a move on a held layer (log
69) are the model's. -/
def Obligations.StepRunsDecoded : Prop :=
  (∀ (s : State) (n : Nat), s.wave.name = 0 →
    let v : State := { s with heldUp := false }
    let u := v.focus n
    v.choose = .issue n →
    (∀ f, mget u.wave.frames u.frameKey = some f → f.spilled = false → u.wave.evicted = false →
      (∀ t i, u.fetch = (t, .instr i) → step s = afterIssue v n (exec i t)) ∧
      (∀ t c, u.fetch = (t, .illegal c) → step s = afterIssue v n (exec (.illegalInstructionWord c) t)) ∧
      (∀ t x va, u.fetch = (t, .failed x va) → step s = afterIssue v n (exec (.codeFetchFault x) t))) ∧
    (∀ f, mget u.wave.frames u.frameKey = some f → (f.spilled = true ∨ u.wave.evicted = true) →
      step s = afterIssue v n (.next (u.park (.frame .restore)))) ∧
    (mget u.wave.frames u.frameKey = none → step s = .fault .frameNotResident)) ∧
  (∀ (u t : State) (b : List Byte), u.codeWord u.grp.ctx (some (dieOf u.wave.core)) u.pc = (t, .ok b) →
    (∀ i, decodeWord (leWord b) 0 = .ok i → i.words = 1 → u.fetch = (t, .instr i)) ∧
    (∀ c, decodeWord (leWord b) 0 = .error c → u.fetch = (t, .illegal c)) ∧
    (∀ j v l, decodeWord (leWord b) 0 = .ok j → j.words = 2 →
      t.codeWord u.grp.ctx (some (dieOf u.wave.core)) (u.pc + 1) = (v, .ok l) →
      (∀ i, decodeWord (leWord b) (leWord l) = .ok i → u.fetch = (v, .instr i)) ∧
      (∀ c, decodeWord (leWord b) (leWord l) = .error c → u.fetch = (v, .illegal c))))

/-- EVERY STEP LEAVES THE PACKAGE SETTLED (R128, R321). That CUR also leaves a fragment that has ended is the model's choice (log 90). -/
def Obligations.StepSettles : Prop := Kept Settled

/-- THE PACKAGE IS SETTLED AFTER RESET (R128, R321; log 90). -/
def Obligations.ResetSettled : Prop := Settled State.reset

/-- RESET (R38, R213, R348, R349, R351, R381): the values that the spec gives for a cold reset. The values that the spec does
not give are the model's (log 5, 6, 7). -/
def Obligations.ResetState : Prop :=
  let r := State.reset
  cleared r ∧ (∀ a, cget 0 r.spad a = 0) ∧ (∀ a, cget 0 r.hbm a = 0) ∧ r.time = 0 ∧ r.cycles = 0 ∧
  (∀ c, (r.core c).active = false ∧ (∀ k, k < 4 → (r.core c).msc.toArray.getD k 0 = 0) ∧ (r.core c).chainIn = none ∧
    (r.core c).tag0 = 0 ∧ (r.core c).tag1 = 0 ∧
    (∀ a, cget 0 (r.core c).plane0 a = 0 ∧ cget 0 (r.core c).plane1 a = 0 ∧ cget 0x7F#8 (r.core c).scale0 a = 0x7F#8 ∧
      cget 0x7F#8 (r.core c).scale1 a = 0x7F#8)) ∧
  (∀ k, r.sem k = (0, [])) ∧
  (∀ d, d < 4 → (r.die d).lt = 0 ∧ (∀ k : Fin 4, (r.die d).view.get k = 0 ∧ (r.die d).snap.get k = 0) ∧ (r.die d).erts = 0 ∧
    (r.die d).lease = 16 ∧ (r.die d).holdOvf = 0) ∧
  (∀ c, (r.chan c).thresh = 3 ∧ (r.chan c).actMax = 4096 ∧ (r.chan c).version = 0 ∧ (r.chan c).migrating = false ∧
    (r.chan c).boundary = 0 ∧ (r.chan c).corr = 0 ∧ (r.chan c).poisoned = 0 ∧ (r.chan c).subst = 0 ∧ (r.chan c).parity = 0) ∧
  r.tabor.frozen = false ∧ r.tabor.count = 0


end
end

