-- ==== Sys2Proof/Laws/Cells.lean ====
section
/-!
SUPPORT. Sys2Proof/Laws/Cells.lean: reading after writing, and that every operation on memories and finite maps keeps the
canonical form.
-/

namespace Sys2Proof.Machine

/-! ## Finite maps: any list -/

section
variable {α : Type}

theorem mget_mset (m : AMap α) (n k : Nat) (x : α) : mget (mset m n x) k = if k = n then some x else mget m k := by
  induction m with
  | nil => simp [mset, mget, eq_comm]
  | cons p m ih =>
      obtain ⟨j, v⟩ := p
      simp only [mset]
      split
      · simp [mget, eq_comm (a := n)]
      · split
        · next h => subst h; by_cases hk : k = j <;> simp [mget, hk, eq_comm]
        · next h => by_cases hk : j = k <;> simp_all [mget]

@[simp] theorem mget_mset_same (m : AMap α) (n : Nat) (x : α) : mget (mset m n x) n = some x := by simp [mget_mset]

theorem mget_mset_of_ne (m : AMap α) (n k : Nat) (x : α) (h : k ≠ n) : mget (mset m n x) k = mget m k := by
  simp [mget_mset, h]

theorem mget_mmod (m : AMap α) (n k : Nat) (f : α → α) : mget (mmod m n f) k = if k = n then (mget m k).map f else mget m k := by
  induction m with
  | nil => simp [mmod, mget]
  | cons p m ih =>
      obtain ⟨j, v⟩ := p
      simp only [mmod]
      split
      · next h => subst h; by_cases hk : j = k <;> simp [mget, hk]; exact fun e => absurd e.symm hk
      · next h => by_cases hk : j = k <;> simp_all [mget]

theorem mget_mdel_of_ne (m : AMap α) (n k : Nat) (h : k ≠ n) : mget (mdel m n) k = mget m k := by
  induction m with
  | nil => rfl
  | cons p m ih =>
      obtain ⟨j, v⟩ := p
      simp only [mdel]
      split
      · next hj => subst hj; simp [mget, Ne.symm h]
      · simp [mget, ih]

/-! ## Finite maps: the canonical form -/

theorem mwfFrom_mono (m : AMap α) (a b : Nat) (h : b ≤ a) (w : mwfFrom a m = true) : mwfFrom b m = true := by
  cases m with
  | nil => rfl
  | cons p m =>
      obtain ⟨k, v⟩ := p
      simp only [mwfFrom, Bool.and_eq_true, decide_eq_true_eq] at *
      exact ⟨by omega, w.2⟩

theorem mget_below (m : AMap α) (a n : Nat) (w : mwfFrom a m = true) (h : n < a) : mget m n = none := by
  induction m generalizing a with
  | nil => rfl
  | cons p m ih =>
      obtain ⟨k, v⟩ := p
      simp only [mwfFrom, Bool.and_eq_true, decide_eq_true_eq] at w
      rw [mget, if_neg (by omega)]
      exact ih (k + 1) w.2 (by omega)

theorem mwfFrom_mset (m : AMap α) (a n : Nat) (x : α) (w : mwfFrom a m = true) (h : a ≤ n) : mwfFrom a (mset m n x) = true := by
  induction m generalizing a with
  | nil => simp [mset, mwfFrom, h]
  | cons p m ih =>
      obtain ⟨k, v⟩ := p
      simp only [mwfFrom, Bool.and_eq_true, decide_eq_true_eq] at w
      simp only [mset]
      split
      · next hk => simp [mwfFrom, h, w.2]; omega
      · split
        · next hk => subst hk; simp [mwfFrom, h, w.2]
        · next hk => simp [mwfFrom, w.1, ih (k + 1) w.2 (by omega)]

theorem mwf_mset (m : AMap α) (n : Nat) (x : α) (w : mwf m = true) : mwf (mset m n x) = true :=
  mwfFrom_mset m 0 n x w (Nat.zero_le n)

theorem mwfFrom_mmod (m : AMap α) (a n : Nat) (f : α → α) (w : mwfFrom a m = true) : mwfFrom a (mmod m n f) = true := by
  induction m generalizing a with
  | nil => rfl
  | cons p m ih =>
      obtain ⟨k, v⟩ := p
      simp only [mwfFrom, Bool.and_eq_true, decide_eq_true_eq] at w
      simp only [mmod]
      split <;> simp [mwfFrom, w.1, w.2, ih]

theorem mwf_mmod (m : AMap α) (n : Nat) (f : α → α) (w : mwf m = true) : mwf (mmod m n f) = true := mwfFrom_mmod m 0 n f w

theorem mwfFrom_mdel (m : AMap α) (a n : Nat) (w : mwfFrom a m = true) : mwfFrom a (mdel m n) = true := by
  induction m generalizing a with
  | nil => rfl
  | cons p m ih =>
      obtain ⟨k, v⟩ := p
      simp only [mwfFrom, Bool.and_eq_true, decide_eq_true_eq] at w
      simp only [mdel]
      split
      · exact mwfFrom_mono m (k + 1) a (by omega) w.2
      · simp [mwfFrom, w.1, ih (k + 1) w.2]

theorem mwf_mdel (m : AMap α) (n : Nat) (w : mwf m = true) : mwf (mdel m n) = true := mwfFrom_mdel m 0 n w

theorem mget_mdelFrom (m : AMap α) (a n : Nat) (w : mwfFrom a m = true) : mget (mdel m n) n = none := by
  induction m generalizing a with
  | nil => rfl
  | cons p m ih =>
      obtain ⟨k, v⟩ := p
      simp only [mwfFrom, Bool.and_eq_true, decide_eq_true_eq] at w
      simp only [mdel]
      split
      · next h => subst h; exact mget_below m (k + 1) k w.2 (by omega)
      · next h => rw [mget, if_neg h]; exact ih (k + 1) w.2

theorem mget_mdel_same (m : AMap α) (n : Nat) (w : mwf m = true) : mget (mdel m n) n = none := mget_mdelFrom m 0 n w

end

/-! ## Byte memories -/

theorem cwfFrom_mono (d : Byte) (m : Cells) (a b : Nat) (h : b ≤ a) (w : cwfFrom d a m = true) : cwfFrom d b m = true := by
  cases m with
  | nil => rfl
  | cons p m =>
      obtain ⟨k, v⟩ := p
      simp only [cwfFrom, Bool.and_eq_true, decide_eq_true_eq] at *
      exact ⟨⟨by omega, w.1.2⟩, w.2⟩

theorem cget_below (d : Byte) (m : Cells) (a n : Nat) (w : cwfFrom d a m = true) (h : n < a) : cget d m n = d := by
  cases m with
  | nil => rfl
  | cons p m =>
      obtain ⟨k, v⟩ := p
      simp only [cwfFrom, Bool.and_eq_true, decide_eq_true_eq] at w
      rw [cget, if_neg (by omega), if_pos (by omega)]

/-- A write keeps the canonical form. -/
theorem cwfFrom_cset (d : Byte) (m : Cells) (a n : Nat) (x : Byte) (w : cwfFrom d a m = true) (h : a ≤ n) :
    cwfFrom d a (cset d m n x) = true := by
  induction m generalizing a with
  | nil => by_cases hx : x = d <;> simp [cset, hx, cwfFrom, h]
  | cons p m ih =>
      obtain ⟨k, v⟩ := p
      simp only [cwfFrom, Bool.and_eq_true, decide_eq_true_eq] at w
      simp only [cset]
      split
      · by_cases hx : x = d
        · simp [hx, cwfFrom, w.1.1, w.2]; simpa using w.1.2
        · simp [hx, cwfFrom, h, w.2]; exact ⟨by omega, by simpa using w.1.2⟩
      · split
        · next hk =>
            subst hk
            by_cases hx : x = d
            · simp only [hx, if_true]; exact cwfFrom_mono d m (k + 1) a (by omega) w.2
            · simp [hx, cwfFrom, h, w.2]
        · simp only [cwfFrom, Bool.and_eq_true, decide_eq_true_eq]
          exact ⟨⟨w.1.1, w.1.2⟩, ih (k + 1) w.2 (by omega)⟩

theorem cwf_cset (d : Byte) (m : Cells) (n : Nat) (x : Byte) (w : cwf d m = true) : cwf d (cset d m n x) = true :=
  cwfFrom_cset d m 0 n x w (Nat.zero_le n)

theorem cwf_cwrite (d : Byte) (m : Cells) (a : Nat) (b : List Byte) (w : cwf d m = true) : cwf d (cwrite d m a b) = true := by
  induction b generalizing m a with
  | nil => exact w
  | cons x b ih => exact ih _ _ (cwf_cset d m a x w)

theorem cwfFrom_filter (d : Byte) (m : Cells) (p : Host.Cell → Bool) (a : Nat) (w : cwfFrom d a m = true) :
    cwfFrom d a (m.filter p) = true := by
  induction m generalizing a with
  | nil => rfl
  | cons q m ih =>
      obtain ⟨k, v⟩ := q
      simp only [cwfFrom, Bool.and_eq_true, decide_eq_true_eq] at w
      by_cases hp : p (k, v) = true
      · rw [List.filter_cons_of_pos hp]
        simp only [cwfFrom, Bool.and_eq_true, decide_eq_true_eq]
        exact ⟨w.1, ih (k + 1) w.2⟩
      · rw [List.filter_cons_of_neg hp]
        exact ih a (cwfFrom_mono d m (k + 1) a (by omega) w.2)

theorem cwf_cclear (d : Byte) (m : Cells) (lo hi : Nat) (w : cwf d m = true) : cwf d (cclear m lo hi) = true :=
  cwfFrom_filter d m _ 0 w

/-- A read after a write. -/
theorem cget_csetFrom (d : Byte) (m : Cells) (a n k : Nat) (x : Byte) (w : cwfFrom d a m = true) :
    cget d (cset d m n x) k = if k = n then x else cget d m k := by
  induction m generalizing a with
  | nil =>
      by_cases hx : x = d <;> by_cases hk : k = n <;> simp [cset, cget, hx, hk] <;> (intro h; exact absurd h.symm hk)
  | cons p m ih =>
      obtain ⟨j, v⟩ := p
      simp only [cwfFrom, Bool.and_eq_true, decide_eq_true_eq] at w
      simp only [cset]
      split
      · next hj =>
          by_cases hx : x = d
          · subst hx
            simp only [if_true]
            split
            · next hk => subst hk; rw [cget, if_neg (by omega), if_pos hj]
            · rfl
          · simp only [hx, if_false]
            split
            · next hk => subst hk; simp [cget]
            · next hk =>
                rw [cget, if_neg (by omega)]
                split
                · rw [cget, if_neg (by omega), if_pos (by omega)]
                · rfl
      · next hj =>
          split
          · next hjn =>
              subst hjn
              by_cases hx : x = d
              · subst hx
                simp only [if_true]
                split
                · next hk => subst hk; exact cget_below x m (k + 1) k w.2 (by omega)
                · next hk =>
                    rw [cget, if_neg (fun h => hk h.symm)]
                    split
                    · exact cget_below x m (j + 1) k w.2 (by omega)
                    · rfl
              · simp only [hx, if_false]
                split
                · next hk => subst hk; simp [cget]
                · next hk => simp only [cget, if_neg (fun h : j = k => hk h.symm)]
          · next hjn =>
              simp only [cget]
              split
              · next hk => subst hk; rw [if_neg hjn]
              · split
                · rw [if_neg (by omega)]
                · exact ih (j + 1) w.2

theorem cget_cset (d : Byte) (m : Cells) (n k : Nat) (x : Byte) (w : cwf d m = true) :
    cget d (cset d m n x) k = if k = n then x else cget d m k := cget_csetFrom d m 0 n k x w

/-- Reading after a write of several bytes. -/
theorem cget_cwrite (d : Byte) (m : Cells) (a : Nat) (b : List Byte) (k : Nat) (w : cwf d m = true) :
    cget d (cwrite d m a b) k = if a ≤ k then b.getD (k - a) (cget d m k) else cget d m k := by
  induction b generalizing m a with
  | nil => simp [cwrite]
  | cons x b ih =>
      rw [cwrite, ih _ _ (cwf_cset d m a x w), cget_cset d m a k x w]
      by_cases h : k = a
      · subst h; simp [show ¬ k + 1 ≤ k by omega]
      · by_cases h1 : a ≤ k
        · have e : k - a = (k - (a + 1)) + 1 := by omega
          simp [h, h1, show a + 1 ≤ k by omega, e]
        · simp [h, h1, show ¬ a + 1 ≤ k by omega]

/-- A write leaves every byte outside it alone. -/
theorem cget_cwrite_of_out (d : Byte) (m : Cells) (a : Nat) (b : List Byte) (k : Nat) (w : cwf d m = true)
    (h : ¬ (a ≤ k ∧ k < a + b.length)) : cget d (cwrite d m a b) k = cget d m k := by
  rw [cget_cwrite d m a b k w]
  split
  · next h1 => rw [List.getD_eq_getElem?_getD, List.getElem?_eq_none (by omega)]; rfl
  · rfl

theorem cread_length (d : Byte) (m : Cells) (a n : Nat) : (cread d m a n).length = n := by
  induction n generalizing a with
  | zero => rfl
  | succ n ih => simp [cread, ih]

/-- Reading back what was written. -/
theorem cread_cwrite (d : Byte) (m : Cells) (a : Nat) (b : List Byte) (w : cwf d m = true) :
    cread d (cwrite d m a b) a b.length = b := by
  induction b generalizing m a with
  | nil => rfl
  | cons x b ih =>
      rw [List.length_cons, cread]
      congr 1
      · rw [cget_cwrite d m a (x :: b) a w]; simp
      · exact ih (cset d m a x) (a + 1) (cwf_cset d m a x w)

end Sys2Proof.Machine
end

