-- ==== Sys2Proof/Laws/State.lean ====
section
/-!
SUPPORT. Sys2Proof/Laws/State.lean: what the updates of the state leave as it was: one lemma per update and field.
-/

namespace Sys2Proof.Machine

/-! ## setSlot -/

@[simp] theorem State.setSlot_grp (s : State) (x : Slot) : (s.setSlot x).grp = s.grp := rfl
@[simp] theorem State.setSlot_waves (s : State) (x : Slot) : (s.setSlot x).waves = s.waves := rfl
@[simp] theorem State.setSlot_groups (s : State) (x : Slot) : (s.setSlot x).groups = s.groups := rfl
@[simp] theorem State.setSlot_spad (s : State) (x : Slot) : (s.setSlot x).spad = s.spad := rfl
@[simp] theorem State.setSlot_cores (s : State) (x : Slot) : (s.setSlot x).cores = s.cores := rfl
@[simp] theorem State.setSlot_ops (s : State) (x : Slot) : (s.setSlot x).ops = s.ops := rfl
@[simp] theorem State.setSlot_enrols (s : State) (x : Slot) : (s.setSlot x).enrols = s.enrols := rfl
@[simp] theorem State.setSlot_holds (s : State) (x : Slot) : (s.setSlot x).holds = s.holds := rfl
@[simp] theorem State.setSlot_lates (s : State) (x : Slot) : (s.setSlot x).lates = s.lates := rfl
@[simp] theorem State.setSlot_resid (s : State) (x : Slot) : (s.setSlot x).resid = s.resid := rfl
@[simp] theorem State.setSlot_tracks (s : State) (x : Slot) : (s.setSlot x).tracks = s.tracks := rfl
@[simp] theorem State.setSlot_watches (s : State) (x : Slot) : (s.setSlot x).watches = s.watches := rfl
@[simp] theorem State.setSlot_evals (s : State) (x : Slot) : (s.setSlot x).evals = s.evals := rfl
@[simp] theorem State.setSlot_ctxs (s : State) (x : Slot) : (s.setSlot x).ctxs = s.ctxs := rfl
@[simp] theorem State.setSlot_runs (s : State) (x : Slot) : (s.setSlot x).runs = s.runs := rfl
@[simp] theorem State.setSlot_launches (s : State) (x : Slot) : (s.setSlot x).launches = s.launches := rfl
@[simp] theorem State.setSlot_hbm (s : State) (x : Slot) : (s.setSlot x).hbm = s.hbm := rfl
@[simp] theorem State.setSlot_l2 (s : State) (x : Slot) : (s.setSlot x).l2 = s.l2 := rfl
@[simp] theorem State.setSlot_rdc (s : State) (x : Slot) : (s.setSlot x).rdc = s.rdc := rfl
@[simp] theorem State.setSlot_tlbs (s : State) (x : Slot) : (s.setSlot x).tlbs = s.tlbs := rfl
@[simp] theorem State.setSlot_chans (s : State) (x : Slot) : (s.setSlot x).chans = s.chans := rfl
@[simp] theorem State.setSlot_layers (s : State) (x : Slot) : (s.setSlot x).layers = s.layers := rfl
@[simp] theorem State.setSlot_rowCnt (s : State) (x : Slot) : (s.setSlot x).rowCnt = s.rowCnt := rfl
@[simp] theorem State.setSlot_badLines (s : State) (x : Slot) : (s.setSlot x).badLines = s.badLines := rfl
@[simp] theorem State.setSlot_upsets (s : State) (x : Slot) : (s.setSlot x).upsets = s.upsets := rfl
@[simp] theorem State.setSlot_heldUp (s : State) (x : Slot) : (s.setSlot x).heldUp = s.heldUp := rfl
@[simp] theorem State.setSlot_dies (s : State) (x : Slot) : (s.setSlot x).dies = s.dies := rfl
@[simp] theorem State.setSlot_notices (s : State) (x : Slot) : (s.setSlot x).notices = s.notices := rfl
@[simp] theorem State.setSlot_invals (s : State) (x : Slot) : (s.setSlot x).invals = s.invals := rfl
@[simp] theorem State.setSlot_homeKey (s : State) (x : Slot) : (s.setSlot x).homeKey = s.homeKey := rfl
@[simp] theorem State.setSlot_vkeys (s : State) (x : Slot) : (s.setSlot x).vkeys = s.vkeys := rfl
@[simp] theorem State.setSlot_windows (s : State) (x : Slot) : (s.setSlot x).windows = s.windows := rfl
@[simp] theorem State.setSlot_inbound (s : State) (x : Slot) : (s.setSlot x).inbound = s.inbound := rfl
@[simp] theorem State.setSlot_owed (s : State) (x : Slot) : (s.setSlot x).owed = s.owed := rfl
@[simp] theorem State.setSlot_hostWin (s : State) (x : Slot) : (s.setSlot x).hostWin = s.hostWin := rfl
@[simp] theorem State.setSlot_qps (s : State) (x : Slot) : (s.setSlot x).qps = s.qps := rfl
@[simp] theorem State.setSlot_unacked (s : State) (x : Slot) : (s.setSlot x).unacked = s.unacked := rfl
@[simp] theorem State.setSlot_performed (s : State) (x : Slot) : (s.setSlot x).performed = s.performed := rfl
@[simp] theorem State.setSlot_hostOps (s : State) (x : Slot) : (s.setSlot x).hostOps = s.hostOps := rfl
@[simp] theorem State.setSlot_routes (s : State) (x : Slot) : (s.setSlot x).routes = s.routes := rfl
@[simp] theorem State.setSlot_ports (s : State) (x : Slot) : (s.setSlot x).ports = s.ports := rfl
@[simp] theorem State.setSlot_comms (s : State) (x : Slot) : (s.setSlot x).comms = s.comms := rfl
@[simp] theorem State.setSlot_colls (s : State) (x : Slot) : (s.setSlot x).colls = s.colls := rfl
@[simp] theorem State.setSlot_parts (s : State) (x : Slot) : (s.setSlot x).parts = s.parts := rfl
@[simp] theorem State.setSlot_ctxEnergy (s : State) (x : Slot) : (s.setSlot x).ctxEnergy = s.ctxEnergy := rfl
@[simp] theorem State.setSlot_hub (s : State) (x : Slot) : (s.setSlot x).hub = s.hub := rfl
@[simp] theorem State.setSlot_tabor (s : State) (x : Slot) : (s.setSlot x).tabor = s.tabor := rfl
@[simp] theorem State.setSlot_seqs (s : State) (x : Slot) : (s.setSlot x).seqs = s.seqs := rfl
@[simp] theorem State.setSlot_time (s : State) (x : Slot) : (s.setSlot x).time = s.time := rfl
@[simp] theorem State.setSlot_cycles (s : State) (x : Slot) : (s.setSlot x).cycles = s.cycles := rfl
@[simp] theorem State.setSlot_outbox (s : State) (x : Slot) : (s.setSlot x).outbox = s.outbox := rfl
@[simp] theorem State.setSlot_inbox (s : State) (x : Slot) : (s.setSlot x).inbox = s.inbox := rfl
@[simp] theorem State.setSlot_names (s : State) (x : Slot) : (s.setSlot x).names = s.names := rfl
@[simp] theorem State.setSlot_oracle (s : State) (x : Slot) : (s.setSlot x).oracle = s.oracle := rfl

/-! ## setPc -/

@[simp] theorem State.setPc_grp (s : State) (x : Word) : (s.setPc x).grp = s.grp := rfl
@[simp] theorem State.setPc_waves (s : State) (x : Word) : (s.setPc x).waves = s.waves := rfl
@[simp] theorem State.setPc_groups (s : State) (x : Word) : (s.setPc x).groups = s.groups := rfl
@[simp] theorem State.setPc_spad (s : State) (x : Word) : (s.setPc x).spad = s.spad := rfl
@[simp] theorem State.setPc_cores (s : State) (x : Word) : (s.setPc x).cores = s.cores := rfl
@[simp] theorem State.setPc_ops (s : State) (x : Word) : (s.setPc x).ops = s.ops := rfl
@[simp] theorem State.setPc_enrols (s : State) (x : Word) : (s.setPc x).enrols = s.enrols := rfl
@[simp] theorem State.setPc_holds (s : State) (x : Word) : (s.setPc x).holds = s.holds := rfl
@[simp] theorem State.setPc_lates (s : State) (x : Word) : (s.setPc x).lates = s.lates := rfl
@[simp] theorem State.setPc_resid (s : State) (x : Word) : (s.setPc x).resid = s.resid := rfl
@[simp] theorem State.setPc_tracks (s : State) (x : Word) : (s.setPc x).tracks = s.tracks := rfl
@[simp] theorem State.setPc_watches (s : State) (x : Word) : (s.setPc x).watches = s.watches := rfl
@[simp] theorem State.setPc_evals (s : State) (x : Word) : (s.setPc x).evals = s.evals := rfl
@[simp] theorem State.setPc_ctxs (s : State) (x : Word) : (s.setPc x).ctxs = s.ctxs := rfl
@[simp] theorem State.setPc_runs (s : State) (x : Word) : (s.setPc x).runs = s.runs := rfl
@[simp] theorem State.setPc_launches (s : State) (x : Word) : (s.setPc x).launches = s.launches := rfl
@[simp] theorem State.setPc_hbm (s : State) (x : Word) : (s.setPc x).hbm = s.hbm := rfl
@[simp] theorem State.setPc_l2 (s : State) (x : Word) : (s.setPc x).l2 = s.l2 := rfl
@[simp] theorem State.setPc_rdc (s : State) (x : Word) : (s.setPc x).rdc = s.rdc := rfl
@[simp] theorem State.setPc_tlbs (s : State) (x : Word) : (s.setPc x).tlbs = s.tlbs := rfl
@[simp] theorem State.setPc_chans (s : State) (x : Word) : (s.setPc x).chans = s.chans := rfl
@[simp] theorem State.setPc_layers (s : State) (x : Word) : (s.setPc x).layers = s.layers := rfl
@[simp] theorem State.setPc_rowCnt (s : State) (x : Word) : (s.setPc x).rowCnt = s.rowCnt := rfl
@[simp] theorem State.setPc_badLines (s : State) (x : Word) : (s.setPc x).badLines = s.badLines := rfl
@[simp] theorem State.setPc_upsets (s : State) (x : Word) : (s.setPc x).upsets = s.upsets := rfl
@[simp] theorem State.setPc_heldUp (s : State) (x : Word) : (s.setPc x).heldUp = s.heldUp := rfl
@[simp] theorem State.setPc_dies (s : State) (x : Word) : (s.setPc x).dies = s.dies := rfl
@[simp] theorem State.setPc_notices (s : State) (x : Word) : (s.setPc x).notices = s.notices := rfl
@[simp] theorem State.setPc_invals (s : State) (x : Word) : (s.setPc x).invals = s.invals := rfl
@[simp] theorem State.setPc_homeKey (s : State) (x : Word) : (s.setPc x).homeKey = s.homeKey := rfl
@[simp] theorem State.setPc_vkeys (s : State) (x : Word) : (s.setPc x).vkeys = s.vkeys := rfl
@[simp] theorem State.setPc_windows (s : State) (x : Word) : (s.setPc x).windows = s.windows := rfl
@[simp] theorem State.setPc_inbound (s : State) (x : Word) : (s.setPc x).inbound = s.inbound := rfl
@[simp] theorem State.setPc_owed (s : State) (x : Word) : (s.setPc x).owed = s.owed := rfl
@[simp] theorem State.setPc_hostWin (s : State) (x : Word) : (s.setPc x).hostWin = s.hostWin := rfl
@[simp] theorem State.setPc_qps (s : State) (x : Word) : (s.setPc x).qps = s.qps := rfl
@[simp] theorem State.setPc_unacked (s : State) (x : Word) : (s.setPc x).unacked = s.unacked := rfl
@[simp] theorem State.setPc_performed (s : State) (x : Word) : (s.setPc x).performed = s.performed := rfl
@[simp] theorem State.setPc_hostOps (s : State) (x : Word) : (s.setPc x).hostOps = s.hostOps := rfl
@[simp] theorem State.setPc_routes (s : State) (x : Word) : (s.setPc x).routes = s.routes := rfl
@[simp] theorem State.setPc_ports (s : State) (x : Word) : (s.setPc x).ports = s.ports := rfl
@[simp] theorem State.setPc_comms (s : State) (x : Word) : (s.setPc x).comms = s.comms := rfl
@[simp] theorem State.setPc_colls (s : State) (x : Word) : (s.setPc x).colls = s.colls := rfl
@[simp] theorem State.setPc_parts (s : State) (x : Word) : (s.setPc x).parts = s.parts := rfl
@[simp] theorem State.setPc_ctxEnergy (s : State) (x : Word) : (s.setPc x).ctxEnergy = s.ctxEnergy := rfl
@[simp] theorem State.setPc_hub (s : State) (x : Word) : (s.setPc x).hub = s.hub := rfl
@[simp] theorem State.setPc_tabor (s : State) (x : Word) : (s.setPc x).tabor = s.tabor := rfl
@[simp] theorem State.setPc_seqs (s : State) (x : Word) : (s.setPc x).seqs = s.seqs := rfl
@[simp] theorem State.setPc_time (s : State) (x : Word) : (s.setPc x).time = s.time := rfl
@[simp] theorem State.setPc_cycles (s : State) (x : Word) : (s.setPc x).cycles = s.cycles := rfl
@[simp] theorem State.setPc_outbox (s : State) (x : Word) : (s.setPc x).outbox = s.outbox := rfl
@[simp] theorem State.setPc_inbox (s : State) (x : Word) : (s.setPc x).inbox = s.inbox := rfl
@[simp] theorem State.setPc_names (s : State) (x : Word) : (s.setPc x).names = s.names := rfl
@[simp] theorem State.setPc_oracle (s : State) (x : Word) : (s.setPc x).oracle = s.oracle := rfl

/-! ## nextPc -/

@[simp] theorem State.nextPc_grp (s : State) (i : Instr) : (s.nextPc i).grp = s.grp := rfl
@[simp] theorem State.nextPc_waves (s : State) (i : Instr) : (s.nextPc i).waves = s.waves := rfl
@[simp] theorem State.nextPc_groups (s : State) (i : Instr) : (s.nextPc i).groups = s.groups := rfl
@[simp] theorem State.nextPc_spad (s : State) (i : Instr) : (s.nextPc i).spad = s.spad := rfl
@[simp] theorem State.nextPc_cores (s : State) (i : Instr) : (s.nextPc i).cores = s.cores := rfl
@[simp] theorem State.nextPc_ops (s : State) (i : Instr) : (s.nextPc i).ops = s.ops := rfl
@[simp] theorem State.nextPc_enrols (s : State) (i : Instr) : (s.nextPc i).enrols = s.enrols := rfl
@[simp] theorem State.nextPc_holds (s : State) (i : Instr) : (s.nextPc i).holds = s.holds := rfl
@[simp] theorem State.nextPc_lates (s : State) (i : Instr) : (s.nextPc i).lates = s.lates := rfl
@[simp] theorem State.nextPc_resid (s : State) (i : Instr) : (s.nextPc i).resid = s.resid := rfl
@[simp] theorem State.nextPc_tracks (s : State) (i : Instr) : (s.nextPc i).tracks = s.tracks := rfl
@[simp] theorem State.nextPc_watches (s : State) (i : Instr) : (s.nextPc i).watches = s.watches := rfl
@[simp] theorem State.nextPc_evals (s : State) (i : Instr) : (s.nextPc i).evals = s.evals := rfl
@[simp] theorem State.nextPc_ctxs (s : State) (i : Instr) : (s.nextPc i).ctxs = s.ctxs := rfl
@[simp] theorem State.nextPc_runs (s : State) (i : Instr) : (s.nextPc i).runs = s.runs := rfl
@[simp] theorem State.nextPc_launches (s : State) (i : Instr) : (s.nextPc i).launches = s.launches := rfl
@[simp] theorem State.nextPc_hbm (s : State) (i : Instr) : (s.nextPc i).hbm = s.hbm := rfl
@[simp] theorem State.nextPc_l2 (s : State) (i : Instr) : (s.nextPc i).l2 = s.l2 := rfl
@[simp] theorem State.nextPc_rdc (s : State) (i : Instr) : (s.nextPc i).rdc = s.rdc := rfl
@[simp] theorem State.nextPc_tlbs (s : State) (i : Instr) : (s.nextPc i).tlbs = s.tlbs := rfl
@[simp] theorem State.nextPc_chans (s : State) (i : Instr) : (s.nextPc i).chans = s.chans := rfl
@[simp] theorem State.nextPc_layers (s : State) (i : Instr) : (s.nextPc i).layers = s.layers := rfl
@[simp] theorem State.nextPc_rowCnt (s : State) (i : Instr) : (s.nextPc i).rowCnt = s.rowCnt := rfl
@[simp] theorem State.nextPc_badLines (s : State) (i : Instr) : (s.nextPc i).badLines = s.badLines := rfl
@[simp] theorem State.nextPc_upsets (s : State) (i : Instr) : (s.nextPc i).upsets = s.upsets := rfl
@[simp] theorem State.nextPc_heldUp (s : State) (i : Instr) : (s.nextPc i).heldUp = s.heldUp := rfl
@[simp] theorem State.nextPc_dies (s : State) (i : Instr) : (s.nextPc i).dies = s.dies := rfl
@[simp] theorem State.nextPc_notices (s : State) (i : Instr) : (s.nextPc i).notices = s.notices := rfl
@[simp] theorem State.nextPc_invals (s : State) (i : Instr) : (s.nextPc i).invals = s.invals := rfl
@[simp] theorem State.nextPc_homeKey (s : State) (i : Instr) : (s.nextPc i).homeKey = s.homeKey := rfl
@[simp] theorem State.nextPc_vkeys (s : State) (i : Instr) : (s.nextPc i).vkeys = s.vkeys := rfl
@[simp] theorem State.nextPc_windows (s : State) (i : Instr) : (s.nextPc i).windows = s.windows := rfl
@[simp] theorem State.nextPc_inbound (s : State) (i : Instr) : (s.nextPc i).inbound = s.inbound := rfl
@[simp] theorem State.nextPc_owed (s : State) (i : Instr) : (s.nextPc i).owed = s.owed := rfl
@[simp] theorem State.nextPc_hostWin (s : State) (i : Instr) : (s.nextPc i).hostWin = s.hostWin := rfl
@[simp] theorem State.nextPc_qps (s : State) (i : Instr) : (s.nextPc i).qps = s.qps := rfl
@[simp] theorem State.nextPc_unacked (s : State) (i : Instr) : (s.nextPc i).unacked = s.unacked := rfl
@[simp] theorem State.nextPc_performed (s : State) (i : Instr) : (s.nextPc i).performed = s.performed := rfl
@[simp] theorem State.nextPc_hostOps (s : State) (i : Instr) : (s.nextPc i).hostOps = s.hostOps := rfl
@[simp] theorem State.nextPc_routes (s : State) (i : Instr) : (s.nextPc i).routes = s.routes := rfl
@[simp] theorem State.nextPc_ports (s : State) (i : Instr) : (s.nextPc i).ports = s.ports := rfl
@[simp] theorem State.nextPc_comms (s : State) (i : Instr) : (s.nextPc i).comms = s.comms := rfl
@[simp] theorem State.nextPc_colls (s : State) (i : Instr) : (s.nextPc i).colls = s.colls := rfl
@[simp] theorem State.nextPc_parts (s : State) (i : Instr) : (s.nextPc i).parts = s.parts := rfl
@[simp] theorem State.nextPc_ctxEnergy (s : State) (i : Instr) : (s.nextPc i).ctxEnergy = s.ctxEnergy := rfl
@[simp] theorem State.nextPc_hub (s : State) (i : Instr) : (s.nextPc i).hub = s.hub := rfl
@[simp] theorem State.nextPc_tabor (s : State) (i : Instr) : (s.nextPc i).tabor = s.tabor := rfl
@[simp] theorem State.nextPc_seqs (s : State) (i : Instr) : (s.nextPc i).seqs = s.seqs := rfl
@[simp] theorem State.nextPc_time (s : State) (i : Instr) : (s.nextPc i).time = s.time := rfl
@[simp] theorem State.nextPc_cycles (s : State) (i : Instr) : (s.nextPc i).cycles = s.cycles := rfl
@[simp] theorem State.nextPc_outbox (s : State) (i : Instr) : (s.nextPc i).outbox = s.outbox := rfl
@[simp] theorem State.nextPc_inbox (s : State) (i : Instr) : (s.nextPc i).inbox = s.inbox := rfl
@[simp] theorem State.nextPc_names (s : State) (i : Instr) : (s.nextPc i).names = s.names := rfl
@[simp] theorem State.nextPc_oracle (s : State) (i : Instr) : (s.nextPc i).oracle = s.oracle := rfl

/-! ## setMask -/

@[simp] theorem State.setMask_grp (s : State) (x : Dword) : (s.setMask x).grp = s.grp := rfl
@[simp] theorem State.setMask_waves (s : State) (x : Dword) : (s.setMask x).waves = s.waves := rfl
@[simp] theorem State.setMask_groups (s : State) (x : Dword) : (s.setMask x).groups = s.groups := rfl
@[simp] theorem State.setMask_spad (s : State) (x : Dword) : (s.setMask x).spad = s.spad := rfl
@[simp] theorem State.setMask_cores (s : State) (x : Dword) : (s.setMask x).cores = s.cores := rfl
@[simp] theorem State.setMask_ops (s : State) (x : Dword) : (s.setMask x).ops = s.ops := rfl
@[simp] theorem State.setMask_enrols (s : State) (x : Dword) : (s.setMask x).enrols = s.enrols := rfl
@[simp] theorem State.setMask_holds (s : State) (x : Dword) : (s.setMask x).holds = s.holds := rfl
@[simp] theorem State.setMask_lates (s : State) (x : Dword) : (s.setMask x).lates = s.lates := rfl
@[simp] theorem State.setMask_resid (s : State) (x : Dword) : (s.setMask x).resid = s.resid := rfl
@[simp] theorem State.setMask_tracks (s : State) (x : Dword) : (s.setMask x).tracks = s.tracks := rfl
@[simp] theorem State.setMask_watches (s : State) (x : Dword) : (s.setMask x).watches = s.watches := rfl
@[simp] theorem State.setMask_evals (s : State) (x : Dword) : (s.setMask x).evals = s.evals := rfl
@[simp] theorem State.setMask_ctxs (s : State) (x : Dword) : (s.setMask x).ctxs = s.ctxs := rfl
@[simp] theorem State.setMask_runs (s : State) (x : Dword) : (s.setMask x).runs = s.runs := rfl
@[simp] theorem State.setMask_launches (s : State) (x : Dword) : (s.setMask x).launches = s.launches := rfl
@[simp] theorem State.setMask_hbm (s : State) (x : Dword) : (s.setMask x).hbm = s.hbm := rfl
@[simp] theorem State.setMask_l2 (s : State) (x : Dword) : (s.setMask x).l2 = s.l2 := rfl
@[simp] theorem State.setMask_rdc (s : State) (x : Dword) : (s.setMask x).rdc = s.rdc := rfl
@[simp] theorem State.setMask_tlbs (s : State) (x : Dword) : (s.setMask x).tlbs = s.tlbs := rfl
@[simp] theorem State.setMask_chans (s : State) (x : Dword) : (s.setMask x).chans = s.chans := rfl
@[simp] theorem State.setMask_layers (s : State) (x : Dword) : (s.setMask x).layers = s.layers := rfl
@[simp] theorem State.setMask_rowCnt (s : State) (x : Dword) : (s.setMask x).rowCnt = s.rowCnt := rfl
@[simp] theorem State.setMask_badLines (s : State) (x : Dword) : (s.setMask x).badLines = s.badLines := rfl
@[simp] theorem State.setMask_upsets (s : State) (x : Dword) : (s.setMask x).upsets = s.upsets := rfl
@[simp] theorem State.setMask_heldUp (s : State) (x : Dword) : (s.setMask x).heldUp = s.heldUp := rfl
@[simp] theorem State.setMask_dies (s : State) (x : Dword) : (s.setMask x).dies = s.dies := rfl
@[simp] theorem State.setMask_notices (s : State) (x : Dword) : (s.setMask x).notices = s.notices := rfl
@[simp] theorem State.setMask_invals (s : State) (x : Dword) : (s.setMask x).invals = s.invals := rfl
@[simp] theorem State.setMask_homeKey (s : State) (x : Dword) : (s.setMask x).homeKey = s.homeKey := rfl
@[simp] theorem State.setMask_vkeys (s : State) (x : Dword) : (s.setMask x).vkeys = s.vkeys := rfl
@[simp] theorem State.setMask_windows (s : State) (x : Dword) : (s.setMask x).windows = s.windows := rfl
@[simp] theorem State.setMask_inbound (s : State) (x : Dword) : (s.setMask x).inbound = s.inbound := rfl
@[simp] theorem State.setMask_owed (s : State) (x : Dword) : (s.setMask x).owed = s.owed := rfl
@[simp] theorem State.setMask_hostWin (s : State) (x : Dword) : (s.setMask x).hostWin = s.hostWin := rfl
@[simp] theorem State.setMask_qps (s : State) (x : Dword) : (s.setMask x).qps = s.qps := rfl
@[simp] theorem State.setMask_unacked (s : State) (x : Dword) : (s.setMask x).unacked = s.unacked := rfl
@[simp] theorem State.setMask_performed (s : State) (x : Dword) : (s.setMask x).performed = s.performed := rfl
@[simp] theorem State.setMask_hostOps (s : State) (x : Dword) : (s.setMask x).hostOps = s.hostOps := rfl
@[simp] theorem State.setMask_routes (s : State) (x : Dword) : (s.setMask x).routes = s.routes := rfl
@[simp] theorem State.setMask_ports (s : State) (x : Dword) : (s.setMask x).ports = s.ports := rfl
@[simp] theorem State.setMask_comms (s : State) (x : Dword) : (s.setMask x).comms = s.comms := rfl
@[simp] theorem State.setMask_colls (s : State) (x : Dword) : (s.setMask x).colls = s.colls := rfl
@[simp] theorem State.setMask_parts (s : State) (x : Dword) : (s.setMask x).parts = s.parts := rfl
@[simp] theorem State.setMask_ctxEnergy (s : State) (x : Dword) : (s.setMask x).ctxEnergy = s.ctxEnergy := rfl
@[simp] theorem State.setMask_hub (s : State) (x : Dword) : (s.setMask x).hub = s.hub := rfl
@[simp] theorem State.setMask_tabor (s : State) (x : Dword) : (s.setMask x).tabor = s.tabor := rfl
@[simp] theorem State.setMask_seqs (s : State) (x : Dword) : (s.setMask x).seqs = s.seqs := rfl
@[simp] theorem State.setMask_time (s : State) (x : Dword) : (s.setMask x).time = s.time := rfl
@[simp] theorem State.setMask_cycles (s : State) (x : Dword) : (s.setMask x).cycles = s.cycles := rfl
@[simp] theorem State.setMask_outbox (s : State) (x : Dword) : (s.setMask x).outbox = s.outbox := rfl
@[simp] theorem State.setMask_inbox (s : State) (x : Dword) : (s.setMask x).inbox = s.inbox := rfl
@[simp] theorem State.setMask_names (s : State) (x : Dword) : (s.setMask x).names = s.names := rfl
@[simp] theorem State.setMask_oracle (s : State) (x : Dword) : (s.setMask x).oracle = s.oracle := rfl

/-! ## setExec -/

@[simp] theorem State.setExec_grp (s : State) (x : Dword) : (s.setExec x).grp = s.grp := rfl
@[simp] theorem State.setExec_waves (s : State) (x : Dword) : (s.setExec x).waves = s.waves := rfl
@[simp] theorem State.setExec_groups (s : State) (x : Dword) : (s.setExec x).groups = s.groups := rfl
@[simp] theorem State.setExec_spad (s : State) (x : Dword) : (s.setExec x).spad = s.spad := rfl
@[simp] theorem State.setExec_cores (s : State) (x : Dword) : (s.setExec x).cores = s.cores := rfl
@[simp] theorem State.setExec_ops (s : State) (x : Dword) : (s.setExec x).ops = s.ops := rfl
@[simp] theorem State.setExec_enrols (s : State) (x : Dword) : (s.setExec x).enrols = s.enrols := rfl
@[simp] theorem State.setExec_holds (s : State) (x : Dword) : (s.setExec x).holds = s.holds := rfl
@[simp] theorem State.setExec_lates (s : State) (x : Dword) : (s.setExec x).lates = s.lates := rfl
@[simp] theorem State.setExec_resid (s : State) (x : Dword) : (s.setExec x).resid = s.resid := rfl
@[simp] theorem State.setExec_tracks (s : State) (x : Dword) : (s.setExec x).tracks = s.tracks := rfl
@[simp] theorem State.setExec_watches (s : State) (x : Dword) : (s.setExec x).watches = s.watches := rfl
@[simp] theorem State.setExec_evals (s : State) (x : Dword) : (s.setExec x).evals = s.evals := rfl
@[simp] theorem State.setExec_ctxs (s : State) (x : Dword) : (s.setExec x).ctxs = s.ctxs := rfl
@[simp] theorem State.setExec_runs (s : State) (x : Dword) : (s.setExec x).runs = s.runs := rfl
@[simp] theorem State.setExec_launches (s : State) (x : Dword) : (s.setExec x).launches = s.launches := rfl
@[simp] theorem State.setExec_hbm (s : State) (x : Dword) : (s.setExec x).hbm = s.hbm := rfl
@[simp] theorem State.setExec_l2 (s : State) (x : Dword) : (s.setExec x).l2 = s.l2 := rfl
@[simp] theorem State.setExec_rdc (s : State) (x : Dword) : (s.setExec x).rdc = s.rdc := rfl
@[simp] theorem State.setExec_tlbs (s : State) (x : Dword) : (s.setExec x).tlbs = s.tlbs := rfl
@[simp] theorem State.setExec_chans (s : State) (x : Dword) : (s.setExec x).chans = s.chans := rfl
@[simp] theorem State.setExec_layers (s : State) (x : Dword) : (s.setExec x).layers = s.layers := rfl
@[simp] theorem State.setExec_rowCnt (s : State) (x : Dword) : (s.setExec x).rowCnt = s.rowCnt := rfl
@[simp] theorem State.setExec_badLines (s : State) (x : Dword) : (s.setExec x).badLines = s.badLines := rfl
@[simp] theorem State.setExec_upsets (s : State) (x : Dword) : (s.setExec x).upsets = s.upsets := rfl
@[simp] theorem State.setExec_heldUp (s : State) (x : Dword) : (s.setExec x).heldUp = s.heldUp := rfl
@[simp] theorem State.setExec_dies (s : State) (x : Dword) : (s.setExec x).dies = s.dies := rfl
@[simp] theorem State.setExec_notices (s : State) (x : Dword) : (s.setExec x).notices = s.notices := rfl
@[simp] theorem State.setExec_invals (s : State) (x : Dword) : (s.setExec x).invals = s.invals := rfl
@[simp] theorem State.setExec_homeKey (s : State) (x : Dword) : (s.setExec x).homeKey = s.homeKey := rfl
@[simp] theorem State.setExec_vkeys (s : State) (x : Dword) : (s.setExec x).vkeys = s.vkeys := rfl
@[simp] theorem State.setExec_windows (s : State) (x : Dword) : (s.setExec x).windows = s.windows := rfl
@[simp] theorem State.setExec_inbound (s : State) (x : Dword) : (s.setExec x).inbound = s.inbound := rfl
@[simp] theorem State.setExec_owed (s : State) (x : Dword) : (s.setExec x).owed = s.owed := rfl
@[simp] theorem State.setExec_hostWin (s : State) (x : Dword) : (s.setExec x).hostWin = s.hostWin := rfl
@[simp] theorem State.setExec_qps (s : State) (x : Dword) : (s.setExec x).qps = s.qps := rfl
@[simp] theorem State.setExec_unacked (s : State) (x : Dword) : (s.setExec x).unacked = s.unacked := rfl
@[simp] theorem State.setExec_performed (s : State) (x : Dword) : (s.setExec x).performed = s.performed := rfl
@[simp] theorem State.setExec_hostOps (s : State) (x : Dword) : (s.setExec x).hostOps = s.hostOps := rfl
@[simp] theorem State.setExec_routes (s : State) (x : Dword) : (s.setExec x).routes = s.routes := rfl
@[simp] theorem State.setExec_ports (s : State) (x : Dword) : (s.setExec x).ports = s.ports := rfl
@[simp] theorem State.setExec_comms (s : State) (x : Dword) : (s.setExec x).comms = s.comms := rfl
@[simp] theorem State.setExec_colls (s : State) (x : Dword) : (s.setExec x).colls = s.colls := rfl
@[simp] theorem State.setExec_parts (s : State) (x : Dword) : (s.setExec x).parts = s.parts := rfl
@[simp] theorem State.setExec_ctxEnergy (s : State) (x : Dword) : (s.setExec x).ctxEnergy = s.ctxEnergy := rfl
@[simp] theorem State.setExec_hub (s : State) (x : Dword) : (s.setExec x).hub = s.hub := rfl
@[simp] theorem State.setExec_tabor (s : State) (x : Dword) : (s.setExec x).tabor = s.tabor := rfl
@[simp] theorem State.setExec_seqs (s : State) (x : Dword) : (s.setExec x).seqs = s.seqs := rfl
@[simp] theorem State.setExec_time (s : State) (x : Dword) : (s.setExec x).time = s.time := rfl
@[simp] theorem State.setExec_cycles (s : State) (x : Dword) : (s.setExec x).cycles = s.cycles := rfl
@[simp] theorem State.setExec_outbox (s : State) (x : Dword) : (s.setExec x).outbox = s.outbox := rfl
@[simp] theorem State.setExec_inbox (s : State) (x : Dword) : (s.setExec x).inbox = s.inbox := rfl
@[simp] theorem State.setExec_names (s : State) (x : Dword) : (s.setExec x).names = s.names := rfl
@[simp] theorem State.setExec_oracle (s : State) (x : Dword) : (s.setExec x).oracle = s.oracle := rfl

/-! ## vput -/

@[simp] theorem State.vput_grp (s : State) (m : Dword) (r : VReg) (x : Lanes) : (s.vput m r x).grp = s.grp := rfl
@[simp] theorem State.vput_waves (s : State) (m : Dword) (r : VReg) (x : Lanes) : (s.vput m r x).waves = s.waves := rfl
@[simp] theorem State.vput_groups (s : State) (m : Dword) (r : VReg) (x : Lanes) : (s.vput m r x).groups = s.groups := rfl
@[simp] theorem State.vput_spad (s : State) (m : Dword) (r : VReg) (x : Lanes) : (s.vput m r x).spad = s.spad := rfl
@[simp] theorem State.vput_cores (s : State) (m : Dword) (r : VReg) (x : Lanes) : (s.vput m r x).cores = s.cores := rfl
@[simp] theorem State.vput_ops (s : State) (m : Dword) (r : VReg) (x : Lanes) : (s.vput m r x).ops = s.ops := rfl
@[simp] theorem State.vput_enrols (s : State) (m : Dword) (r : VReg) (x : Lanes) : (s.vput m r x).enrols = s.enrols := rfl
@[simp] theorem State.vput_holds (s : State) (m : Dword) (r : VReg) (x : Lanes) : (s.vput m r x).holds = s.holds := rfl
@[simp] theorem State.vput_lates (s : State) (m : Dword) (r : VReg) (x : Lanes) : (s.vput m r x).lates = s.lates := rfl
@[simp] theorem State.vput_resid (s : State) (m : Dword) (r : VReg) (x : Lanes) : (s.vput m r x).resid = s.resid := rfl
@[simp] theorem State.vput_tracks (s : State) (m : Dword) (r : VReg) (x : Lanes) : (s.vput m r x).tracks = s.tracks := rfl
@[simp] theorem State.vput_watches (s : State) (m : Dword) (r : VReg) (x : Lanes) : (s.vput m r x).watches = s.watches := rfl
@[simp] theorem State.vput_evals (s : State) (m : Dword) (r : VReg) (x : Lanes) : (s.vput m r x).evals = s.evals := rfl
@[simp] theorem State.vput_ctxs (s : State) (m : Dword) (r : VReg) (x : Lanes) : (s.vput m r x).ctxs = s.ctxs := rfl
@[simp] theorem State.vput_runs (s : State) (m : Dword) (r : VReg) (x : Lanes) : (s.vput m r x).runs = s.runs := rfl
@[simp] theorem State.vput_launches (s : State) (m : Dword) (r : VReg) (x : Lanes) : (s.vput m r x).launches = s.launches := rfl
@[simp] theorem State.vput_hbm (s : State) (m : Dword) (r : VReg) (x : Lanes) : (s.vput m r x).hbm = s.hbm := rfl
@[simp] theorem State.vput_l2 (s : State) (m : Dword) (r : VReg) (x : Lanes) : (s.vput m r x).l2 = s.l2 := rfl
@[simp] theorem State.vput_rdc (s : State) (m : Dword) (r : VReg) (x : Lanes) : (s.vput m r x).rdc = s.rdc := rfl
@[simp] theorem State.vput_tlbs (s : State) (m : Dword) (r : VReg) (x : Lanes) : (s.vput m r x).tlbs = s.tlbs := rfl
@[simp] theorem State.vput_chans (s : State) (m : Dword) (r : VReg) (x : Lanes) : (s.vput m r x).chans = s.chans := rfl
@[simp] theorem State.vput_layers (s : State) (m : Dword) (r : VReg) (x : Lanes) : (s.vput m r x).layers = s.layers := rfl
@[simp] theorem State.vput_rowCnt (s : State) (m : Dword) (r : VReg) (x : Lanes) : (s.vput m r x).rowCnt = s.rowCnt := rfl
@[simp] theorem State.vput_badLines (s : State) (m : Dword) (r : VReg) (x : Lanes) : (s.vput m r x).badLines = s.badLines := rfl
@[simp] theorem State.vput_upsets (s : State) (m : Dword) (r : VReg) (x : Lanes) : (s.vput m r x).upsets = s.upsets := rfl
@[simp] theorem State.vput_heldUp (s : State) (m : Dword) (r : VReg) (x : Lanes) : (s.vput m r x).heldUp = s.heldUp := rfl
@[simp] theorem State.vput_dies (s : State) (m : Dword) (r : VReg) (x : Lanes) : (s.vput m r x).dies = s.dies := rfl
@[simp] theorem State.vput_notices (s : State) (m : Dword) (r : VReg) (x : Lanes) : (s.vput m r x).notices = s.notices := rfl
@[simp] theorem State.vput_invals (s : State) (m : Dword) (r : VReg) (x : Lanes) : (s.vput m r x).invals = s.invals := rfl
@[simp] theorem State.vput_homeKey (s : State) (m : Dword) (r : VReg) (x : Lanes) : (s.vput m r x).homeKey = s.homeKey := rfl
@[simp] theorem State.vput_vkeys (s : State) (m : Dword) (r : VReg) (x : Lanes) : (s.vput m r x).vkeys = s.vkeys := rfl
@[simp] theorem State.vput_windows (s : State) (m : Dword) (r : VReg) (x : Lanes) : (s.vput m r x).windows = s.windows := rfl
@[simp] theorem State.vput_inbound (s : State) (m : Dword) (r : VReg) (x : Lanes) : (s.vput m r x).inbound = s.inbound := rfl
@[simp] theorem State.vput_owed (s : State) (m : Dword) (r : VReg) (x : Lanes) : (s.vput m r x).owed = s.owed := rfl
@[simp] theorem State.vput_hostWin (s : State) (m : Dword) (r : VReg) (x : Lanes) : (s.vput m r x).hostWin = s.hostWin := rfl
@[simp] theorem State.vput_qps (s : State) (m : Dword) (r : VReg) (x : Lanes) : (s.vput m r x).qps = s.qps := rfl
@[simp] theorem State.vput_unacked (s : State) (m : Dword) (r : VReg) (x : Lanes) : (s.vput m r x).unacked = s.unacked := rfl
@[simp] theorem State.vput_performed (s : State) (m : Dword) (r : VReg) (x : Lanes) : (s.vput m r x).performed = s.performed := rfl
@[simp] theorem State.vput_hostOps (s : State) (m : Dword) (r : VReg) (x : Lanes) : (s.vput m r x).hostOps = s.hostOps := rfl
@[simp] theorem State.vput_routes (s : State) (m : Dword) (r : VReg) (x : Lanes) : (s.vput m r x).routes = s.routes := rfl
@[simp] theorem State.vput_ports (s : State) (m : Dword) (r : VReg) (x : Lanes) : (s.vput m r x).ports = s.ports := rfl
@[simp] theorem State.vput_comms (s : State) (m : Dword) (r : VReg) (x : Lanes) : (s.vput m r x).comms = s.comms := rfl
@[simp] theorem State.vput_colls (s : State) (m : Dword) (r : VReg) (x : Lanes) : (s.vput m r x).colls = s.colls := rfl
@[simp] theorem State.vput_parts (s : State) (m : Dword) (r : VReg) (x : Lanes) : (s.vput m r x).parts = s.parts := rfl
@[simp] theorem State.vput_ctxEnergy (s : State) (m : Dword) (r : VReg) (x : Lanes) : (s.vput m r x).ctxEnergy = s.ctxEnergy := rfl
@[simp] theorem State.vput_hub (s : State) (m : Dword) (r : VReg) (x : Lanes) : (s.vput m r x).hub = s.hub := rfl
@[simp] theorem State.vput_tabor (s : State) (m : Dword) (r : VReg) (x : Lanes) : (s.vput m r x).tabor = s.tabor := rfl
@[simp] theorem State.vput_seqs (s : State) (m : Dword) (r : VReg) (x : Lanes) : (s.vput m r x).seqs = s.seqs := rfl
@[simp] theorem State.vput_time (s : State) (m : Dword) (r : VReg) (x : Lanes) : (s.vput m r x).time = s.time := rfl
@[simp] theorem State.vput_cycles (s : State) (m : Dword) (r : VReg) (x : Lanes) : (s.vput m r x).cycles = s.cycles := rfl
@[simp] theorem State.vput_outbox (s : State) (m : Dword) (r : VReg) (x : Lanes) : (s.vput m r x).outbox = s.outbox := rfl
@[simp] theorem State.vput_inbox (s : State) (m : Dword) (r : VReg) (x : Lanes) : (s.vput m r x).inbox = s.inbox := rfl
@[simp] theorem State.vput_names (s : State) (m : Dword) (r : VReg) (x : Lanes) : (s.vput m r x).names = s.names := rfl
@[simp] theorem State.vput_oracle (s : State) (m : Dword) (r : VReg) (x : Lanes) : (s.vput m r x).oracle = s.oracle := rfl

/-! ## vset -/

@[simp] theorem State.vset_grp (s : State) (r : VReg) (x : Lanes) : (s.vset r x).grp = s.grp := rfl
@[simp] theorem State.vset_waves (s : State) (r : VReg) (x : Lanes) : (s.vset r x).waves = s.waves := rfl
@[simp] theorem State.vset_groups (s : State) (r : VReg) (x : Lanes) : (s.vset r x).groups = s.groups := rfl
@[simp] theorem State.vset_spad (s : State) (r : VReg) (x : Lanes) : (s.vset r x).spad = s.spad := rfl
@[simp] theorem State.vset_cores (s : State) (r : VReg) (x : Lanes) : (s.vset r x).cores = s.cores := rfl
@[simp] theorem State.vset_ops (s : State) (r : VReg) (x : Lanes) : (s.vset r x).ops = s.ops := rfl
@[simp] theorem State.vset_enrols (s : State) (r : VReg) (x : Lanes) : (s.vset r x).enrols = s.enrols := rfl
@[simp] theorem State.vset_holds (s : State) (r : VReg) (x : Lanes) : (s.vset r x).holds = s.holds := rfl
@[simp] theorem State.vset_lates (s : State) (r : VReg) (x : Lanes) : (s.vset r x).lates = s.lates := rfl
@[simp] theorem State.vset_resid (s : State) (r : VReg) (x : Lanes) : (s.vset r x).resid = s.resid := rfl
@[simp] theorem State.vset_tracks (s : State) (r : VReg) (x : Lanes) : (s.vset r x).tracks = s.tracks := rfl
@[simp] theorem State.vset_watches (s : State) (r : VReg) (x : Lanes) : (s.vset r x).watches = s.watches := rfl
@[simp] theorem State.vset_evals (s : State) (r : VReg) (x : Lanes) : (s.vset r x).evals = s.evals := rfl
@[simp] theorem State.vset_ctxs (s : State) (r : VReg) (x : Lanes) : (s.vset r x).ctxs = s.ctxs := rfl
@[simp] theorem State.vset_runs (s : State) (r : VReg) (x : Lanes) : (s.vset r x).runs = s.runs := rfl
@[simp] theorem State.vset_launches (s : State) (r : VReg) (x : Lanes) : (s.vset r x).launches = s.launches := rfl
@[simp] theorem State.vset_hbm (s : State) (r : VReg) (x : Lanes) : (s.vset r x).hbm = s.hbm := rfl
@[simp] theorem State.vset_l2 (s : State) (r : VReg) (x : Lanes) : (s.vset r x).l2 = s.l2 := rfl
@[simp] theorem State.vset_rdc (s : State) (r : VReg) (x : Lanes) : (s.vset r x).rdc = s.rdc := rfl
@[simp] theorem State.vset_tlbs (s : State) (r : VReg) (x : Lanes) : (s.vset r x).tlbs = s.tlbs := rfl
@[simp] theorem State.vset_chans (s : State) (r : VReg) (x : Lanes) : (s.vset r x).chans = s.chans := rfl
@[simp] theorem State.vset_layers (s : State) (r : VReg) (x : Lanes) : (s.vset r x).layers = s.layers := rfl
@[simp] theorem State.vset_rowCnt (s : State) (r : VReg) (x : Lanes) : (s.vset r x).rowCnt = s.rowCnt := rfl
@[simp] theorem State.vset_badLines (s : State) (r : VReg) (x : Lanes) : (s.vset r x).badLines = s.badLines := rfl
@[simp] theorem State.vset_upsets (s : State) (r : VReg) (x : Lanes) : (s.vset r x).upsets = s.upsets := rfl
@[simp] theorem State.vset_heldUp (s : State) (r : VReg) (x : Lanes) : (s.vset r x).heldUp = s.heldUp := rfl
@[simp] theorem State.vset_dies (s : State) (r : VReg) (x : Lanes) : (s.vset r x).dies = s.dies := rfl
@[simp] theorem State.vset_notices (s : State) (r : VReg) (x : Lanes) : (s.vset r x).notices = s.notices := rfl
@[simp] theorem State.vset_invals (s : State) (r : VReg) (x : Lanes) : (s.vset r x).invals = s.invals := rfl
@[simp] theorem State.vset_homeKey (s : State) (r : VReg) (x : Lanes) : (s.vset r x).homeKey = s.homeKey := rfl
@[simp] theorem State.vset_vkeys (s : State) (r : VReg) (x : Lanes) : (s.vset r x).vkeys = s.vkeys := rfl
@[simp] theorem State.vset_windows (s : State) (r : VReg) (x : Lanes) : (s.vset r x).windows = s.windows := rfl
@[simp] theorem State.vset_inbound (s : State) (r : VReg) (x : Lanes) : (s.vset r x).inbound = s.inbound := rfl
@[simp] theorem State.vset_owed (s : State) (r : VReg) (x : Lanes) : (s.vset r x).owed = s.owed := rfl
@[simp] theorem State.vset_hostWin (s : State) (r : VReg) (x : Lanes) : (s.vset r x).hostWin = s.hostWin := rfl
@[simp] theorem State.vset_qps (s : State) (r : VReg) (x : Lanes) : (s.vset r x).qps = s.qps := rfl
@[simp] theorem State.vset_unacked (s : State) (r : VReg) (x : Lanes) : (s.vset r x).unacked = s.unacked := rfl
@[simp] theorem State.vset_performed (s : State) (r : VReg) (x : Lanes) : (s.vset r x).performed = s.performed := rfl
@[simp] theorem State.vset_hostOps (s : State) (r : VReg) (x : Lanes) : (s.vset r x).hostOps = s.hostOps := rfl
@[simp] theorem State.vset_routes (s : State) (r : VReg) (x : Lanes) : (s.vset r x).routes = s.routes := rfl
@[simp] theorem State.vset_ports (s : State) (r : VReg) (x : Lanes) : (s.vset r x).ports = s.ports := rfl
@[simp] theorem State.vset_comms (s : State) (r : VReg) (x : Lanes) : (s.vset r x).comms = s.comms := rfl
@[simp] theorem State.vset_colls (s : State) (r : VReg) (x : Lanes) : (s.vset r x).colls = s.colls := rfl
@[simp] theorem State.vset_parts (s : State) (r : VReg) (x : Lanes) : (s.vset r x).parts = s.parts := rfl
@[simp] theorem State.vset_ctxEnergy (s : State) (r : VReg) (x : Lanes) : (s.vset r x).ctxEnergy = s.ctxEnergy := rfl
@[simp] theorem State.vset_hub (s : State) (r : VReg) (x : Lanes) : (s.vset r x).hub = s.hub := rfl
@[simp] theorem State.vset_tabor (s : State) (r : VReg) (x : Lanes) : (s.vset r x).tabor = s.tabor := rfl
@[simp] theorem State.vset_seqs (s : State) (r : VReg) (x : Lanes) : (s.vset r x).seqs = s.seqs := rfl
@[simp] theorem State.vset_time (s : State) (r : VReg) (x : Lanes) : (s.vset r x).time = s.time := rfl
@[simp] theorem State.vset_cycles (s : State) (r : VReg) (x : Lanes) : (s.vset r x).cycles = s.cycles := rfl
@[simp] theorem State.vset_outbox (s : State) (r : VReg) (x : Lanes) : (s.vset r x).outbox = s.outbox := rfl
@[simp] theorem State.vset_inbox (s : State) (r : VReg) (x : Lanes) : (s.vset r x).inbox = s.inbox := rfl
@[simp] theorem State.vset_names (s : State) (r : VReg) (x : Lanes) : (s.vset r x).names = s.names := rfl
@[simp] theorem State.vset_oracle (s : State) (r : VReg) (x : Lanes) : (s.vset r x).oracle = s.oracle := rfl

/-! ## raiseFlags -/

@[simp] theorem State.raiseFlags_grp (s : State) (x : BitVec 6) : (s.raiseFlags x).grp = s.grp := rfl
@[simp] theorem State.raiseFlags_waves (s : State) (x : BitVec 6) : (s.raiseFlags x).waves = s.waves := rfl
@[simp] theorem State.raiseFlags_groups (s : State) (x : BitVec 6) : (s.raiseFlags x).groups = s.groups := rfl
@[simp] theorem State.raiseFlags_spad (s : State) (x : BitVec 6) : (s.raiseFlags x).spad = s.spad := rfl
@[simp] theorem State.raiseFlags_cores (s : State) (x : BitVec 6) : (s.raiseFlags x).cores = s.cores := rfl
@[simp] theorem State.raiseFlags_ops (s : State) (x : BitVec 6) : (s.raiseFlags x).ops = s.ops := rfl
@[simp] theorem State.raiseFlags_enrols (s : State) (x : BitVec 6) : (s.raiseFlags x).enrols = s.enrols := rfl
@[simp] theorem State.raiseFlags_holds (s : State) (x : BitVec 6) : (s.raiseFlags x).holds = s.holds := rfl
@[simp] theorem State.raiseFlags_lates (s : State) (x : BitVec 6) : (s.raiseFlags x).lates = s.lates := rfl
@[simp] theorem State.raiseFlags_resid (s : State) (x : BitVec 6) : (s.raiseFlags x).resid = s.resid := rfl
@[simp] theorem State.raiseFlags_tracks (s : State) (x : BitVec 6) : (s.raiseFlags x).tracks = s.tracks := rfl
@[simp] theorem State.raiseFlags_watches (s : State) (x : BitVec 6) : (s.raiseFlags x).watches = s.watches := rfl
@[simp] theorem State.raiseFlags_evals (s : State) (x : BitVec 6) : (s.raiseFlags x).evals = s.evals := rfl
@[simp] theorem State.raiseFlags_ctxs (s : State) (x : BitVec 6) : (s.raiseFlags x).ctxs = s.ctxs := rfl
@[simp] theorem State.raiseFlags_runs (s : State) (x : BitVec 6) : (s.raiseFlags x).runs = s.runs := rfl
@[simp] theorem State.raiseFlags_launches (s : State) (x : BitVec 6) : (s.raiseFlags x).launches = s.launches := rfl
@[simp] theorem State.raiseFlags_hbm (s : State) (x : BitVec 6) : (s.raiseFlags x).hbm = s.hbm := rfl
@[simp] theorem State.raiseFlags_l2 (s : State) (x : BitVec 6) : (s.raiseFlags x).l2 = s.l2 := rfl
@[simp] theorem State.raiseFlags_rdc (s : State) (x : BitVec 6) : (s.raiseFlags x).rdc = s.rdc := rfl
@[simp] theorem State.raiseFlags_tlbs (s : State) (x : BitVec 6) : (s.raiseFlags x).tlbs = s.tlbs := rfl
@[simp] theorem State.raiseFlags_chans (s : State) (x : BitVec 6) : (s.raiseFlags x).chans = s.chans := rfl
@[simp] theorem State.raiseFlags_layers (s : State) (x : BitVec 6) : (s.raiseFlags x).layers = s.layers := rfl
@[simp] theorem State.raiseFlags_rowCnt (s : State) (x : BitVec 6) : (s.raiseFlags x).rowCnt = s.rowCnt := rfl
@[simp] theorem State.raiseFlags_badLines (s : State) (x : BitVec 6) : (s.raiseFlags x).badLines = s.badLines := rfl
@[simp] theorem State.raiseFlags_upsets (s : State) (x : BitVec 6) : (s.raiseFlags x).upsets = s.upsets := rfl
@[simp] theorem State.raiseFlags_heldUp (s : State) (x : BitVec 6) : (s.raiseFlags x).heldUp = s.heldUp := rfl
@[simp] theorem State.raiseFlags_dies (s : State) (x : BitVec 6) : (s.raiseFlags x).dies = s.dies := rfl
@[simp] theorem State.raiseFlags_notices (s : State) (x : BitVec 6) : (s.raiseFlags x).notices = s.notices := rfl
@[simp] theorem State.raiseFlags_invals (s : State) (x : BitVec 6) : (s.raiseFlags x).invals = s.invals := rfl
@[simp] theorem State.raiseFlags_homeKey (s : State) (x : BitVec 6) : (s.raiseFlags x).homeKey = s.homeKey := rfl
@[simp] theorem State.raiseFlags_vkeys (s : State) (x : BitVec 6) : (s.raiseFlags x).vkeys = s.vkeys := rfl
@[simp] theorem State.raiseFlags_windows (s : State) (x : BitVec 6) : (s.raiseFlags x).windows = s.windows := rfl
@[simp] theorem State.raiseFlags_inbound (s : State) (x : BitVec 6) : (s.raiseFlags x).inbound = s.inbound := rfl
@[simp] theorem State.raiseFlags_owed (s : State) (x : BitVec 6) : (s.raiseFlags x).owed = s.owed := rfl
@[simp] theorem State.raiseFlags_hostWin (s : State) (x : BitVec 6) : (s.raiseFlags x).hostWin = s.hostWin := rfl
@[simp] theorem State.raiseFlags_qps (s : State) (x : BitVec 6) : (s.raiseFlags x).qps = s.qps := rfl
@[simp] theorem State.raiseFlags_unacked (s : State) (x : BitVec 6) : (s.raiseFlags x).unacked = s.unacked := rfl
@[simp] theorem State.raiseFlags_performed (s : State) (x : BitVec 6) : (s.raiseFlags x).performed = s.performed := rfl
@[simp] theorem State.raiseFlags_hostOps (s : State) (x : BitVec 6) : (s.raiseFlags x).hostOps = s.hostOps := rfl
@[simp] theorem State.raiseFlags_routes (s : State) (x : BitVec 6) : (s.raiseFlags x).routes = s.routes := rfl
@[simp] theorem State.raiseFlags_ports (s : State) (x : BitVec 6) : (s.raiseFlags x).ports = s.ports := rfl
@[simp] theorem State.raiseFlags_comms (s : State) (x : BitVec 6) : (s.raiseFlags x).comms = s.comms := rfl
@[simp] theorem State.raiseFlags_colls (s : State) (x : BitVec 6) : (s.raiseFlags x).colls = s.colls := rfl
@[simp] theorem State.raiseFlags_parts (s : State) (x : BitVec 6) : (s.raiseFlags x).parts = s.parts := rfl
@[simp] theorem State.raiseFlags_ctxEnergy (s : State) (x : BitVec 6) : (s.raiseFlags x).ctxEnergy = s.ctxEnergy := rfl
@[simp] theorem State.raiseFlags_hub (s : State) (x : BitVec 6) : (s.raiseFlags x).hub = s.hub := rfl
@[simp] theorem State.raiseFlags_tabor (s : State) (x : BitVec 6) : (s.raiseFlags x).tabor = s.tabor := rfl
@[simp] theorem State.raiseFlags_seqs (s : State) (x : BitVec 6) : (s.raiseFlags x).seqs = s.seqs := rfl
@[simp] theorem State.raiseFlags_time (s : State) (x : BitVec 6) : (s.raiseFlags x).time = s.time := rfl
@[simp] theorem State.raiseFlags_cycles (s : State) (x : BitVec 6) : (s.raiseFlags x).cycles = s.cycles := rfl
@[simp] theorem State.raiseFlags_outbox (s : State) (x : BitVec 6) : (s.raiseFlags x).outbox = s.outbox := rfl
@[simp] theorem State.raiseFlags_inbox (s : State) (x : BitVec 6) : (s.raiseFlags x).inbox = s.inbox := rfl
@[simp] theorem State.raiseFlags_names (s : State) (x : BitVec 6) : (s.raiseFlags x).names = s.names := rfl
@[simp] theorem State.raiseFlags_oracle (s : State) (x : BitVec 6) : (s.raiseFlags x).oracle = s.oracle := rfl

/-! ## sset -/

/-- Only the wave in focus changes. -/
theorem State.sset_keeps (s : State) (n : SReg) (x : Word) : s.sset n x = { s with wave := (s.sset n x).wave } := by
  unfold State.sset
  by_cases h1 : n < 56
  · rw [if_pos h1]
  · by_cases h2 : n = 56
    · rw [if_neg h1, if_pos h2]; rfl
    · by_cases h3 : n = 57
      · rw [if_neg h1, if_neg h2, if_pos h3]; rfl
      · rw [if_neg h1, if_neg h2, if_neg h3]

@[simp] theorem State.sset_grp (s : State) (n : SReg) (x : Word) : (s.sset n x).grp = s.grp := by
  rw [State.sset_keeps]
@[simp] theorem State.sset_waves (s : State) (n : SReg) (x : Word) : (s.sset n x).waves = s.waves := by
  rw [State.sset_keeps]
@[simp] theorem State.sset_groups (s : State) (n : SReg) (x : Word) : (s.sset n x).groups = s.groups := by
  rw [State.sset_keeps]
@[simp] theorem State.sset_spad (s : State) (n : SReg) (x : Word) : (s.sset n x).spad = s.spad := by
  rw [State.sset_keeps]
@[simp] theorem State.sset_cores (s : State) (n : SReg) (x : Word) : (s.sset n x).cores = s.cores := by
  rw [State.sset_keeps]
@[simp] theorem State.sset_ops (s : State) (n : SReg) (x : Word) : (s.sset n x).ops = s.ops := by
  rw [State.sset_keeps]
@[simp] theorem State.sset_enrols (s : State) (n : SReg) (x : Word) : (s.sset n x).enrols = s.enrols := by
  rw [State.sset_keeps]
@[simp] theorem State.sset_holds (s : State) (n : SReg) (x : Word) : (s.sset n x).holds = s.holds := by
  rw [State.sset_keeps]
@[simp] theorem State.sset_lates (s : State) (n : SReg) (x : Word) : (s.sset n x).lates = s.lates := by
  rw [State.sset_keeps]
@[simp] theorem State.sset_resid (s : State) (n : SReg) (x : Word) : (s.sset n x).resid = s.resid := by
  rw [State.sset_keeps]
@[simp] theorem State.sset_tracks (s : State) (n : SReg) (x : Word) : (s.sset n x).tracks = s.tracks := by
  rw [State.sset_keeps]
@[simp] theorem State.sset_watches (s : State) (n : SReg) (x : Word) : (s.sset n x).watches = s.watches := by
  rw [State.sset_keeps]
@[simp] theorem State.sset_evals (s : State) (n : SReg) (x : Word) : (s.sset n x).evals = s.evals := by
  rw [State.sset_keeps]
@[simp] theorem State.sset_ctxs (s : State) (n : SReg) (x : Word) : (s.sset n x).ctxs = s.ctxs := by
  rw [State.sset_keeps]
@[simp] theorem State.sset_runs (s : State) (n : SReg) (x : Word) : (s.sset n x).runs = s.runs := by
  rw [State.sset_keeps]
@[simp] theorem State.sset_launches (s : State) (n : SReg) (x : Word) : (s.sset n x).launches = s.launches := by
  rw [State.sset_keeps]
@[simp] theorem State.sset_hbm (s : State) (n : SReg) (x : Word) : (s.sset n x).hbm = s.hbm := by
  rw [State.sset_keeps]
@[simp] theorem State.sset_l2 (s : State) (n : SReg) (x : Word) : (s.sset n x).l2 = s.l2 := by
  rw [State.sset_keeps]
@[simp] theorem State.sset_rdc (s : State) (n : SReg) (x : Word) : (s.sset n x).rdc = s.rdc := by
  rw [State.sset_keeps]
@[simp] theorem State.sset_tlbs (s : State) (n : SReg) (x : Word) : (s.sset n x).tlbs = s.tlbs := by
  rw [State.sset_keeps]
@[simp] theorem State.sset_chans (s : State) (n : SReg) (x : Word) : (s.sset n x).chans = s.chans := by
  rw [State.sset_keeps]
@[simp] theorem State.sset_layers (s : State) (n : SReg) (x : Word) : (s.sset n x).layers = s.layers := by
  rw [State.sset_keeps]
@[simp] theorem State.sset_rowCnt (s : State) (n : SReg) (x : Word) : (s.sset n x).rowCnt = s.rowCnt := by
  rw [State.sset_keeps]
@[simp] theorem State.sset_badLines (s : State) (n : SReg) (x : Word) : (s.sset n x).badLines = s.badLines := by
  rw [State.sset_keeps]
@[simp] theorem State.sset_upsets (s : State) (n : SReg) (x : Word) : (s.sset n x).upsets = s.upsets := by
  rw [State.sset_keeps]
@[simp] theorem State.sset_heldUp (s : State) (n : SReg) (x : Word) : (s.sset n x).heldUp = s.heldUp := by
  rw [State.sset_keeps]
@[simp] theorem State.sset_dies (s : State) (n : SReg) (x : Word) : (s.sset n x).dies = s.dies := by
  rw [State.sset_keeps]
@[simp] theorem State.sset_notices (s : State) (n : SReg) (x : Word) : (s.sset n x).notices = s.notices := by
  rw [State.sset_keeps]
@[simp] theorem State.sset_invals (s : State) (n : SReg) (x : Word) : (s.sset n x).invals = s.invals := by
  rw [State.sset_keeps]
@[simp] theorem State.sset_homeKey (s : State) (n : SReg) (x : Word) : (s.sset n x).homeKey = s.homeKey := by
  rw [State.sset_keeps]
@[simp] theorem State.sset_vkeys (s : State) (n : SReg) (x : Word) : (s.sset n x).vkeys = s.vkeys := by
  rw [State.sset_keeps]
@[simp] theorem State.sset_windows (s : State) (n : SReg) (x : Word) : (s.sset n x).windows = s.windows := by
  rw [State.sset_keeps]
@[simp] theorem State.sset_inbound (s : State) (n : SReg) (x : Word) : (s.sset n x).inbound = s.inbound := by
  rw [State.sset_keeps]
@[simp] theorem State.sset_owed (s : State) (n : SReg) (x : Word) : (s.sset n x).owed = s.owed := by
  rw [State.sset_keeps]
@[simp] theorem State.sset_hostWin (s : State) (n : SReg) (x : Word) : (s.sset n x).hostWin = s.hostWin := by
  rw [State.sset_keeps]
@[simp] theorem State.sset_qps (s : State) (n : SReg) (x : Word) : (s.sset n x).qps = s.qps := by
  rw [State.sset_keeps]
@[simp] theorem State.sset_unacked (s : State) (n : SReg) (x : Word) : (s.sset n x).unacked = s.unacked := by
  rw [State.sset_keeps]
@[simp] theorem State.sset_performed (s : State) (n : SReg) (x : Word) : (s.sset n x).performed = s.performed := by
  rw [State.sset_keeps]
@[simp] theorem State.sset_hostOps (s : State) (n : SReg) (x : Word) : (s.sset n x).hostOps = s.hostOps := by
  rw [State.sset_keeps]
@[simp] theorem State.sset_routes (s : State) (n : SReg) (x : Word) : (s.sset n x).routes = s.routes := by
  rw [State.sset_keeps]
@[simp] theorem State.sset_ports (s : State) (n : SReg) (x : Word) : (s.sset n x).ports = s.ports := by
  rw [State.sset_keeps]
@[simp] theorem State.sset_comms (s : State) (n : SReg) (x : Word) : (s.sset n x).comms = s.comms := by
  rw [State.sset_keeps]
@[simp] theorem State.sset_colls (s : State) (n : SReg) (x : Word) : (s.sset n x).colls = s.colls := by
  rw [State.sset_keeps]
@[simp] theorem State.sset_parts (s : State) (n : SReg) (x : Word) : (s.sset n x).parts = s.parts := by
  rw [State.sset_keeps]
@[simp] theorem State.sset_ctxEnergy (s : State) (n : SReg) (x : Word) : (s.sset n x).ctxEnergy = s.ctxEnergy := by
  rw [State.sset_keeps]
@[simp] theorem State.sset_hub (s : State) (n : SReg) (x : Word) : (s.sset n x).hub = s.hub := by
  rw [State.sset_keeps]
@[simp] theorem State.sset_tabor (s : State) (n : SReg) (x : Word) : (s.sset n x).tabor = s.tabor := by
  rw [State.sset_keeps]
@[simp] theorem State.sset_seqs (s : State) (n : SReg) (x : Word) : (s.sset n x).seqs = s.seqs := by
  rw [State.sset_keeps]
@[simp] theorem State.sset_time (s : State) (n : SReg) (x : Word) : (s.sset n x).time = s.time := by
  rw [State.sset_keeps]
@[simp] theorem State.sset_cycles (s : State) (n : SReg) (x : Word) : (s.sset n x).cycles = s.cycles := by
  rw [State.sset_keeps]
@[simp] theorem State.sset_outbox (s : State) (n : SReg) (x : Word) : (s.sset n x).outbox = s.outbox := by
  rw [State.sset_keeps]
@[simp] theorem State.sset_inbox (s : State) (n : SReg) (x : Word) : (s.sset n x).inbox = s.inbox := by
  rw [State.sset_keeps]
@[simp] theorem State.sset_names (s : State) (n : SReg) (x : Word) : (s.sset n x).names = s.names := by
  rw [State.sset_keeps]
@[simp] theorem State.sset_oracle (s : State) (n : SReg) (x : Word) : (s.sset n x).oracle = s.oracle := by
  rw [State.sset_keeps]

/-! ## pset -/

/-- Only the wave in focus changes. -/
theorem State.pset_keeps (s : State) (p : SPair) (x : Dword) : s.pset p x = { s with wave := (s.pset p x).wave } := by
  unfold State.pset
  by_cases h : p = 56
  · rw [if_pos h]; rfl
  · rw [if_neg h, State.sset_keeps, State.sset_keeps s]

@[simp] theorem State.pset_grp (s : State) (p : SPair) (x : Dword) : (s.pset p x).grp = s.grp := by
  rw [State.pset_keeps]
@[simp] theorem State.pset_waves (s : State) (p : SPair) (x : Dword) : (s.pset p x).waves = s.waves := by
  rw [State.pset_keeps]
@[simp] theorem State.pset_groups (s : State) (p : SPair) (x : Dword) : (s.pset p x).groups = s.groups := by
  rw [State.pset_keeps]
@[simp] theorem State.pset_spad (s : State) (p : SPair) (x : Dword) : (s.pset p x).spad = s.spad := by
  rw [State.pset_keeps]
@[simp] theorem State.pset_cores (s : State) (p : SPair) (x : Dword) : (s.pset p x).cores = s.cores := by
  rw [State.pset_keeps]
@[simp] theorem State.pset_ops (s : State) (p : SPair) (x : Dword) : (s.pset p x).ops = s.ops := by
  rw [State.pset_keeps]
@[simp] theorem State.pset_enrols (s : State) (p : SPair) (x : Dword) : (s.pset p x).enrols = s.enrols := by
  rw [State.pset_keeps]
@[simp] theorem State.pset_holds (s : State) (p : SPair) (x : Dword) : (s.pset p x).holds = s.holds := by
  rw [State.pset_keeps]
@[simp] theorem State.pset_lates (s : State) (p : SPair) (x : Dword) : (s.pset p x).lates = s.lates := by
  rw [State.pset_keeps]
@[simp] theorem State.pset_resid (s : State) (p : SPair) (x : Dword) : (s.pset p x).resid = s.resid := by
  rw [State.pset_keeps]
@[simp] theorem State.pset_tracks (s : State) (p : SPair) (x : Dword) : (s.pset p x).tracks = s.tracks := by
  rw [State.pset_keeps]
@[simp] theorem State.pset_watches (s : State) (p : SPair) (x : Dword) : (s.pset p x).watches = s.watches := by
  rw [State.pset_keeps]
@[simp] theorem State.pset_evals (s : State) (p : SPair) (x : Dword) : (s.pset p x).evals = s.evals := by
  rw [State.pset_keeps]
@[simp] theorem State.pset_ctxs (s : State) (p : SPair) (x : Dword) : (s.pset p x).ctxs = s.ctxs := by
  rw [State.pset_keeps]
@[simp] theorem State.pset_runs (s : State) (p : SPair) (x : Dword) : (s.pset p x).runs = s.runs := by
  rw [State.pset_keeps]
@[simp] theorem State.pset_launches (s : State) (p : SPair) (x : Dword) : (s.pset p x).launches = s.launches := by
  rw [State.pset_keeps]
@[simp] theorem State.pset_hbm (s : State) (p : SPair) (x : Dword) : (s.pset p x).hbm = s.hbm := by
  rw [State.pset_keeps]
@[simp] theorem State.pset_l2 (s : State) (p : SPair) (x : Dword) : (s.pset p x).l2 = s.l2 := by
  rw [State.pset_keeps]
@[simp] theorem State.pset_rdc (s : State) (p : SPair) (x : Dword) : (s.pset p x).rdc = s.rdc := by
  rw [State.pset_keeps]
@[simp] theorem State.pset_tlbs (s : State) (p : SPair) (x : Dword) : (s.pset p x).tlbs = s.tlbs := by
  rw [State.pset_keeps]
@[simp] theorem State.pset_chans (s : State) (p : SPair) (x : Dword) : (s.pset p x).chans = s.chans := by
  rw [State.pset_keeps]
@[simp] theorem State.pset_layers (s : State) (p : SPair) (x : Dword) : (s.pset p x).layers = s.layers := by
  rw [State.pset_keeps]
@[simp] theorem State.pset_rowCnt (s : State) (p : SPair) (x : Dword) : (s.pset p x).rowCnt = s.rowCnt := by
  rw [State.pset_keeps]
@[simp] theorem State.pset_badLines (s : State) (p : SPair) (x : Dword) : (s.pset p x).badLines = s.badLines := by
  rw [State.pset_keeps]
@[simp] theorem State.pset_upsets (s : State) (p : SPair) (x : Dword) : (s.pset p x).upsets = s.upsets := by
  rw [State.pset_keeps]
@[simp] theorem State.pset_heldUp (s : State) (p : SPair) (x : Dword) : (s.pset p x).heldUp = s.heldUp := by
  rw [State.pset_keeps]
@[simp] theorem State.pset_dies (s : State) (p : SPair) (x : Dword) : (s.pset p x).dies = s.dies := by
  rw [State.pset_keeps]
@[simp] theorem State.pset_notices (s : State) (p : SPair) (x : Dword) : (s.pset p x).notices = s.notices := by
  rw [State.pset_keeps]
@[simp] theorem State.pset_invals (s : State) (p : SPair) (x : Dword) : (s.pset p x).invals = s.invals := by
  rw [State.pset_keeps]
@[simp] theorem State.pset_homeKey (s : State) (p : SPair) (x : Dword) : (s.pset p x).homeKey = s.homeKey := by
  rw [State.pset_keeps]
@[simp] theorem State.pset_vkeys (s : State) (p : SPair) (x : Dword) : (s.pset p x).vkeys = s.vkeys := by
  rw [State.pset_keeps]
@[simp] theorem State.pset_windows (s : State) (p : SPair) (x : Dword) : (s.pset p x).windows = s.windows := by
  rw [State.pset_keeps]
@[simp] theorem State.pset_inbound (s : State) (p : SPair) (x : Dword) : (s.pset p x).inbound = s.inbound := by
  rw [State.pset_keeps]
@[simp] theorem State.pset_owed (s : State) (p : SPair) (x : Dword) : (s.pset p x).owed = s.owed := by
  rw [State.pset_keeps]
@[simp] theorem State.pset_hostWin (s : State) (p : SPair) (x : Dword) : (s.pset p x).hostWin = s.hostWin := by
  rw [State.pset_keeps]
@[simp] theorem State.pset_qps (s : State) (p : SPair) (x : Dword) : (s.pset p x).qps = s.qps := by
  rw [State.pset_keeps]
@[simp] theorem State.pset_unacked (s : State) (p : SPair) (x : Dword) : (s.pset p x).unacked = s.unacked := by
  rw [State.pset_keeps]
@[simp] theorem State.pset_performed (s : State) (p : SPair) (x : Dword) : (s.pset p x).performed = s.performed := by
  rw [State.pset_keeps]
@[simp] theorem State.pset_hostOps (s : State) (p : SPair) (x : Dword) : (s.pset p x).hostOps = s.hostOps := by
  rw [State.pset_keeps]
@[simp] theorem State.pset_routes (s : State) (p : SPair) (x : Dword) : (s.pset p x).routes = s.routes := by
  rw [State.pset_keeps]
@[simp] theorem State.pset_ports (s : State) (p : SPair) (x : Dword) : (s.pset p x).ports = s.ports := by
  rw [State.pset_keeps]
@[simp] theorem State.pset_comms (s : State) (p : SPair) (x : Dword) : (s.pset p x).comms = s.comms := by
  rw [State.pset_keeps]
@[simp] theorem State.pset_colls (s : State) (p : SPair) (x : Dword) : (s.pset p x).colls = s.colls := by
  rw [State.pset_keeps]
@[simp] theorem State.pset_parts (s : State) (p : SPair) (x : Dword) : (s.pset p x).parts = s.parts := by
  rw [State.pset_keeps]
@[simp] theorem State.pset_ctxEnergy (s : State) (p : SPair) (x : Dword) : (s.pset p x).ctxEnergy = s.ctxEnergy := by
  rw [State.pset_keeps]
@[simp] theorem State.pset_hub (s : State) (p : SPair) (x : Dword) : (s.pset p x).hub = s.hub := by
  rw [State.pset_keeps]
@[simp] theorem State.pset_tabor (s : State) (p : SPair) (x : Dword) : (s.pset p x).tabor = s.tabor := by
  rw [State.pset_keeps]
@[simp] theorem State.pset_seqs (s : State) (p : SPair) (x : Dword) : (s.pset p x).seqs = s.seqs := by
  rw [State.pset_keeps]
@[simp] theorem State.pset_time (s : State) (p : SPair) (x : Dword) : (s.pset p x).time = s.time := by
  rw [State.pset_keeps]
@[simp] theorem State.pset_cycles (s : State) (p : SPair) (x : Dword) : (s.pset p x).cycles = s.cycles := by
  rw [State.pset_keeps]
@[simp] theorem State.pset_outbox (s : State) (p : SPair) (x : Dword) : (s.pset p x).outbox = s.outbox := by
  rw [State.pset_keeps]
@[simp] theorem State.pset_inbox (s : State) (p : SPair) (x : Dword) : (s.pset p x).inbox = s.inbox := by
  rw [State.pset_keeps]
@[simp] theorem State.pset_names (s : State) (p : SPair) (x : Dword) : (s.pset p x).names = s.names := by
  rw [State.pset_keeps]
@[simp] theorem State.pset_oracle (s : State) (p : SPair) (x : Dword) : (s.pset p x).oracle = s.oracle := by
  rw [State.pset_keeps]

/-! ## openWindow -/

/-- Only the wave in focus changes. -/
theorem State.openWindow_keeps (s : State) (i : Instr) (k : Nat) : s.openWindow i k = { s with wave := (s.openWindow i k).wave } := by
  unfold State.openWindow
  by_cases h : lookahead i = 0
  · rw [if_pos h]
  · rw [if_neg h]; rfl

@[simp] theorem State.openWindow_grp (s : State) (i : Instr) (k : Nat) : (s.openWindow i k).grp = s.grp := by
  rw [State.openWindow_keeps]
@[simp] theorem State.openWindow_waves (s : State) (i : Instr) (k : Nat) : (s.openWindow i k).waves = s.waves := by
  rw [State.openWindow_keeps]
@[simp] theorem State.openWindow_groups (s : State) (i : Instr) (k : Nat) : (s.openWindow i k).groups = s.groups := by
  rw [State.openWindow_keeps]
@[simp] theorem State.openWindow_spad (s : State) (i : Instr) (k : Nat) : (s.openWindow i k).spad = s.spad := by
  rw [State.openWindow_keeps]
@[simp] theorem State.openWindow_cores (s : State) (i : Instr) (k : Nat) : (s.openWindow i k).cores = s.cores := by
  rw [State.openWindow_keeps]
@[simp] theorem State.openWindow_ops (s : State) (i : Instr) (k : Nat) : (s.openWindow i k).ops = s.ops := by
  rw [State.openWindow_keeps]
@[simp] theorem State.openWindow_enrols (s : State) (i : Instr) (k : Nat) : (s.openWindow i k).enrols = s.enrols := by
  rw [State.openWindow_keeps]
@[simp] theorem State.openWindow_holds (s : State) (i : Instr) (k : Nat) : (s.openWindow i k).holds = s.holds := by
  rw [State.openWindow_keeps]
@[simp] theorem State.openWindow_lates (s : State) (i : Instr) (k : Nat) : (s.openWindow i k).lates = s.lates := by
  rw [State.openWindow_keeps]
@[simp] theorem State.openWindow_resid (s : State) (i : Instr) (k : Nat) : (s.openWindow i k).resid = s.resid := by
  rw [State.openWindow_keeps]
@[simp] theorem State.openWindow_tracks (s : State) (i : Instr) (k : Nat) : (s.openWindow i k).tracks = s.tracks := by
  rw [State.openWindow_keeps]
@[simp] theorem State.openWindow_watches (s : State) (i : Instr) (k : Nat) : (s.openWindow i k).watches = s.watches := by
  rw [State.openWindow_keeps]
@[simp] theorem State.openWindow_evals (s : State) (i : Instr) (k : Nat) : (s.openWindow i k).evals = s.evals := by
  rw [State.openWindow_keeps]
@[simp] theorem State.openWindow_ctxs (s : State) (i : Instr) (k : Nat) : (s.openWindow i k).ctxs = s.ctxs := by
  rw [State.openWindow_keeps]
@[simp] theorem State.openWindow_runs (s : State) (i : Instr) (k : Nat) : (s.openWindow i k).runs = s.runs := by
  rw [State.openWindow_keeps]
@[simp] theorem State.openWindow_launches (s : State) (i : Instr) (k : Nat) : (s.openWindow i k).launches = s.launches := by
  rw [State.openWindow_keeps]
@[simp] theorem State.openWindow_hbm (s : State) (i : Instr) (k : Nat) : (s.openWindow i k).hbm = s.hbm := by
  rw [State.openWindow_keeps]
@[simp] theorem State.openWindow_l2 (s : State) (i : Instr) (k : Nat) : (s.openWindow i k).l2 = s.l2 := by
  rw [State.openWindow_keeps]
@[simp] theorem State.openWindow_rdc (s : State) (i : Instr) (k : Nat) : (s.openWindow i k).rdc = s.rdc := by
  rw [State.openWindow_keeps]
@[simp] theorem State.openWindow_tlbs (s : State) (i : Instr) (k : Nat) : (s.openWindow i k).tlbs = s.tlbs := by
  rw [State.openWindow_keeps]
@[simp] theorem State.openWindow_chans (s : State) (i : Instr) (k : Nat) : (s.openWindow i k).chans = s.chans := by
  rw [State.openWindow_keeps]
@[simp] theorem State.openWindow_layers (s : State) (i : Instr) (k : Nat) : (s.openWindow i k).layers = s.layers := by
  rw [State.openWindow_keeps]
@[simp] theorem State.openWindow_rowCnt (s : State) (i : Instr) (k : Nat) : (s.openWindow i k).rowCnt = s.rowCnt := by
  rw [State.openWindow_keeps]
@[simp] theorem State.openWindow_badLines (s : State) (i : Instr) (k : Nat) : (s.openWindow i k).badLines = s.badLines := by
  rw [State.openWindow_keeps]
@[simp] theorem State.openWindow_upsets (s : State) (i : Instr) (k : Nat) : (s.openWindow i k).upsets = s.upsets := by
  rw [State.openWindow_keeps]
@[simp] theorem State.openWindow_heldUp (s : State) (i : Instr) (k : Nat) : (s.openWindow i k).heldUp = s.heldUp := by
  rw [State.openWindow_keeps]
@[simp] theorem State.openWindow_dies (s : State) (i : Instr) (k : Nat) : (s.openWindow i k).dies = s.dies := by
  rw [State.openWindow_keeps]
@[simp] theorem State.openWindow_notices (s : State) (i : Instr) (k : Nat) : (s.openWindow i k).notices = s.notices := by
  rw [State.openWindow_keeps]
@[simp] theorem State.openWindow_invals (s : State) (i : Instr) (k : Nat) : (s.openWindow i k).invals = s.invals := by
  rw [State.openWindow_keeps]
@[simp] theorem State.openWindow_homeKey (s : State) (i : Instr) (k : Nat) : (s.openWindow i k).homeKey = s.homeKey := by
  rw [State.openWindow_keeps]
@[simp] theorem State.openWindow_vkeys (s : State) (i : Instr) (k : Nat) : (s.openWindow i k).vkeys = s.vkeys := by
  rw [State.openWindow_keeps]
@[simp] theorem State.openWindow_windows (s : State) (i : Instr) (k : Nat) : (s.openWindow i k).windows = s.windows := by
  rw [State.openWindow_keeps]
@[simp] theorem State.openWindow_inbound (s : State) (i : Instr) (k : Nat) : (s.openWindow i k).inbound = s.inbound := by
  rw [State.openWindow_keeps]
@[simp] theorem State.openWindow_owed (s : State) (i : Instr) (k : Nat) : (s.openWindow i k).owed = s.owed := by
  rw [State.openWindow_keeps]
@[simp] theorem State.openWindow_hostWin (s : State) (i : Instr) (k : Nat) : (s.openWindow i k).hostWin = s.hostWin := by
  rw [State.openWindow_keeps]
@[simp] theorem State.openWindow_qps (s : State) (i : Instr) (k : Nat) : (s.openWindow i k).qps = s.qps := by
  rw [State.openWindow_keeps]
@[simp] theorem State.openWindow_unacked (s : State) (i : Instr) (k : Nat) : (s.openWindow i k).unacked = s.unacked := by
  rw [State.openWindow_keeps]
@[simp] theorem State.openWindow_performed (s : State) (i : Instr) (k : Nat) : (s.openWindow i k).performed = s.performed := by
  rw [State.openWindow_keeps]
@[simp] theorem State.openWindow_hostOps (s : State) (i : Instr) (k : Nat) : (s.openWindow i k).hostOps = s.hostOps := by
  rw [State.openWindow_keeps]
@[simp] theorem State.openWindow_routes (s : State) (i : Instr) (k : Nat) : (s.openWindow i k).routes = s.routes := by
  rw [State.openWindow_keeps]
@[simp] theorem State.openWindow_ports (s : State) (i : Instr) (k : Nat) : (s.openWindow i k).ports = s.ports := by
  rw [State.openWindow_keeps]
@[simp] theorem State.openWindow_comms (s : State) (i : Instr) (k : Nat) : (s.openWindow i k).comms = s.comms := by
  rw [State.openWindow_keeps]
@[simp] theorem State.openWindow_colls (s : State) (i : Instr) (k : Nat) : (s.openWindow i k).colls = s.colls := by
  rw [State.openWindow_keeps]
@[simp] theorem State.openWindow_parts (s : State) (i : Instr) (k : Nat) : (s.openWindow i k).parts = s.parts := by
  rw [State.openWindow_keeps]
@[simp] theorem State.openWindow_ctxEnergy (s : State) (i : Instr) (k : Nat) : (s.openWindow i k).ctxEnergy = s.ctxEnergy := by
  rw [State.openWindow_keeps]
@[simp] theorem State.openWindow_hub (s : State) (i : Instr) (k : Nat) : (s.openWindow i k).hub = s.hub := by
  rw [State.openWindow_keeps]
@[simp] theorem State.openWindow_tabor (s : State) (i : Instr) (k : Nat) : (s.openWindow i k).tabor = s.tabor := by
  rw [State.openWindow_keeps]
@[simp] theorem State.openWindow_seqs (s : State) (i : Instr) (k : Nat) : (s.openWindow i k).seqs = s.seqs := by
  rw [State.openWindow_keeps]
@[simp] theorem State.openWindow_time (s : State) (i : Instr) (k : Nat) : (s.openWindow i k).time = s.time := by
  rw [State.openWindow_keeps]
@[simp] theorem State.openWindow_cycles (s : State) (i : Instr) (k : Nat) : (s.openWindow i k).cycles = s.cycles := by
  rw [State.openWindow_keeps]
@[simp] theorem State.openWindow_outbox (s : State) (i : Instr) (k : Nat) : (s.openWindow i k).outbox = s.outbox := by
  rw [State.openWindow_keeps]
@[simp] theorem State.openWindow_inbox (s : State) (i : Instr) (k : Nat) : (s.openWindow i k).inbox = s.inbox := by
  rw [State.openWindow_keeps]
@[simp] theorem State.openWindow_names (s : State) (i : Instr) (k : Nat) : (s.openWindow i k).names = s.names := by
  rw [State.openWindow_keeps]
@[simp] theorem State.openWindow_oracle (s : State) (i : Instr) (k : Nat) : (s.openWindow i k).oracle = s.oracle := by
  rw [State.openWindow_keeps]

/-! ## bumpId -/

@[simp] theorem State.bumpId_wave (s : State) (n : Nat) : (s.bumpId n).wave = s.wave := rfl
@[simp] theorem State.bumpId_grp (s : State) (n : Nat) : (s.bumpId n).grp = s.grp := rfl
@[simp] theorem State.bumpId_waves (s : State) (n : Nat) : (s.bumpId n).waves = s.waves := rfl
@[simp] theorem State.bumpId_groups (s : State) (n : Nat) : (s.bumpId n).groups = s.groups := rfl
@[simp] theorem State.bumpId_spad (s : State) (n : Nat) : (s.bumpId n).spad = s.spad := rfl
@[simp] theorem State.bumpId_cores (s : State) (n : Nat) : (s.bumpId n).cores = s.cores := rfl
@[simp] theorem State.bumpId_ops (s : State) (n : Nat) : (s.bumpId n).ops = s.ops := rfl
@[simp] theorem State.bumpId_enrols (s : State) (n : Nat) : (s.bumpId n).enrols = s.enrols := rfl
@[simp] theorem State.bumpId_holds (s : State) (n : Nat) : (s.bumpId n).holds = s.holds := rfl
@[simp] theorem State.bumpId_lates (s : State) (n : Nat) : (s.bumpId n).lates = s.lates := rfl
@[simp] theorem State.bumpId_resid (s : State) (n : Nat) : (s.bumpId n).resid = s.resid := rfl
@[simp] theorem State.bumpId_tracks (s : State) (n : Nat) : (s.bumpId n).tracks = s.tracks := rfl
@[simp] theorem State.bumpId_watches (s : State) (n : Nat) : (s.bumpId n).watches = s.watches := rfl
@[simp] theorem State.bumpId_evals (s : State) (n : Nat) : (s.bumpId n).evals = s.evals := rfl
@[simp] theorem State.bumpId_ctxs (s : State) (n : Nat) : (s.bumpId n).ctxs = s.ctxs := rfl
@[simp] theorem State.bumpId_runs (s : State) (n : Nat) : (s.bumpId n).runs = s.runs := rfl
@[simp] theorem State.bumpId_launches (s : State) (n : Nat) : (s.bumpId n).launches = s.launches := rfl
@[simp] theorem State.bumpId_hbm (s : State) (n : Nat) : (s.bumpId n).hbm = s.hbm := rfl
@[simp] theorem State.bumpId_l2 (s : State) (n : Nat) : (s.bumpId n).l2 = s.l2 := rfl
@[simp] theorem State.bumpId_rdc (s : State) (n : Nat) : (s.bumpId n).rdc = s.rdc := rfl
@[simp] theorem State.bumpId_tlbs (s : State) (n : Nat) : (s.bumpId n).tlbs = s.tlbs := rfl
@[simp] theorem State.bumpId_chans (s : State) (n : Nat) : (s.bumpId n).chans = s.chans := rfl
@[simp] theorem State.bumpId_layers (s : State) (n : Nat) : (s.bumpId n).layers = s.layers := rfl
@[simp] theorem State.bumpId_rowCnt (s : State) (n : Nat) : (s.bumpId n).rowCnt = s.rowCnt := rfl
@[simp] theorem State.bumpId_badLines (s : State) (n : Nat) : (s.bumpId n).badLines = s.badLines := rfl
@[simp] theorem State.bumpId_upsets (s : State) (n : Nat) : (s.bumpId n).upsets = s.upsets := rfl
@[simp] theorem State.bumpId_heldUp (s : State) (n : Nat) : (s.bumpId n).heldUp = s.heldUp := rfl
@[simp] theorem State.bumpId_dies (s : State) (n : Nat) : (s.bumpId n).dies = s.dies := rfl
@[simp] theorem State.bumpId_notices (s : State) (n : Nat) : (s.bumpId n).notices = s.notices := rfl
@[simp] theorem State.bumpId_invals (s : State) (n : Nat) : (s.bumpId n).invals = s.invals := rfl
@[simp] theorem State.bumpId_homeKey (s : State) (n : Nat) : (s.bumpId n).homeKey = s.homeKey := rfl
@[simp] theorem State.bumpId_vkeys (s : State) (n : Nat) : (s.bumpId n).vkeys = s.vkeys := rfl
@[simp] theorem State.bumpId_windows (s : State) (n : Nat) : (s.bumpId n).windows = s.windows := rfl
@[simp] theorem State.bumpId_inbound (s : State) (n : Nat) : (s.bumpId n).inbound = s.inbound := rfl
@[simp] theorem State.bumpId_owed (s : State) (n : Nat) : (s.bumpId n).owed = s.owed := rfl
@[simp] theorem State.bumpId_hostWin (s : State) (n : Nat) : (s.bumpId n).hostWin = s.hostWin := rfl
@[simp] theorem State.bumpId_qps (s : State) (n : Nat) : (s.bumpId n).qps = s.qps := rfl
@[simp] theorem State.bumpId_unacked (s : State) (n : Nat) : (s.bumpId n).unacked = s.unacked := rfl
@[simp] theorem State.bumpId_performed (s : State) (n : Nat) : (s.bumpId n).performed = s.performed := rfl
@[simp] theorem State.bumpId_hostOps (s : State) (n : Nat) : (s.bumpId n).hostOps = s.hostOps := rfl
@[simp] theorem State.bumpId_routes (s : State) (n : Nat) : (s.bumpId n).routes = s.routes := rfl
@[simp] theorem State.bumpId_ports (s : State) (n : Nat) : (s.bumpId n).ports = s.ports := rfl
@[simp] theorem State.bumpId_comms (s : State) (n : Nat) : (s.bumpId n).comms = s.comms := rfl
@[simp] theorem State.bumpId_colls (s : State) (n : Nat) : (s.bumpId n).colls = s.colls := rfl
@[simp] theorem State.bumpId_parts (s : State) (n : Nat) : (s.bumpId n).parts = s.parts := rfl
@[simp] theorem State.bumpId_ctxEnergy (s : State) (n : Nat) : (s.bumpId n).ctxEnergy = s.ctxEnergy := rfl
@[simp] theorem State.bumpId_hub (s : State) (n : Nat) : (s.bumpId n).hub = s.hub := rfl
@[simp] theorem State.bumpId_tabor (s : State) (n : Nat) : (s.bumpId n).tabor = s.tabor := rfl
@[simp] theorem State.bumpId_time (s : State) (n : Nat) : (s.bumpId n).time = s.time := rfl
@[simp] theorem State.bumpId_cycles (s : State) (n : Nat) : (s.bumpId n).cycles = s.cycles := rfl
@[simp] theorem State.bumpId_outbox (s : State) (n : Nat) : (s.bumpId n).outbox = s.outbox := rfl
@[simp] theorem State.bumpId_inbox (s : State) (n : Nat) : (s.bumpId n).inbox = s.inbox := rfl
@[simp] theorem State.bumpId_names (s : State) (n : Nat) : (s.bumpId n).names = s.names := rfl
@[simp] theorem State.bumpId_oracle (s : State) (n : Nat) : (s.bumpId n).oracle = s.oracle := rfl

/-! ## fresh -/

@[simp] theorem State.fresh_wave (s : State) : (s.fresh).wave = s.wave := rfl
@[simp] theorem State.fresh_grp (s : State) : (s.fresh).grp = s.grp := rfl
@[simp] theorem State.fresh_waves (s : State) : (s.fresh).waves = s.waves := rfl
@[simp] theorem State.fresh_groups (s : State) : (s.fresh).groups = s.groups := rfl
@[simp] theorem State.fresh_spad (s : State) : (s.fresh).spad = s.spad := rfl
@[simp] theorem State.fresh_cores (s : State) : (s.fresh).cores = s.cores := rfl
@[simp] theorem State.fresh_ops (s : State) : (s.fresh).ops = s.ops := rfl
@[simp] theorem State.fresh_enrols (s : State) : (s.fresh).enrols = s.enrols := rfl
@[simp] theorem State.fresh_holds (s : State) : (s.fresh).holds = s.holds := rfl
@[simp] theorem State.fresh_lates (s : State) : (s.fresh).lates = s.lates := rfl
@[simp] theorem State.fresh_resid (s : State) : (s.fresh).resid = s.resid := rfl
@[simp] theorem State.fresh_tracks (s : State) : (s.fresh).tracks = s.tracks := rfl
@[simp] theorem State.fresh_watches (s : State) : (s.fresh).watches = s.watches := rfl
@[simp] theorem State.fresh_evals (s : State) : (s.fresh).evals = s.evals := rfl
@[simp] theorem State.fresh_ctxs (s : State) : (s.fresh).ctxs = s.ctxs := rfl
@[simp] theorem State.fresh_runs (s : State) : (s.fresh).runs = s.runs := rfl
@[simp] theorem State.fresh_launches (s : State) : (s.fresh).launches = s.launches := rfl
@[simp] theorem State.fresh_hbm (s : State) : (s.fresh).hbm = s.hbm := rfl
@[simp] theorem State.fresh_l2 (s : State) : (s.fresh).l2 = s.l2 := rfl
@[simp] theorem State.fresh_rdc (s : State) : (s.fresh).rdc = s.rdc := rfl
@[simp] theorem State.fresh_tlbs (s : State) : (s.fresh).tlbs = s.tlbs := rfl
@[simp] theorem State.fresh_chans (s : State) : (s.fresh).chans = s.chans := rfl
@[simp] theorem State.fresh_layers (s : State) : (s.fresh).layers = s.layers := rfl
@[simp] theorem State.fresh_rowCnt (s : State) : (s.fresh).rowCnt = s.rowCnt := rfl
@[simp] theorem State.fresh_badLines (s : State) : (s.fresh).badLines = s.badLines := rfl
@[simp] theorem State.fresh_upsets (s : State) : (s.fresh).upsets = s.upsets := rfl
@[simp] theorem State.fresh_heldUp (s : State) : (s.fresh).heldUp = s.heldUp := rfl
@[simp] theorem State.fresh_dies (s : State) : (s.fresh).dies = s.dies := rfl
@[simp] theorem State.fresh_notices (s : State) : (s.fresh).notices = s.notices := rfl
@[simp] theorem State.fresh_invals (s : State) : (s.fresh).invals = s.invals := rfl
@[simp] theorem State.fresh_homeKey (s : State) : (s.fresh).homeKey = s.homeKey := rfl
@[simp] theorem State.fresh_vkeys (s : State) : (s.fresh).vkeys = s.vkeys := rfl
@[simp] theorem State.fresh_windows (s : State) : (s.fresh).windows = s.windows := rfl
@[simp] theorem State.fresh_inbound (s : State) : (s.fresh).inbound = s.inbound := rfl
@[simp] theorem State.fresh_owed (s : State) : (s.fresh).owed = s.owed := rfl
@[simp] theorem State.fresh_hostWin (s : State) : (s.fresh).hostWin = s.hostWin := rfl
@[simp] theorem State.fresh_qps (s : State) : (s.fresh).qps = s.qps := rfl
@[simp] theorem State.fresh_unacked (s : State) : (s.fresh).unacked = s.unacked := rfl
@[simp] theorem State.fresh_performed (s : State) : (s.fresh).performed = s.performed := rfl
@[simp] theorem State.fresh_hostOps (s : State) : (s.fresh).hostOps = s.hostOps := rfl
@[simp] theorem State.fresh_routes (s : State) : (s.fresh).routes = s.routes := rfl
@[simp] theorem State.fresh_ports (s : State) : (s.fresh).ports = s.ports := rfl
@[simp] theorem State.fresh_comms (s : State) : (s.fresh).comms = s.comms := rfl
@[simp] theorem State.fresh_colls (s : State) : (s.fresh).colls = s.colls := rfl
@[simp] theorem State.fresh_parts (s : State) : (s.fresh).parts = s.parts := rfl
@[simp] theorem State.fresh_ctxEnergy (s : State) : (s.fresh).ctxEnergy = s.ctxEnergy := rfl
@[simp] theorem State.fresh_hub (s : State) : (s.fresh).hub = s.hub := rfl
@[simp] theorem State.fresh_tabor (s : State) : (s.fresh).tabor = s.tabor := rfl
@[simp] theorem State.fresh_seqs (s : State) : (s.fresh).seqs = s.seqs := rfl
@[simp] theorem State.fresh_time (s : State) : (s.fresh).time = s.time := rfl
@[simp] theorem State.fresh_cycles (s : State) : (s.fresh).cycles = s.cycles := rfl
@[simp] theorem State.fresh_outbox (s : State) : (s.fresh).outbox = s.outbox := rfl
@[simp] theorem State.fresh_inbox (s : State) : (s.fresh).inbox = s.inbox := rfl
@[simp] theorem State.fresh_oracle (s : State) : (s.fresh).oracle = s.oracle := rfl

/-! ## mapWaves -/

@[simp] theorem State.mapWaves_grp (s : State) (f : Wave → Wave) : (s.mapWaves f).grp = s.grp := rfl
@[simp] theorem State.mapWaves_groups (s : State) (f : Wave → Wave) : (s.mapWaves f).groups = s.groups := rfl
@[simp] theorem State.mapWaves_spad (s : State) (f : Wave → Wave) : (s.mapWaves f).spad = s.spad := rfl
@[simp] theorem State.mapWaves_cores (s : State) (f : Wave → Wave) : (s.mapWaves f).cores = s.cores := rfl
@[simp] theorem State.mapWaves_ops (s : State) (f : Wave → Wave) : (s.mapWaves f).ops = s.ops := rfl
@[simp] theorem State.mapWaves_enrols (s : State) (f : Wave → Wave) : (s.mapWaves f).enrols = s.enrols := rfl
@[simp] theorem State.mapWaves_holds (s : State) (f : Wave → Wave) : (s.mapWaves f).holds = s.holds := rfl
@[simp] theorem State.mapWaves_lates (s : State) (f : Wave → Wave) : (s.mapWaves f).lates = s.lates := rfl
@[simp] theorem State.mapWaves_resid (s : State) (f : Wave → Wave) : (s.mapWaves f).resid = s.resid := rfl
@[simp] theorem State.mapWaves_tracks (s : State) (f : Wave → Wave) : (s.mapWaves f).tracks = s.tracks := rfl
@[simp] theorem State.mapWaves_watches (s : State) (f : Wave → Wave) : (s.mapWaves f).watches = s.watches := rfl
@[simp] theorem State.mapWaves_evals (s : State) (f : Wave → Wave) : (s.mapWaves f).evals = s.evals := rfl
@[simp] theorem State.mapWaves_ctxs (s : State) (f : Wave → Wave) : (s.mapWaves f).ctxs = s.ctxs := rfl
@[simp] theorem State.mapWaves_runs (s : State) (f : Wave → Wave) : (s.mapWaves f).runs = s.runs := rfl
@[simp] theorem State.mapWaves_launches (s : State) (f : Wave → Wave) : (s.mapWaves f).launches = s.launches := rfl
@[simp] theorem State.mapWaves_hbm (s : State) (f : Wave → Wave) : (s.mapWaves f).hbm = s.hbm := rfl
@[simp] theorem State.mapWaves_l2 (s : State) (f : Wave → Wave) : (s.mapWaves f).l2 = s.l2 := rfl
@[simp] theorem State.mapWaves_rdc (s : State) (f : Wave → Wave) : (s.mapWaves f).rdc = s.rdc := rfl
@[simp] theorem State.mapWaves_tlbs (s : State) (f : Wave → Wave) : (s.mapWaves f).tlbs = s.tlbs := rfl
@[simp] theorem State.mapWaves_chans (s : State) (f : Wave → Wave) : (s.mapWaves f).chans = s.chans := rfl
@[simp] theorem State.mapWaves_layers (s : State) (f : Wave → Wave) : (s.mapWaves f).layers = s.layers := rfl
@[simp] theorem State.mapWaves_rowCnt (s : State) (f : Wave → Wave) : (s.mapWaves f).rowCnt = s.rowCnt := rfl
@[simp] theorem State.mapWaves_badLines (s : State) (f : Wave → Wave) : (s.mapWaves f).badLines = s.badLines := rfl
@[simp] theorem State.mapWaves_upsets (s : State) (f : Wave → Wave) : (s.mapWaves f).upsets = s.upsets := rfl
@[simp] theorem State.mapWaves_heldUp (s : State) (f : Wave → Wave) : (s.mapWaves f).heldUp = s.heldUp := rfl
@[simp] theorem State.mapWaves_dies (s : State) (f : Wave → Wave) : (s.mapWaves f).dies = s.dies := rfl
@[simp] theorem State.mapWaves_notices (s : State) (f : Wave → Wave) : (s.mapWaves f).notices = s.notices := rfl
@[simp] theorem State.mapWaves_invals (s : State) (f : Wave → Wave) : (s.mapWaves f).invals = s.invals := rfl
@[simp] theorem State.mapWaves_homeKey (s : State) (f : Wave → Wave) : (s.mapWaves f).homeKey = s.homeKey := rfl
@[simp] theorem State.mapWaves_vkeys (s : State) (f : Wave → Wave) : (s.mapWaves f).vkeys = s.vkeys := rfl
@[simp] theorem State.mapWaves_windows (s : State) (f : Wave → Wave) : (s.mapWaves f).windows = s.windows := rfl
@[simp] theorem State.mapWaves_inbound (s : State) (f : Wave → Wave) : (s.mapWaves f).inbound = s.inbound := rfl
@[simp] theorem State.mapWaves_owed (s : State) (f : Wave → Wave) : (s.mapWaves f).owed = s.owed := rfl
@[simp] theorem State.mapWaves_hostWin (s : State) (f : Wave → Wave) : (s.mapWaves f).hostWin = s.hostWin := rfl
@[simp] theorem State.mapWaves_qps (s : State) (f : Wave → Wave) : (s.mapWaves f).qps = s.qps := rfl
@[simp] theorem State.mapWaves_unacked (s : State) (f : Wave → Wave) : (s.mapWaves f).unacked = s.unacked := rfl
@[simp] theorem State.mapWaves_performed (s : State) (f : Wave → Wave) : (s.mapWaves f).performed = s.performed := rfl
@[simp] theorem State.mapWaves_hostOps (s : State) (f : Wave → Wave) : (s.mapWaves f).hostOps = s.hostOps := rfl
@[simp] theorem State.mapWaves_routes (s : State) (f : Wave → Wave) : (s.mapWaves f).routes = s.routes := rfl
@[simp] theorem State.mapWaves_ports (s : State) (f : Wave → Wave) : (s.mapWaves f).ports = s.ports := rfl
@[simp] theorem State.mapWaves_comms (s : State) (f : Wave → Wave) : (s.mapWaves f).comms = s.comms := rfl
@[simp] theorem State.mapWaves_colls (s : State) (f : Wave → Wave) : (s.mapWaves f).colls = s.colls := rfl
@[simp] theorem State.mapWaves_parts (s : State) (f : Wave → Wave) : (s.mapWaves f).parts = s.parts := rfl
@[simp] theorem State.mapWaves_ctxEnergy (s : State) (f : Wave → Wave) : (s.mapWaves f).ctxEnergy = s.ctxEnergy := rfl
@[simp] theorem State.mapWaves_hub (s : State) (f : Wave → Wave) : (s.mapWaves f).hub = s.hub := rfl
@[simp] theorem State.mapWaves_tabor (s : State) (f : Wave → Wave) : (s.mapWaves f).tabor = s.tabor := rfl
@[simp] theorem State.mapWaves_seqs (s : State) (f : Wave → Wave) : (s.mapWaves f).seqs = s.seqs := rfl
@[simp] theorem State.mapWaves_time (s : State) (f : Wave → Wave) : (s.mapWaves f).time = s.time := rfl
@[simp] theorem State.mapWaves_cycles (s : State) (f : Wave → Wave) : (s.mapWaves f).cycles = s.cycles := rfl
@[simp] theorem State.mapWaves_outbox (s : State) (f : Wave → Wave) : (s.mapWaves f).outbox = s.outbox := rfl
@[simp] theorem State.mapWaves_inbox (s : State) (f : Wave → Wave) : (s.mapWaves f).inbox = s.inbox := rfl
@[simp] theorem State.mapWaves_names (s : State) (f : Wave → Wave) : (s.mapWaves f).names = s.names := rfl
@[simp] theorem State.mapWaves_oracle (s : State) (f : Wave → Wave) : (s.mapWaves f).oracle = s.oracle := rfl

/-! ## spadPut -/

@[simp] theorem State.spadPut_grp (s : State) (a : Nat) (b : List Byte) : (s.spadPut a b).grp = s.grp := rfl
@[simp] theorem State.spadPut_groups (s : State) (a : Nat) (b : List Byte) : (s.spadPut a b).groups = s.groups := rfl
@[simp] theorem State.spadPut_cores (s : State) (a : Nat) (b : List Byte) : (s.spadPut a b).cores = s.cores := rfl
@[simp] theorem State.spadPut_ops (s : State) (a : Nat) (b : List Byte) : (s.spadPut a b).ops = s.ops := rfl
@[simp] theorem State.spadPut_enrols (s : State) (a : Nat) (b : List Byte) : (s.spadPut a b).enrols = s.enrols := rfl
@[simp] theorem State.spadPut_holds (s : State) (a : Nat) (b : List Byte) : (s.spadPut a b).holds = s.holds := rfl
@[simp] theorem State.spadPut_lates (s : State) (a : Nat) (b : List Byte) : (s.spadPut a b).lates = s.lates := rfl
@[simp] theorem State.spadPut_resid (s : State) (a : Nat) (b : List Byte) : (s.spadPut a b).resid = s.resid := rfl
@[simp] theorem State.spadPut_tracks (s : State) (a : Nat) (b : List Byte) : (s.spadPut a b).tracks = s.tracks := rfl
@[simp] theorem State.spadPut_watches (s : State) (a : Nat) (b : List Byte) : (s.spadPut a b).watches = s.watches := rfl
@[simp] theorem State.spadPut_evals (s : State) (a : Nat) (b : List Byte) : (s.spadPut a b).evals = s.evals := rfl
@[simp] theorem State.spadPut_ctxs (s : State) (a : Nat) (b : List Byte) : (s.spadPut a b).ctxs = s.ctxs := rfl
@[simp] theorem State.spadPut_runs (s : State) (a : Nat) (b : List Byte) : (s.spadPut a b).runs = s.runs := rfl
@[simp] theorem State.spadPut_launches (s : State) (a : Nat) (b : List Byte) : (s.spadPut a b).launches = s.launches := rfl
@[simp] theorem State.spadPut_hbm (s : State) (a : Nat) (b : List Byte) : (s.spadPut a b).hbm = s.hbm := rfl
@[simp] theorem State.spadPut_l2 (s : State) (a : Nat) (b : List Byte) : (s.spadPut a b).l2 = s.l2 := rfl
@[simp] theorem State.spadPut_rdc (s : State) (a : Nat) (b : List Byte) : (s.spadPut a b).rdc = s.rdc := rfl
@[simp] theorem State.spadPut_tlbs (s : State) (a : Nat) (b : List Byte) : (s.spadPut a b).tlbs = s.tlbs := rfl
@[simp] theorem State.spadPut_chans (s : State) (a : Nat) (b : List Byte) : (s.spadPut a b).chans = s.chans := rfl
@[simp] theorem State.spadPut_layers (s : State) (a : Nat) (b : List Byte) : (s.spadPut a b).layers = s.layers := rfl
@[simp] theorem State.spadPut_rowCnt (s : State) (a : Nat) (b : List Byte) : (s.spadPut a b).rowCnt = s.rowCnt := rfl
@[simp] theorem State.spadPut_badLines (s : State) (a : Nat) (b : List Byte) : (s.spadPut a b).badLines = s.badLines := rfl
@[simp] theorem State.spadPut_upsets (s : State) (a : Nat) (b : List Byte) : (s.spadPut a b).upsets = s.upsets := rfl
@[simp] theorem State.spadPut_heldUp (s : State) (a : Nat) (b : List Byte) : (s.spadPut a b).heldUp = s.heldUp := rfl
@[simp] theorem State.spadPut_dies (s : State) (a : Nat) (b : List Byte) : (s.spadPut a b).dies = s.dies := rfl
@[simp] theorem State.spadPut_notices (s : State) (a : Nat) (b : List Byte) : (s.spadPut a b).notices = s.notices := rfl
@[simp] theorem State.spadPut_invals (s : State) (a : Nat) (b : List Byte) : (s.spadPut a b).invals = s.invals := rfl
@[simp] theorem State.spadPut_homeKey (s : State) (a : Nat) (b : List Byte) : (s.spadPut a b).homeKey = s.homeKey := rfl
@[simp] theorem State.spadPut_vkeys (s : State) (a : Nat) (b : List Byte) : (s.spadPut a b).vkeys = s.vkeys := rfl
@[simp] theorem State.spadPut_windows (s : State) (a : Nat) (b : List Byte) : (s.spadPut a b).windows = s.windows := rfl
@[simp] theorem State.spadPut_inbound (s : State) (a : Nat) (b : List Byte) : (s.spadPut a b).inbound = s.inbound := rfl
@[simp] theorem State.spadPut_owed (s : State) (a : Nat) (b : List Byte) : (s.spadPut a b).owed = s.owed := rfl
@[simp] theorem State.spadPut_hostWin (s : State) (a : Nat) (b : List Byte) : (s.spadPut a b).hostWin = s.hostWin := rfl
@[simp] theorem State.spadPut_qps (s : State) (a : Nat) (b : List Byte) : (s.spadPut a b).qps = s.qps := rfl
@[simp] theorem State.spadPut_unacked (s : State) (a : Nat) (b : List Byte) : (s.spadPut a b).unacked = s.unacked := rfl
@[simp] theorem State.spadPut_performed (s : State) (a : Nat) (b : List Byte) : (s.spadPut a b).performed = s.performed := rfl
@[simp] theorem State.spadPut_hostOps (s : State) (a : Nat) (b : List Byte) : (s.spadPut a b).hostOps = s.hostOps := rfl
@[simp] theorem State.spadPut_routes (s : State) (a : Nat) (b : List Byte) : (s.spadPut a b).routes = s.routes := rfl
@[simp] theorem State.spadPut_ports (s : State) (a : Nat) (b : List Byte) : (s.spadPut a b).ports = s.ports := rfl
@[simp] theorem State.spadPut_comms (s : State) (a : Nat) (b : List Byte) : (s.spadPut a b).comms = s.comms := rfl
@[simp] theorem State.spadPut_colls (s : State) (a : Nat) (b : List Byte) : (s.spadPut a b).colls = s.colls := rfl
@[simp] theorem State.spadPut_parts (s : State) (a : Nat) (b : List Byte) : (s.spadPut a b).parts = s.parts := rfl
@[simp] theorem State.spadPut_ctxEnergy (s : State) (a : Nat) (b : List Byte) : (s.spadPut a b).ctxEnergy = s.ctxEnergy := rfl
@[simp] theorem State.spadPut_hub (s : State) (a : Nat) (b : List Byte) : (s.spadPut a b).hub = s.hub := rfl
@[simp] theorem State.spadPut_tabor (s : State) (a : Nat) (b : List Byte) : (s.spadPut a b).tabor = s.tabor := rfl
@[simp] theorem State.spadPut_seqs (s : State) (a : Nat) (b : List Byte) : (s.spadPut a b).seqs = s.seqs := rfl
@[simp] theorem State.spadPut_time (s : State) (a : Nat) (b : List Byte) : (s.spadPut a b).time = s.time := rfl
@[simp] theorem State.spadPut_cycles (s : State) (a : Nat) (b : List Byte) : (s.spadPut a b).cycles = s.cycles := rfl
@[simp] theorem State.spadPut_outbox (s : State) (a : Nat) (b : List Byte) : (s.spadPut a b).outbox = s.outbox := rfl
@[simp] theorem State.spadPut_inbox (s : State) (a : Nat) (b : List Byte) : (s.spadPut a b).inbox = s.inbox := rfl
@[simp] theorem State.spadPut_names (s : State) (a : Nat) (b : List Byte) : (s.spadPut a b).names = s.names := rfl
@[simp] theorem State.spadPut_oracle (s : State) (a : Nat) (b : List Byte) : (s.spadPut a b).oracle = s.oracle := rfl

end Sys2Proof.Machine
end

