-- ==== Sys2Proof/Laws/Issue.lean ====
section
/-!
SUPPORT. Sys2Proof/Laws/Issue.lean: what issue does: registers do not change as an instruction is counted, and an instruction
that nothing holds back is performed.
-/

namespace Sys2Proof.Machine

/-! ## Slots -/

theorem Wave.slotAt_setSlotAt (w : Wave) (k : Nat) (f : Slot) : (w.setSlotAt k f).slotAt k = f := by
  unfold Wave.slotAt Wave.setSlotAt
  by_cases h : k = 0 <;> simp [h]

theorem Wave.slotAt_setSlotAt_of_ne (w : Wave) (k : Nat) (f : Slot) (j : Nat) (h : (k = 0) ≠ (j = 0)) :
    (w.setSlotAt k f).slotAt j = w.slotAt j := by
  unfold Wave.slotAt Wave.setSlotAt
  by_cases hk : k = 0 <;> by_cases hj : j = 0 <;> simp_all

@[simp] theorem Wave.setSlotAt_cur (w : Wave) (k : Nat) (f : Slot) : (w.setSlotAt k f).cur = w.cur := by
  unfold Wave.setSlotAt; split <;> rfl
@[simp] theorem Wave.setSlotAt_top (w : Wave) (k : Nat) (f : Slot) : (w.setSlotAt k f).top = w.top := by
  unfold Wave.setSlotAt; split <;> rfl
@[simp] theorem Wave.setSlotAt_frames (w : Wave) (k : Nat) (f : Slot) : (w.setSlotAt k f).frames = w.frames := by
  unfold Wave.setSlotAt; split <;> rfl
@[simp] theorem Wave.setSlotAt_sregs (w : Wave) (k : Nat) (f : Slot) : (w.setSlotAt k f).sregs = w.sregs := by
  unfold Wave.setSlotAt; split <;> rfl
@[simp] theorem Wave.setSlotAt_aregs (w : Wave) (k : Nat) (f : Slot) : (w.setSlotAt k f).aregs = w.aregs := by
  unfold Wave.setSlotAt; split <;> rfl
@[simp] theorem Wave.setSlotAt_index (w : Wave) (k : Nat) (f : Slot) : (w.setSlotAt k f).index = w.index := by
  unfold Wave.setSlotAt; split <;> rfl
@[simp] theorem Wave.setSlotAt_core (w : Wave) (k : Nat) (f : Slot) : (w.setSlotAt k f).core = w.core := by
  unfold Wave.setSlotAt; split <;> rfl
@[simp] theorem Wave.setSlotAt_flags (w : Wave) (k : Nat) (f : Slot) : (w.setSlotAt k f).flags = w.flags := by
  unfold Wave.setSlotAt; split <;> rfl

@[simp] theorem State.setSlot_slot (s : State) (f : Slot) : (s.setSlot f).slot = f := by
  simp [State.setSlot, State.slot, Wave.slot, Wave.slotAt_setSlotAt]

@[simp] theorem State.setSlot_setSlot (s : State) (f g : Slot) : (s.setSlot f).setSlot g = s.setSlot g := by
  unfold State.setSlot Wave.setSlotAt
  by_cases h : s.wave.cur = 0 <;> simp [h]

/-! ## Registers do not depend on how many instructions have been counted -/

/-- A slot with the same mask, level and depth. -/
theorem State.frameKey_setSlot (s : State) (f : Slot) (h : f.depth = s.slot.depth) : (s.setSlot f).frameKey = s.frameKey := by
  simp only [State.frameKey, Wave.curKey, Wave.frameKey, State.setSlot, Wave.setSlotAt_cur, Wave.setSlotAt_top,
    Wave.slotAt_setSlotAt, h]
  rfl

@[simp] theorem Slot.ticked_mask (f : Slot) : f.ticked.mask = f.mask := rfl
@[simp] theorem Slot.ticked_level (f : Slot) : f.ticked.level = f.level := rfl
@[simp] theorem Slot.ticked_depth (f : Slot) : f.ticked.depth = f.depth := rfl
@[simp] theorem Slot.ticked_pc (f : Slot) : f.ticked.pc = f.pc := rfl

@[simp] theorem State.tick_slot (s : State) : s.tick.slot = s.slot.ticked := by simp [State.tick]
@[simp] theorem State.tick_frameKey (s : State) : s.tick.frameKey = s.frameKey := State.frameKey_setSlot s _ rfl
@[simp] theorem State.tick_exec (s : State) : s.tick.exec = s.exec := by simp [State.exec]
@[simp] theorem State.tick_pc (s : State) : s.tick.pc = s.pc := by simp [State.pc]
@[simp] theorem State.tick_grp (s : State) : s.tick.grp = s.grp := rfl
@[simp] theorem State.tick_hub (s : State) : s.tick.hub = s.hub := rfl

@[simp] theorem State.tick_sget (s : State) (n : SReg) : s.tick.sget n = s.sget n := by
  unfold State.sget
  rw [State.tick_exec]
  simp [State.tick, State.s58, State.s61, State.setSlot]

@[simp] theorem State.tick_pget (s : State) (p : SPair) : s.tick.pget p = s.pget p := by simp [State.pget]
@[simp] theorem State.tick_ssrc (s : State) (a : SSrc) : s.tick.ssrc a = s.ssrc a := by cases a <;> simp [State.ssrc]

@[simp] theorem State.tick_vget (s : State) (r : VReg) : s.tick.vget r = s.vget r := by
  unfold State.vget
  rw [State.tick_frameKey]
  cases r <;> simp [Wave.vget, Wave.frame, State.tick, State.setSlot]

@[simp] theorem State.tick_vsrc (s : State) (a : VSrc) : s.tick.vsrc a = s.vsrc a := by cases a <;> simp [State.vsrc]

/-! ## The checks of issue -/

/-- What nothing holds back passes every check that its own conditions pass. -/
theorem State.check_go (s : State) (i : Instr) (c1 : State → Option Nat) (c3 : State → Option Raise) (free : List RegName)
    (h : Clear s i) (h1 : c1 s = none) (h3 : c3 s = none) : s.check i c1 c3 free = .go := by
  have a : s.staticCause i = none := by simp [State.staticCause, h.feature, h.inFrame]
  have b : ¬ ∃ x ∈ s.pendingRegs, (x ∈ touched i s.frameKey ∧ x ∉ s.windowRegs) ∧ x ∉ free :=
    fun ⟨x, hx, ⟨ht, _⟩, _⟩ => h.ready x ht hx
  have c : ¬ ∃ x ∈ s.windowRegs, x ∈ touched i s.frameKey ∧ x ∉ free := fun ⟨x, hx, ht, _⟩ => h.shut x ht hx
  simp [State.check, a, h1, h3, h.free]
  rw [if_neg b, if_neg c]

/-- An instruction that is held back by nothing is performed. -/
theorem State.issueHold_go (s : State) (i : Instr) (c1 : State → Option Nat) (c3 : State → Option Raise)
    (free : List RegName) (hold : State → Option Stall) (run : State → State)
    (h : Clear s i) (h1 : c1 s = none) (h3 : c3 s = none) (hh : hold s = none) :
    s.issueHold i c1 c3 free hold run = (run s.tick).openWindow i s.frameKey := by
  simp [State.issueHold, s.check_go i c1 c3 free h h1 h3, hh]

theorem State.openWindow_zero (s : State) (i : Instr) (k : Nat) (h : lookahead i = 0) : s.openWindow i k = s := by
  simp [State.openWindow, h]

/-- An instruction without checks of its own and without a lookahead field. -/
theorem State.issue_go (s : State) (i : Instr) (run : State → State) (h : Clear s i) (hl : lookahead i = 0) :
    s.issue i run = (run s.tick).nextPc i := by
  rw [State.issue, State.issueWith, s.issueHold_go i _ _ _ _ _ h rfl rfl rfl, State.openWindow_zero _ _ _ hl]

/-- An instruction without checks of its own. -/
theorem State.issue_open (s : State) (i : Instr) (run : State → State) (h : Clear s i) :
    s.issue i run = ((run s.tick).nextPc i).openWindow i s.frameKey := by
  rw [State.issue, State.issueWith, s.issueHold_go i _ _ _ _ _ h rfl rfl rfl]

end Sys2Proof.Machine
end

