-- ==== Sys2Proof/Laws/Memory.lean ====
section
/-!
SUPPORT. Sys2Proof/Laws/Memory.lean: what every access to global memory may change, and that every operation on memories keeps
their canonical form.
-/

namespace Sys2Proof.Machine

/-! ## What an access to global memory may change -/

/-- A state with the memory side of another: channels (and whether one holds an access up), rows, bad lines, HBM, caches, leases, notices, events, and the WAITADDRs
that are due. -/
def State.memPut (s t : State) : State :=
  { s with
    chans := t.chans, rowCnt := t.rowCnt, tabor := t.tabor, badLines := t.badLines, hbm := t.hbm, l2 := t.l2, rdc := t.rdc
    heldUp := t.heldUp
    tlbs := t.tlbs, dies := t.dies, notices := t.notices, evals := t.evals }

/-- Only the memory side changes, and HBM keeps its canonical form. -/
def MemOnly (s t : State) : Prop := t = s.memPut t ∧ (Memory.wf s.hbm = true → Memory.wf t.hbm = true)

theorem MemOnly.refl (s : State) : MemOnly s s := ⟨rfl, id⟩

theorem MemOnly.trans {s t u : State} (h : MemOnly s t) (k : MemOnly t u) : MemOnly s u := by
  refine ⟨?_, fun w => k.2 (h.2 w)⟩
  calc u = t.memPut u := k.1
    _ = (s.memPut t).memPut u := congrArg (fun x => State.memPut x u) h.1
    _ = s.memPut u := rfl

theorem MemOnly.waves {s t : State} (h : MemOnly s t) : t.waves = s.waves := by rw [h.1]; rfl
theorem MemOnly.wave {s t : State} (h : MemOnly s t) : t.wave = s.wave := by rw [h.1]; rfl
theorem MemOnly.grp {s t : State} (h : MemOnly s t) : t.grp = s.grp := by rw [h.1]; rfl
theorem MemOnly.groups {s t : State} (h : MemOnly s t) : t.groups = s.groups := by rw [h.1]; rfl
theorem MemOnly.spad {s t : State} (h : MemOnly s t) : t.spad = s.spad := by rw [h.1]; rfl
theorem MemOnly.cores {s t : State} (h : MemOnly s t) : t.cores = s.cores := by rw [h.1]; rfl
theorem MemOnly.ops {s t : State} (h : MemOnly s t) : t.ops = s.ops := by rw [h.1]; rfl
theorem MemOnly.ctxs {s t : State} (h : MemOnly s t) : t.ctxs = s.ctxs := by rw [h.1]; rfl
theorem MemOnly.runs {s t : State} (h : MemOnly s t) : t.runs = s.runs := by rw [h.1]; rfl
theorem MemOnly.launches {s t : State} (h : MemOnly s t) : t.launches = s.launches := by rw [h.1]; rfl
theorem MemOnly.parts {s t : State} (h : MemOnly s t) : t.parts = s.parts := by rw [h.1]; rfl
theorem MemOnly.hub {s t : State} (h : MemOnly s t) : t.hub = s.hub := by rw [h.1]; rfl
theorem MemOnly.time {s t : State} (h : MemOnly s t) : t.time = s.time := by rw [h.1]; rfl
theorem MemOnly.outbox {s t : State} (h : MemOnly s t) : t.outbox = s.outbox := by rw [h.1]; rfl

/-! ## Channels -/

theorem modChan_mem (s : State) (c : Nat) (f : Chan → Chan) : MemOnly s (s.modChan c f) := ⟨rfl, id⟩
theorem modDie_mem (s : State) (d : Nat) (f : Die → Die) : MemOnly s (s.modDie d f) := ⟨rfl, id⟩
theorem emitN_mem (s : State) (p u t : Nat) (a b : Dword) (n : Nat) : MemOnly s (s.emitN p u t a b n) := ⟨rfl, id⟩
theorem hbmPut_mem (s : State) (p : Nat) (d : List Byte) : MemOnly s (s.hbmPut p d) := ⟨rfl, cwf_cwrite 0 _ _ _⟩

theorem closeRow_mem (s : State) (c b r : Nat) : MemOnly s (s.closeRow c b r) := by
  unfold State.closeRow
  dsimp only
  split
  · split <;> exact ⟨rfl, id⟩
  · exact ⟨rfl, id⟩

theorem windowEnd_mem (s : State) (c : Nat) : MemOnly s (s.windowEnd c) := by
  unfold State.windowEnd
  dsimp only
  split <;> exact ⟨rfl, id⟩

theorem touchBank_mem (s : State) (c b r : Nat) : MemOnly s (s.touchBank c b r) := by
  unfold State.touchBank
  dsimp only
  split
  · exact .refl s
  · split
    · exact ⟨rfl, id⟩
    · refine MemOnly.trans (t := if 65536 ≤ (s.chan c).acts then s.windowEnd c else s) ?_ ?_
      · split
        · exact windowEnd_mem s c
        · exact .refl s
      · generalize (if 65536 ≤ (s.chan c).acts then s.windowEnd c else s) = t
        split
        · next old _ =>
            exact ((closeRow_mem t c b old).trans (modChan_mem _ c (fun c => { c with confl := c.confl + 1 }))).trans ⟨rfl, id⟩
        · exact ⟨rfl, id⟩

theorem touchRow_mem (s : State) (c p : Nat) : MemOnly s (s.touchRow c p) := touchBank_mem s c _ _

theorem touchGroup_mem (s : State) (c r : Nat) : MemOnly s (s.touchGroup c r) := by
  unfold State.touchGroup
  generalize List.range 32 = l
  induction l generalizing s with
  | nil => exact .refl s
  | cons x l ih => exact (touchBank_mem s c x r).trans (ih _)

theorem countSoft_mem (s : State) (c p : Nat) : MemOnly s (s.countSoft c p) := by
  unfold State.countSoft
  split
  · exact modChan_mem s c _
  · exact .refl s

theorem touchTables_mem (l : List Nat) (s : State) : MemOnly s (s.touchTables l) := by
  unfold State.touchTables
  induction l generalizing s with
  | nil => exact .refl s
  | cons x l ih => exact ((touchRow_mem s _ x).trans (countSoft_mem _ _ x)).trans (ih _)

theorem substitute_mem (s : State) (q : Dword) (p c h : Nat) : MemOnly s (s.substitute q p c h) := ⟨rfl, id⟩
theorem poisonLine_mem (s : State) (q : Dword) (p c h : Nat) : MemOnly s (s.poisonLine q p c h) := ⟨rfl, id⟩

theorem channelRead_mem (s : State) (q : Dword) (p c h : Nat) (l : Leaf) : MemOnly s (s.channelRead q p c h l).1 := by
  unfold State.channelRead
  dsimp only
  have t := touchRow_mem s c h
  split
  · exact t.trans (countSoft_mem _ c h)
  · exact t.trans (countSoft_mem _ c h)
  · split
    · exact t.trans (show MemOnly _ (State.substitute _ q p c h) from substitute_mem _ _ _ _ _)
    · split
      · exact t
      · exact t.trans ⟨rfl, id⟩

theorem channelWrite_mem (s : State) (c h : Nat) (d : List Byte) (p : Bool) : MemOnly s (s.channelWrite c h d p) := by
  unfold State.channelWrite
  exact ((touchRow_mem s c h).trans (hbmPut_mem _ h d)).trans ⟨rfl, id⟩

/-! ## Translation and slices -/

theorem tlbKeep_mem (s : State) (t : Tlb) : MemOnly s (s.tlbKeep t) := by
  unfold State.tlbKeep
  split
  · exact .refl s
  · split
    · exact ⟨rfl, id⟩
    · dsimp only; split <;> exact ⟨rfl, id⟩

theorem tlbKeeps_mem (f : Nat × Nat × Dword → Tlb) (l : List (Nat × Nat × Dword)) (s : State) :
    MemOnly s (l.foldl (fun s t => s.tlbKeep (f t)) s) := by
  induction l generalizing s with
  | nil => exact .refl s
  | cons x l ih => exact (tlbKeep_mem s (f x)).trans (ih _)

theorem translate_mem (s : State) (q : Dword) (c l : Nat) : MemOnly s (s.translate q c l).1 := by
  unfold State.translate
  split
  · exact .refl s
  · split
    · split <;> exact .refl s
    · dsimp only
      split
      · exact .refl s
      · split
        · exact .refl s
        · split
          · exact .refl s
          · have h := fun l : List Nat => touchTables_mem l s
            split
            · exact ((h _).trans (tlbKeeps_mem _ _ _)).trans (tlbKeep_mem _ _)
            · exact ((h _).trans (tlbKeeps_mem _ _ _)).trans ⟨rfl, id⟩
            · exact (h _).trans (tlbKeeps_mem _ _ _)
            · exact (h _).trans (tlbKeeps_mem _ _ _)

theorem l2Put_mem (s : State) (x : L2Line) : MemOnly s (s.l2Put x) := by unfold State.l2Put; split <;> exact ⟨rfl, id⟩
theorem l2Use_mem (s : State) (x : L2Line) : MemOnly s (s.l2Use x) := ⟨rfl, id⟩
theorem l2Insert_mem (s : State) (x : L2Line) : MemOnly s (s.l2Insert x) := ⟨rfl, id⟩
theorem l2Drop_mem (s : State) (x : L2Line) : MemOnly s (s.l2Drop x) := ⟨rfl, id⟩

theorem l2Fill_mem (s : State) (q : Dword) (c l : Nat) (k : Acc) (w : Bool) : MemOnly s (s.l2Fill q c l k w).1 := by
  unfold State.l2Fill
  have t := translate_mem s q c l
  generalize s.translate q c l = x at t ⊢
  obtain ⟨u, r⟩ := x
  dsimp only at t ⊢
  split
  · exact t
  · split
    · split
      · exact t
      · exact t.trans (channelRead_mem _ _ _ _ _ _)
    · exact t

theorem l2Mend_mem (s : State) (q : Dword) (x : L2Line) (w : Bool) : MemOnly s (s.l2Mend q x w).1 := by
  unfold State.l2Mend
  split
  · exact .refl s
  · split
    · exact l2Drop_mem s x
    · dsimp only
      split
      · exact l2Put_mem s _
      · split
        · exact (substitute_mem s _ _ _ _).trans (l2Put_mem _ _)
        · exact (poisonLine_mem s _ _ _ _).trans (l2Put_mem _ _)

theorem l2Hit_mem (s : State) (q : Dword) (c l : Nat) (w : Bool) : MemOnly s (s.l2Hit q c l w).1 := by
  unfold State.l2Hit
  split
  · exact l2Mend_mem s q _ w
  · exact .refl s

theorem homeLine_mem (s : State) (q : Dword) (c l : Nat) (k : Acc) (w : Bool) : MemOnly s (s.homeLine q c l k w).1 := by
  unfold State.homeLine
  have h := l2Hit_mem s q c l w
  generalize s.l2Hit q c l w = y at h ⊢
  obtain ⟨v, o⟩ := y
  cases o with
  | some x =>
      dsimp only at h ⊢
      split
      · exact h
      · split
        · exact h
        · exact h.trans (l2Use_mem v x)
  | none =>
      dsimp only at h ⊢
      have t := l2Fill_mem v q c l k w
      generalize v.l2Fill q c l k w = x at t ⊢
      obtain ⟨u, r⟩ := x
      dsimp only at t ⊢
      split
      · exact h.trans t
      · split <;> exact h.trans (t.trans (l2Insert_mem _ _))

theorem chanLine_mem (s : State) (q : Dword) (c l : Nat) (k : Acc) : MemOnly s (s.chanLine q c l k).1 := by
  unfold State.chanLine
  split
  · exact homeLine_mem s q c l k false
  · have t := l2Fill_mem s q c l k false
    generalize s.l2Fill q c l k false = x at t ⊢
    obtain ⟨u, r⟩ := x
    dsimp only at t ⊢
    split
    · exact t
    · split <;> exact t

theorem breakLease_mem (s : State) (x : L2Line) : MemOnly s (s.breakLease x) := by
  unfold State.breakLease; split <;> exact ⟨rfl, id⟩

theorem readLine_mem (s : State) (q : Dword) (d : Option Nat) (c l : Nat) (k : Acc) : MemOnly s (s.readLine q d c l k).1 := by
  unfold State.readLine
  have t := homeLine_mem s q c l k false
  generalize s.homeLine q c l k false = x at t ⊢
  obtain ⟨u, r⟩ := x
  dsimp only at t ⊢
  split
  · exact t
  · split
    · exact t
    · split
      · split
        · exact .refl s
        · split <;> exact .refl s
      · split
        · exact t
        · split
          · exact t.trans (l2Put_mem _ _)
          · exact (t.trans (l2Put_mem _ _)).trans ⟨rfl, id⟩

theorem dropCopy_mem (s : State) (d : Option Nat) (c l : Nat) : MemOnly s (s.dropCopy d c l) := by
  unfold State.dropCopy
  split
  · split
    · exact .refl s
    · exact ⟨rfl, id⟩
  · exact .refl s

theorem dropCopies_mem (d : Option Nat) (c : Nat) (l : List Nat) (s : State) : MemOnly s (s.dropCopies d c l) := by
  unfold State.dropCopies
  induction l generalizing s with
  | nil => exact .refl s
  | cons x l ih => exact (dropCopy_mem s d c x).trans (ih _)

theorem storeLine_mem (s : State) (q : Dword) (d : Option Nat) (c l o : Nat) (b : List Byte) (nt : Bool) (k : Acc) :
    MemOnly s (s.storeLine q d c l o b nt k).1 := by
  unfold State.storeLine
  refine (dropCopy_mem s d c l).trans ?_
  generalize s.dropCopy d c l = u
  dsimp only
  split
  · have t := l2Fill_mem u q c l k (b.length == 128)
    split
    · exact t
    · split
      · exact t
      · exact (t.trans (channelWrite_mem _ _ _ _ _)).trans (breakLease_mem _ _)
  · have t := homeLine_mem u q c l k (b.length == 128)
    split
    · exact t
    · exact (t.trans (l2Put_mem _ _)).trans (breakLease_mem _ _)

theorem wrote_mem (s : State) (c l : Nat) : MemOnly s (s.wrote c l) := by
  unfold State.wrote
  dsimp only
  split <;> exact ⟨rfl, id⟩

theorem writeLine_mem (s : State) (q : Dword) (d : Option Nat) (c l o : Nat) (b : List Byte) (nt : Bool) (k : Acc) :
    MemOnly s (s.writeLine q d c l o b nt k).1 := by
  unfold State.writeLine
  have t := storeLine_mem s q d c l o b nt k
  split
  · next h => rw [h] at t; exact t.trans (wrote_mem _ _ _)
  · exact t

/-! ## Byte ranges -/

/-- A read changes the memory side only. -/
theorem readPieces_mem (q : Dword) (d : Option Nat) (c : Nat) (k : Acc) (l : List (Nat × Nat × Nat)) (s : State) :
    MemOnly s (s.readPieces q d c k l).1 := by
  induction l generalizing s with
  | nil => exact .refl s
  | cons x l ih =>
      obtain ⟨a, o, n⟩ := x
      have t := readLine_mem s q d c a k
      simp only [State.readPieces]
      split
      · exact t
      · exact t.trans (ih _)

theorem gread_mem (s : State) (q : Dword) (d : Option Nat) (c a n : Nat) : MemOnly s (s.gread q d c a n).1 :=
  readPieces_mem q d c .rd _ s

/-- A write changes the memory side only. -/
theorem writePieces_mem (q : Dword) (d : Option Nat) (c : Nat) (nt : Bool) (k : Acc) (l : List (Nat × Nat × Nat)) (s : State)
    (b : List Byte) : MemOnly s (s.writePieces q d c nt k l b).1 := by
  induction l generalizing s b with
  | nil => exact .refl s
  | cons x l ih =>
      obtain ⟨a, o, n⟩ := x
      have t := writeLine_mem s q d c a o (b.take n) nt k
      simp only [State.writePieces]
      split
      · exact t
      · exact t.trans (ih _ _)

theorem gwrite_mem (s : State) (q : Dword) (d : Option Nat) (c a : Nat) (b : List Byte) (nt : Bool) (k : Acc := .wr) :
    MemOnly s (s.gwrite q d c a b nt k).1 := writePieces_mem q d c nt k _ s b

theorem gatomic_mem (s : State) (q : Dword) (d : Option Nat) (c a n : Nat) (f : List Byte → List Byte) (k : Acc := .rmw) :
    MemOnly s (s.gatomic q d c a n f k).1 := by
  unfold State.gatomic
  have t := homeLine_mem s q c (a / 128) k false
  dsimp only
  generalize s.homeLine q c (a / 128) k false = y at t ⊢
  obtain ⟨u, r⟩ := y
  cases r with
  | error e => exact t
  | ok x =>
      have w := writeLine_mem u q d c (a / 128) (a % 128) (f ((x.data.drop (a % 128)).take n)) false k
      dsimp only at t w ⊢
      split <;> exact t.trans w

/-- A die's snapshot changes the memory side only. -/
theorem snapshot_mem (s : State) (d : Nat) : MemOnly s (s.snapshot d) := ⟨rfl, id⟩

theorem applyNotice_mem (s : State) (n : Notice) : MemOnly s (s.applyNotice n) := ⟨rfl, id⟩

theorem applyNotices_mem (s : State) : MemOnly s s.applyNotices := by
  suffices h : ∀ (l : List Notice) (u : State), MemOnly u (l.foldl State.applyNotice u) from
    (h s.notices s).trans ⟨rfl, id⟩
  intro l
  induction l with
  | nil => exact fun u => .refl u
  | cons x l ih => exact fun u => (applyNotice_mem u x).trans (ih _)

/-! ## The canonical form of the scratchpads and planes -/

theorem spadPut_wf (s : State) (a : Nat) (b : List Byte) (w : Memory.wf s.spad = true) : Memory.wf (s.spadPut a b).spad = true :=
  cwf_cwrite 0 s.spad a b w

theorem spadClears_wf (f : Nat → Nat) (n : Nat) (l : List Nat) (s : State) (w : Memory.wf s.spad = true) :
    Memory.wf (l.foldl (fun s c => { s with spad := cclear s.spad (f c) (f c + n) }) s).spad = true := by
  induction l generalizing s with
  | nil => exact w
  | cons x l ih => exact ih _ (cwf_cclear 0 s.spad _ _ w)

theorem modCore_spad (s : State) (c : Nat) (f : Core → Core) : (s.modCore c f).spad = s.spad := rfl

theorem modCores_spad (f : Core → Core) (l : List Nat) (s : State) : (l.foldl (fun s c => s.modCore c f) s).spad = s.spad := by
  induction l generalizing s with
  | nil => rfl
  | cons x l ih => exact ih _

theorem claim_wf (s : State) (g : Group) (w : Memory.wf s.spad = true) : Memory.wf (s.claim g).spad = true := by
  unfold State.claim
  dsimp only
  rw [modCores_spad]
  exact spadClears_wf (fun c => spadAddr c g.spadBase) g.spadSize g.cores s w

theorem restoreCore_wf (s : State) (g : Group) (c : Nat) (b : List Byte) (w : Memory.wf s.spad = true) :
    Memory.wf (s.restoreCore g c b).spad = true := by
  unfold State.restoreCore
  dsimp only
  split <;> exact cwf_cwrite 0 s.spad _ _ w

/-- What a partition reset drops from the scratchpads. -/
theorem spadFilter_wf (m : Cells) (p : Host.Cell → Bool) (w : Memory.wf m = true) : Memory.wf (m.filter p) = true :=
  cwfFrom_filter 0 m p 0 w

theorem setColumn_wf (c : Core) (p : Bool) (n : Nat) (d x : List Byte) (w0 : cwf 0 c.plane0 = true) (w1 : cwf 0 c.plane1 = true) :
    cwf 0 (c.setColumn p n d x).plane0 = true ∧ cwf 0 (c.setColumn p n d x).plane1 = true := by
  unfold Core.setColumn
  split
  · exact ⟨w0, cwf_cwrite 0 _ _ _ w1⟩
  · exact ⟨cwf_cwrite 0 _ _ _ w0, w1⟩

theorem setColumn_scales_wf (c : Core) (p : Bool) (n : Nat) (d x : List Byte) (w0 : cwf 0x7F#8 c.scale0 = true)
    (w1 : cwf 0x7F#8 c.scale1 = true) :
    cwf 0x7F#8 (c.setColumn p n d x).scale0 = true ∧ cwf 0x7F#8 (c.setColumn p n d x).scale1 = true := by
  unfold Core.setColumn
  split
  · exact ⟨w0, cwf_cwrite _ _ _ _ w1⟩
  · exact ⟨cwf_cwrite _ _ _ _ w0, w1⟩

/-- The scrubbing of HBM units. -/
theorem scrubUnits_wf (s : State) (p : Part) (w : Memory.wf s.hbm = true) : Memory.wf (s.scrubUnits p).hbm = true := by
  unfold State.scrubUnits
  generalize List.zip (List.range 4) p.units = l
  induction l generalizing s with
  | nil => exact w
  | cons x l ih => exact ih _ (cwf_cclear 0 s.hbm _ _ w)

/-- Flash and the staging area. -/
theorem flashRecord_wf (s : State) (b : List Byte) (w : cwf 0 s.hub.flash = true) : cwf 0 (s.flashRecord b).hub.flash = true :=
  cwf_cwrite 0 _ _ _ w

theorem flashImage_wf (s : State) (b : List Byte) (w : cwf 0 s.hub.flash = true) : cwf 0 (s.flashImage b).hub.flash = true :=
  cwf_cwrite 0 _ _ _ (cwf_cclear 0 _ _ _ w)

theorem stage_wf (s : State) (a : Dword) (b : List Byte) (w : cwf 0 s.hub.staging = true) : cwf 0 (s.stage a b).hub.staging = true :=
  cwf_cwrite 0 _ _ _ w

/-- Reset has the canonical form. -/
theorem reset_wf : Memory.wf State.reset.spad = true ∧ Memory.wf State.reset.hbm = true ∧ mwf State.reset.waves = true ∧
    mwf State.reset.groups = true ∧ mwf State.reset.ctxs = true ∧ mwf State.reset.parts = true := by decide

end Sys2Proof.Machine
end

