-- ==== Sys2Proof/Laws/PerInstr.lean ====
section
/-!
SUPPORT. Sys2Proof/Laws/PerInstr.lean: the family `Coded`, one lemma per constructor: an operation has no words, or as many
words as its literal asks for (R41).
-/

namespace Sys2Proof.Laws.Coded

/-- An operation that is no instruction word, or whose encoding has the length that the program counter passes. -/
def Statement (i : Instr) : Prop := encodeWord i = none ∨ (encode i).length = i.words

theorem words_encode (i : Instr) : Statement i := by
  unfold Statement encode Instr.words
  cases h : encodeWord i with
  | none => exact .inl rfl
  | some w => cases i.literal <;> simp

theorem vadd (k : SatKind) (d : VReg) (a b : VSrc) (h : BitVec 2) : Statement (.vadd k d a b h) := words_encode _
theorem vsub (k : SatKind) (d : VReg) (a b : VSrc) (h : BitVec 2) : Statement (.vsub k d a b h) := words_encode _
theorem vmul (d : VReg) (a b : VSrc) (h : BitVec 2) : Statement (.vmul d a b h) := words_encode _
theorem vmulh (t : Sgn) (d : VReg) (a b : VSrc) (h : BitVec 2) : Statement (.vmulh t d a b h) := words_encode _
theorem vmad (d : VReg) (a b : VSrc) (h : BitVec 2) : Statement (.vmad d a b h) := words_encode _
theorem vmin (t : Sgn) (d : VReg) (a b : VSrc) (h : BitVec 2) : Statement (.vmin t d a b h) := words_encode _
theorem vmax (t : Sgn) (d : VReg) (a b : VSrc) (h : BitVec 2) : Statement (.vmax t d a b h) := words_encode _
theorem vand (d : VReg) (a b : VSrc) (h : BitVec 2) : Statement (.vand d a b h) := words_encode _
theorem vor (d : VReg) (a b : VSrc) (h : BitVec 2) : Statement (.vor d a b h) := words_encode _
theorem vxor (d : VReg) (a b : VSrc) (h : BitVec 2) : Statement (.vxor d a b h) := words_encode _
theorem vshl (d : VReg) (a b : VSrc) (h : BitVec 2) : Statement (.vshl d a b h) := words_encode _
theorem vshr (d : VReg) (a b : VSrc) (h : BitVec 2) : Statement (.vshr d a b h) := words_encode _
theorem vsra (d : VReg) (a b : VSrc) (h : BitVec 2) : Statement (.vsra d a b h) := words_encode _
theorem vnot (d : VReg) (a : VSrc) (h : BitVec 2) : Statement (.vnot d a h) := words_encode _
theorem vpop (d : VReg) (a : VSrc) (h : BitVec 2) : Statement (.vpop d a h) := words_encode _
theorem vclz (d : VReg) (a : VSrc) (h : BitVec 2) : Statement (.vclz d a h) := words_encode _
theorem vmov (d : VReg) (a : VSrc) (h : BitVec 2) : Statement (.vmov d a h) := words_encode _
theorem vabs (float : Bool) (d : VReg) (a : VSrc) (h : BitVec 2) : Statement (.vabs float d a h) := words_encode _
theorem vneg (float : Bool) (d : VReg) (a : VSrc) (h : BitVec 2) : Statement (.vneg float d a h) := words_encode _
theorem vbfe (t : Sgn) (d : VReg) (a b : VSrc) (h : BitVec 2) : Statement (.vbfe t d a b h) := words_encode _
theorem vbfi (d : VReg) (a b : VSrc) (h : BitVec 2) : Statement (.vbfi d a b h) := words_encode _
theorem vclamp (t : CmpTy) (d : VReg) (a b : VSrc) (h : BitVec 2) : Statement (.vclamp t d a b h) := words_encode _
theorem vdot4 (t : Sgn) (d : VReg) (a b : VSrc) (h : BitVec 2) : Statement (.vdot4 t d a b h) := words_encode _
theorem vaddF (t : FTy) (d : VReg) (a b : VSrc) (h : BitVec 2) : Statement (.vaddF t d a b h) := words_encode _
theorem vsubF (t : FTy) (d : VReg) (a b : VSrc) (h : BitVec 2) : Statement (.vsubF t d a b h) := words_encode _
theorem vmulF (t : FTy) (d : VReg) (a b : VSrc) (h : BitVec 2) : Statement (.vmulF t d a b h) := words_encode _
theorem vfma (t : FTy) (d : VReg) (a b : VSrc) (h : BitVec 2) : Statement (.vfma t d a b h) := words_encode _
theorem vminF (t : FTy) (d : VReg) (a b : VSrc) (h : BitVec 2) : Statement (.vminF t d a b h) := words_encode _
theorem vmaxF (t : FTy) (d : VReg) (a b : VSrc) (h : BitVec 2) : Statement (.vmaxF t d a b h) := words_encode _
theorem vcmp (c : CC) (t : CmpTy) (p : SPair) (a b : VSrc) : Statement (.vcmp c t p a b) := words_encode _
theorem vsel (d : VReg) (a : VSrc) (p : SPair) (h : BitVec 2) : Statement (.vsel d a p h) := words_encode _
theorem vmovs (d : VReg) (b : SSrc) (h : BitVec 2) : Statement (.vmovs d b h) := words_encode _
theorem vlane (d : VReg) (a : VSrc) (b : SSrc) (h : BitVec 2) : Statement (.vlane d a b h) := words_encode _
theorem vlrot (d : VReg) (a : VSrc) (b : SSrc) (h : BitVec 2) : Statement (.vlrot d a b h) := words_encode _
theorem vperm (d : VReg) (a b : VSrc) (h : BitVec 2) : Statement (.vperm d a b h) := words_encode _
theorem vshuf (d : VReg) (a b : VSrc) (h : BitVec 2) : Statement (.vshuf d a b h) := words_encode _
theorem vpack (bytes : Bool) (d : VReg) (a b : VSrc) (h : BitVec 2) : Statement (.vpack bytes d a b h) := words_encode _
theorem vunpack (t : Sgn) (d : VReg) (a b : VSrc) (h : BitVec 2) : Statement (.vunpack t d a b h) := words_encode _
theorem vcvt (td ts : CvtTy) (rm : RMode) (d : VReg) (a : VSrc) : Statement (.vcvt td ts rm d a) := words_encode _
theorem vcvtSat (td ts : CvtTy) (rm : RMode) (d : VReg) (a : VSrc) : Statement (.vcvtSat td ts rm d a) := words_encode _
theorem vcvts (td ts : CvtTy) (rm : RMode) (sat : Bool) (d : VReg) (a : SSrc) : Statement (.vcvts td ts rm sat d a) := words_encode _
theorem vrand (float : Bool) (d : VReg) (h : BitVec 2) : Statement (.vrand float d h) := words_encode _
theorem vrcp (t : FTy) (d : VReg) (a : VSrc) (l : BitVec 4) : Statement (.vrcp t d a l) := words_encode _
theorem vrsq (t : FTy) (d : VReg) (a : VSrc) (l : BitVec 4) : Statement (.vrsq t d a l) := words_encode _
theorem vsqrt (t : FTy) (d : VReg) (a : VSrc) (l : BitVec 4) : Statement (.vsqrt t d a l) := words_encode _
theorem vlog2 (t : FTy) (d : VReg) (a : VSrc) (l : BitVec 4) : Statement (.vlog2 t d a l) := words_encode _
theorem vsin (t : FTy) (d : VReg) (a : VSrc) (l : BitVec 4) : Statement (.vsin t d a l) := words_encode _
theorem vcos (t : FTy) (d : VReg) (a : VSrc) (l : BitVec 4) : Statement (.vcos t d a l) := words_encode _
theorem vtanh (t : FTy) (d : VReg) (a : VSrc) (l : BitVec 4) : Statement (.vtanh t d a l) := words_encode _
theorem vexp2s (d : VReg) (m : XSrc) (c : SSrc) (l : BitVec 4) : Statement (.vexp2s d m c l) := words_encode _
theorem vredadd (t : CmpTy) (d : SReg) (a : VSrc) (l : BitVec 4) : Statement (.vredadd t d a l) := words_encode _
theorem vredmin (t : CmpTy) (d : SReg) (a : VSrc) (l : BitVec 4) : Statement (.vredmin t d a l) := words_encode _
theorem vredmax (t : CmpTy) (d : SReg) (a : VSrc) (l : BitVec 4) : Statement (.vredmax t d a l) := words_encode _
theorem vargmin (t : CmpTy) (d : SReg) (a : VSrc) (l : BitVec 4) : Statement (.vargmin t d a l) := words_encode _
theorem vargmax (t : CmpTy) (d : SReg) (a : VSrc) (l : BitVec 4) : Statement (.vargmax t d a l) := words_encode _
theorem vscan (f : ScanFn) (t : CmpTy) (d : VReg) (a : VSrc) (l : BitVec 4) : Statement (.vscan f t d a l) := words_encode _
theorem vcompress (d : VReg) (a : VSrc) (sd : SReg) (l : BitVec 4) : Statement (.vcompress d a sd l) := words_encode _
theorem vexpand (d : VReg) (a : VSrc) (sd : SReg) (l : BitVec 4) : Statement (.vexpand d a sd l) := words_encode _
theorem lds (z : MSize) (o : Ord) (c : Scope) (d : VReg) (a : VSrc) (l : BitVec 4) : Statement (.lds z o c d a l) := words_encode _
theorem sts (z : MSize) (o : Ord) (c : Scope) (d : VSrc) (a : VSrc) (h : BitVec 2) : Statement (.sts z o c d a h) := words_encode _
theorem ldw (z : MSize) (o : Ord) (c : Scope) (d : VReg) (a : VSrc) (l : BitVec 4) : Statement (.ldw z o c d a l) := words_encode _
theorem stw (z : MSize) (o : Ord) (c : Scope) (d : VSrc) (a : VSrc) (h : BitVec 2) : Statement (.stw z o c d a h) := words_encode _
theorem ldsu (z : MSize) (o : Ord) (c : Scope) (d : VReg) (a : SSrc) (l : BitVec 4) : Statement (.ldsu z o c d a l) := words_encode _
theorem ldres (o : Ord) (c : Scope) (d : VReg) (a : VSrc) (l : BitVec 4) : Statement (.ldres o c d a l) := words_encode _
theorem stcond (o : Ord) (c : Scope) (p : SPair) (s : VSrc) (a : VSrc) : Statement (.stcond o c p s a) := words_encode _
theorem ats (op : AtomOp) (o : Ord) (c : Scope) (b : VReg) (a : VSrc) (l : BitVec 4) : Statement (.ats op o c b a l) := words_encode _
theorem atw (op : AtomOp) (o : Ord) (c : Scope) (b : VReg) (a : VSrc) (l : BitVec 4) : Statement (.atw op o c b a l) := words_encode _
theorem bcopy (a : VReg) (b : VSrc) (nt : Bool) : Statement (.bcopy a b nt) := words_encode _
theorem bcopyp (a : VReg) (b : VSrc) (peal : BitVec 6) : Statement (.bcopyp a b peal) := words_encode _
theorem gather (z : GSize) (a : VReg) (b : VSrc) : Statement (.gather z a b) := words_encode _
theorem scatter (z : GSize) (nt : Bool) (a : VReg) (b : VSrc) : Statement (.scatter z nt a b) := words_encode _
theorem gatom (op : AtomOp) (o : Ord) (c : Scope) (ret w64 : Bool) (a : VReg) (b : VSrc) : Statement (.gatom op o c ret w64 a b) := words_encode _
theorem mstream (f : MFmt) (z : Bool) (d : VReg) (a : SSrc) (l : BitVec 4) : Statement (.mstream f z d a l) := words_encode _
theorem mstreamc (f : MFmt) (z : Bool) (d : VReg) (a : SSrc) (l : BitVec 4) : Statement (.mstreamc f z d a l) := words_encode _
theorem mzeroacc (d : VReg) (l : BitVec 4) : Statement (.mzeroacc d l) := words_encode _
theorem sadd (k : SatKind) (d : SReg) (a b : SSrc) : Statement (.sadd k d a b) := words_encode _
theorem ssub (k : SatKind) (d : SReg) (a b : SSrc) : Statement (.ssub k d a b) := words_encode _
theorem smul (d : SReg) (a b : SSrc) : Statement (.smul d a b) := words_encode _
theorem smulh (t : Sgn) (d : SReg) (a b : SSrc) : Statement (.smulh t d a b) := words_encode _
theorem smad (d : SReg) (a b : SSrc) : Statement (.smad d a b) := words_encode _
theorem sand (d : SReg) (a b : SSrc) : Statement (.sand d a b) := words_encode _
theorem sor (d : SReg) (a b : SSrc) : Statement (.sor d a b) := words_encode _
theorem sxor (d : SReg) (a b : SSrc) : Statement (.sxor d a b) := words_encode _
theorem sshl (d : SReg) (a b : SSrc) : Statement (.sshl d a b) := words_encode _
theorem sshr (d : SReg) (a b : SSrc) : Statement (.sshr d a b) := words_encode _
theorem ssra (d : SReg) (a b : SSrc) : Statement (.ssra d a b) := words_encode _
theorem smin (t : Sgn) (d : SReg) (a b : SSrc) : Statement (.smin t d a b) := words_encode _
theorem smax (t : Sgn) (d : SReg) (a b : SSrc) : Statement (.smax t d a b) := words_encode _
theorem scmp (c : CC) (t : Sgn) (d : SPair) (a b : SSrc) : Statement (.scmp c t d a b) := words_encode _
theorem ssel (d : SReg) (a b c : SSrc) : Statement (.ssel d a b c) := words_encode _
theorem smov (d : SReg) (a : SSrc) : Statement (.smov d a) := words_encode _
theorem sclz (d : SReg) (a : SSrc) : Statement (.sclz d a) := words_encode _
theorem spop (d : SReg) (a : SSrc) : Statement (.spop d a) := words_encode _
theorem slit (d : SReg) (imm : BitVec 19) : Statement (.slit d imm) := words_encode _
theorem saddc (d a b : SPair) : Statement (.saddc d a b) := words_encode _
theorem slea (t : Sgn) (sh : BitVec 3) (d a : SPair) (b : SSrc) : Statement (.slea t sh d a b) := words_encode _
theorem sbfe (t : Sgn) (w : Nat) (p : BitVec 5) (d : SReg) (a : SSrc) : Statement (.sbfe t w p d a) := words_encode _
theorem sbfi (w : Nat) (p : BitVec 5) (d : SReg) (a : SSrc) : Statement (.sbfi w p d a) := words_encode _
theorem sld (d : SReg) (a : SSrc) (imm : BitVec 13) : Statement (.sld d a imm) := words_encode _
theorem sst (d : SSrc) (a : SSrc) (imm : BitVec 13) : Statement (.sst d a imm) := words_encode _
theorem sget (d : SReg) (n : BitVec 12) : Statement (.sget d n) := words_encode _
theorem sset (a : SSrc) (n : BitVec 12) : Statement (.sset a n) := words_encode _
theorem sreadl (d : SReg) (a : VSrc) (b : SSrc) : Statement (.sreadl d a b) := words_encode _
theorem mand (d a b : SPair) : Statement (.mand d a b) := words_encode _
theorem mor (d a b : SPair) : Statement (.mor d a b) := words_encode _
theorem mxor (d a b : SPair) : Statement (.mxor d a b) := words_encode _
theorem mandn (d a b : SPair) : Statement (.mandn d a b) := words_encode _
theorem mnot (d a : SPair) : Statement (.mnot d a) := words_encode _
theorem mpop (d : SReg) (a : SPair) : Statement (.mpop d a) := words_encode _
theorem mfirst (d : SReg) (a : SPair) : Statement (.mfirst d a) := words_encode _
theorem msetx (d a : SPair) : Statement (.msetx d a) := words_encode _
theorem br (off : BitVec 25) : Statement (.br off) := words_encode _
theorem brc (t : BrTest) (off : BitVec 16) : Statement (.brc t off) := words_encode _
theorem brd (p : SPair) (off : BitVec 18) (joff : Word) : Statement (.brd p off joff) := words_encode _
theorem brdn (p : SPair) (off : BitVec 18) (joff : Word) : Statement (.brdn p off joff) := words_encode _
theorem call (dem : Nat) (off : BitVec 21) : Statement (.call dem off) := words_encode _
theorem calli (dem : Nat) (a : SSrc) : Statement (.calli dem a) := words_encode _
theorem nop : Statement (.nop) := words_encode _
theorem join : Statement (.join) := words_encode _
theorem exit : Statement (.exit) := words_encode _
theorem ret : Statement (.ret) := words_encode _
theorem unwind : Statement (.unwind) := words_encode _
theorem umark : Statement (.umark) := words_encode _
theorem yield : Statement (.yield) := words_encode _
theorem sleepc (n : BitVec 20) : Statement (.sleepc n) := words_encode _
theorem trap (n : BitVec 20) : Statement (.trap n) := words_encode _
theorem brkpt (n : BitVec 20) : Statement (.brkpt n) := words_encode _
theorem haltw : Statement (.haltw) := words_encode _
theorem waitcnt (c : Cls) (n : BitVec 10) : Statement (.waitcnt c n) := words_encode _
theorem drain (c : Scope) : Statement (.drain c) := words_encode _
theorem fence (o : Ord) (c : Scope) : Statement (.fence o c) := words_encode _
theorem waitaddr (k : WCond) (c : Scope) (d : SReg) (a : SPair) (b : SSrc) : Statement (.waitaddr k c d a b) := words_encode _
theorem gchunk (d a : SPair) : Statement (.gchunk d a) := words_encode _
theorem coll (k : CollKind) (a : SPair) (b : SSrc) : Statement (.coll k a b) := words_encode _
theorem pealjoin (d : SReg) (a : SSrc) : Statement (.pealjoin d a) := words_encode _
theorem pealleave (d : SReg) (a : SSrc) : Statement (.pealleave d a) := words_encode _
theorem pealq (d : SReg) (a : SSrc) : Statement (.pealq d a) := words_encode _
theorem winsel (d : SReg) (a : SSrc) : Statement (.winsel d a) := words_encode _
theorem mloadw (f : MFmt) (a b : SSrc) : Statement (.mloadw f a b) := words_encode _
theorem mswap : Statement (.mswap) := words_encode _
theorem mscale (n : BitVec 2) (d : SReg) (a : SSrc) : Statement (.mscale n d a) := words_encode _
theorem mqry (q : MQuery) (d : SReg) : Statement (.mqry q d) := words_encode _
theorem barinit (a : SSrc) (b : SPair) : Statement (.barinit a b) := words_encode _
theorem bararr (d : SReg) (a b : SSrc) : Statement (.bararr d a b) := words_encode _
theorem barwait (d : SReg) (a b : SSrc) : Statement (.barwait d a b) := words_encode _
theorem bararw (d : SReg) (a b : SSrc) : Statement (.bararw d a b) := words_encode _
theorem sempost (d : SReg) (a b : SSrc) : Statement (.sempost d a b) := words_encode _
theorem semacq (d : SReg) (a b : SSrc) : Statement (.semacq d a b) := words_encode _
theorem semtry (d : SReg) (a b : SSrc) : Statement (.semtry d a b) := words_encode _
theorem enq (d : SReg) (a : SPair) (b : SSrc) : Statement (.enq d a b) := words_encode _
theorem enqn (d : SReg) (a : SPair) (b : SSrc) : Statement (.enqn d a b) := words_encode _
theorem taskend : Statement (.taskend) := words_encode _
theorem launch (d : SReg) (a : SPair) (b : SSrc) : Statement (.launch d a b) := words_encode _
theorem cancel (u : WorkUnit) : Statement (.cancel u) := words_encode _
theorem cntrd (d : SReg) (u : WorkUnit) : Statement (.cntrd d u) := words_encode _
theorem setpri (d : SReg) (a b : SSrc) : Statement (.setpri d a b) := words_encode _
theorem chimemark (d : SReg) (a : SSrc) : Statement (.chimemark d a) := words_encode _
theorem chimechk (d : SReg) (a : SPair) : Statement (.chimechk d a) := words_encode _
theorem ctxq (d : SReg) (q : Nat) : Statement (.ctxq d q) := words_encode _
theorem deliveredTrap (wave : Nat) : Statement (.deliveredTrap wave) := words_encode _
theorem fairnessRotation (wave : Nat) : Statement (.fairnessRotation wave) := words_encode _
theorem sleepcWake (wave slot : Nat) : Statement (.sleepcWake wave slot) := words_encode _
theorem waitaddrEvaluation (wave slot : Nat) : Statement (.waitaddrEvaluation wave slot) := words_encode _
theorem frameGrant (core : Nat) : Statement (.frameGrant core) := words_encode _
theorem escapeSpill (core : Nat) : Statement (.escapeSpill core) := words_encode _
theorem spillCopyDone (core : Nat) : Statement (.spillCopyDone core) := words_encode _
theorem frameRestoreDone (core : Nat) : Statement (.frameRestoreDone core) := words_encode _
theorem copyElement (op elem : Nat) : Statement (.copyElement op elem) := words_encode _
theorem bcopyComplete (op : Nat) : Statement (.bcopyComplete op) := words_encode _
theorem gatherComplete (op : Nat) : Statement (.gatherComplete op) := words_encode _
theorem gatomComplete (op : Nat) : Statement (.gatomComplete op) := words_encode _
theorem gchunkServe (op : Nat) : Statement (.gchunkServe op) := words_encode _
theorem pealRequest (op line : Nat) : Statement (.pealRequest op line) := words_encode _
theorem pealHoldTimeout (hold : Nat) : Statement (.pealHoldTimeout hold) := words_encode _
theorem multicastResidual (n : Nat) : Statement (.multicastResidual n) := words_encode _
theorem mloadwReadsBegin (op : Nat) : Statement (.mloadwReadsBegin op) := words_encode _
theorem mloadwFinish (op : Nat) : Statement (.mloadwFinish op) := words_encode _
theorem mstreamStart (op : Nat) : Statement (.mstreamStart op) := words_encode _
theorem mstreamFinish (op : Nat) : Statement (.mstreamFinish op) := words_encode _
theorem chainStreamArrival (core : Nat) : Statement (.chainStreamArrival core) := words_encode _
theorem collComplete (op : Nat) : Statement (.collComplete op) := words_encode _
theorem collDeadline (coll : Nat) : Statement (.collDeadline coll) := words_encode _
theorem chimechkPhaseReady (op : Nat) : Statement (.chimechkPhaseReady op) := words_encode _
theorem chimechkReexecutionDone (op : Nat) : Statement (.chimechkReexecutionDone op) := words_encode _
theorem watchExpired (n : Nat) : Statement (.watchExpired n) := words_encode _
theorem waveStart (wave : Nat) : Statement (.waveStart wave) := words_encode _
theorem waveRetire (wave : Nat) : Statement (.waveRetire wave) := words_encode _
theorem binTimerExpiry (run node : Nat) : Statement (.binTimerExpiry run node) := words_encode _
theorem groupDispatch (part : Nat) : Statement (.groupDispatch part) := words_encode _
theorem queueAging (ctx queue : Nat) : Statement (.queueAging ctx queue) := words_encode _
theorem queueReserving (ctx queue : Nat) : Statement (.queueReserving ctx queue) := words_encode _
theorem preemptionRequest (group : Nat) : Statement (.preemptionRequest group) := words_encode _
theorem preemptDrainComplete (group : Nat) : Statement (.preemptDrainComplete group) := words_encode _
theorem groupRestore (group : Nat) : Statement (.groupRestore group) := words_encode _
theorem ringTailWrite (ctx queue : Nat) : Statement (.ringTailWrite ctx queue) := words_encode _
theorem ringNop (src : RingSrc) : Statement (.ringNop src) := words_encode _
theorem launchGraph (src : RingSrc) (cmd : LaunchCmd) : Statement (.launchGraph src cmd) := words_encode _
theorem thawBin (src : RingSrc) (run : Word) (node : Nat) (retry : Bool) : Statement (.thawBin src run node retry) := words_encode _
theorem groupResume (src : RingSrc) (group : Word) (skip : Bool) : Statement (.groupResume src group skip) := words_encode _
theorem groupDiscard (src : RingSrc) (group : Word) : Statement (.groupDiscard src group) := words_encode _
theorem faultResume (src : RingSrc) (page : Dword) (all : Bool) : Statement (.faultResume src page all) := words_encode _
theorem preempt (src : RingSrc) (group : Word) : Statement (.preempt src group) := words_encode _
theorem ctxCreate (src : CtlSrc) (desc : Dword) : Statement (.ctxCreate src desc) := words_encode _
theorem ctxDestroy (src : CtlSrc) (ctx : Nat) : Statement (.ctxDestroy src ctx) := words_encode _
theorem tlbInval (src : CtlSrc) (ctx : Nat) (vpn : BitVec 40) (pages : Nat) (flush : Bool) : Statement (.tlbInval src ctx vpn pages flush) := words_encode _
theorem invalidationComplete (n : Nat) : Statement (.invalidationComplete n) := words_encode _
theorem windowSet (src : CtlSrc) (ctx sel : Nat) (entry : Dword) : Statement (.windowSet src ctx sel entry) := words_encode _
theorem windowAccept (src : CtlSrc) (ctx srcDev srcCtx sel : Nat) : Statement (.windowAccept src ctx srcDev srcCtx sel) := words_encode _
theorem windowRetire (src : CtlSrc) (ctx srcDev srcCtx sel : Nat) : Statement (.windowRetire src ctx srcDev srcCtx sel) := words_encode _
theorem hostwinSet (src : CtlSrc) (ctx idx : Nat) (entry : Dword) : Statement (.hostwinSet src ctx idx entry) := words_encode _
theorem qpSet (src : CtlSrc) (qp : Nat) (bind : Bool) (ctx : Nat) (attr : Dword) : Statement (.qpSet src qp bind ctx attr) := words_encode _
theorem notifySet (src : CtlSrc) (ctx : Nat) (ring : Dword) (log2 qp : Nat) : Statement (.notifySet src ctx ring log2 qp) := words_encode _
theorem commSet (src : CtlSrc) (comm : Nat) (list : Dword) (ranks : Nat) : Statement (.commSet src comm list ranks) := words_encode _
theorem traceRead (src : CtlSrc) (first count : Nat) (buf : Dword) : Statement (.traceRead src first count buf) := words_encode _
theorem knell (src : CtlSrc) (scope ctx : Nat) (buf : Dword) (entries : Nat) : Statement (.knell src scope ctx buf entries) := words_encode _
theorem watchSet (src : CtlSrc) (ctx : Nat) (barrier frame coll : Word) : Statement (.watchSet src ctx barrier frame coll) := words_encode _
theorem energyRead (src : CtlSrc) (ctx : Nat) (buf : Dword) : Statement (.energyRead src ctx buf) := words_encode _
theorem quote (src : CtlSrc) (nonce buf : Dword) : Statement (.quote src nonce buf) := words_encode _
theorem partSet (src : CtlSrc) (part : Nat) (record : Dword) : Statement (.partSet src part record) := words_encode _
theorem partReset (src : CtlSrc) (part : Nat) : Statement (.partReset src part) := words_encode _
theorem partResetEnginesEnded (part : Nat) : Statement (.partResetEnginesEnded part) := words_encode _
theorem partDestroy (src : CtlSrc) (part : Nat) : Statement (.partDestroy src part) := words_encode _
theorem routeSet (src : CtlSrc) (dst : Nat) (ports : Dword) : Statement (.routeSet src dst ports) := words_encode _
theorem configWrite (src : CtlSrc) (record : Dword) : Statement (.configWrite src record) := words_encode _
theorem firmwareWrite (src : CtlSrc) (image : Dword) (bytes : Nat) : Statement (.firmwareWrite src image bytes) := words_encode _
theorem endToEndTimeout (n : Nat) : Statement (.endToEndTimeout n) := words_encode _
theorem leaseNotice (home die : Nat) : Statement (.leaseNotice home die) := words_encode _
theorem leaseSnapshot (die : Nat) : Statement (.leaseSnapshot die) := words_encode _
theorem hashWindowEnd (chan : Nat) : Statement (.hashWindowEnd chan) := words_encode _
theorem rowGroupMigration (chan : Nat) : Statement (.rowGroupMigration chan) := words_encode _
theorem traceStoreFreeze : Statement (.traceStoreFreeze) := words_encode _
theorem illegalInstructionWord (c : Cause) : Statement (.illegalInstructionWord c) := words_encode _
theorem codeFetchFault (f : FetchFault) : Statement (.codeFetchFault f) := words_encode _
theorem mzeroaccComplete (op : Nat) : Statement (.mzeroaccComplete op) := words_encode _
theorem ackTimeout (q : QpRef) : Statement (.ackTimeout q) := words_encode _
theorem rnrTimerExpiry (q : QpRef) : Statement (.rnrTimerExpiry q) := words_encode _
theorem retireComplete (n : Nat) : Statement (.retireComplete n) := words_encode _
theorem fabricWrite (port : Nat) (p : Packet) : Statement (.fabricWrite port p) := words_encode _
theorem fabricReadRequest (port : Nat) (p : Packet) : Statement (.fabricReadRequest port p) := words_encode _
theorem fabricReadResponse (port : Nat) (p : Packet) : Statement (.fabricReadResponse port p) := words_encode _
theorem fabricAtomicRequest (port : Nat) (p : Packet) : Statement (.fabricAtomicRequest port p) := words_encode _
theorem fabricAtomicResponse (port : Nat) (p : Packet) : Statement (.fabricAtomicResponse port p) := words_encode _
theorem fabricAcknowledgement (port : Nat) (p : Packet) : Statement (.fabricAcknowledgement port p) := words_encode _
theorem retireNack (port : Nat) (p : Packet) : Statement (.retireNack port p) := words_encode _
theorem errorNack (port : Nat) (p : Packet) : Statement (.errorNack port p) := words_encode _
theorem collectiveSequencerPacket (port : Nat) (p : Packet) (m : SeqMsg) : Statement (.collectiveSequencerPacket port p m) := words_encode _
theorem retireNotice (dev ctx sel gen : Nat) : Statement (.retireNotice dev ctx sel gen) := words_encode _
theorem beatCrcFail (port : Nat) (beat : BadBeat) : Statement (.beatCrcFail port beat) := words_encode _
theorem retrainEnd (port : Nat) (up : Bool) (peerDev peerPort : Nat) : Statement (.retrainEnd port up peerDev peerPort) := words_encode _
theorem dieLinkFlitReplay (die gateway : Nat) (beat : Word) : Statement (.dieLinkFlitReplay die gateway beat) := words_encode _
theorem rdmaWrite (q : QpRef) (rkey : Word) (va : Dword) (data : List Byte) : Statement (.rdmaWrite q rkey va data) := words_encode _
theorem rdmaRead (q : QpRef) (rkey : Word) (va : Dword) (len : Nat) : Statement (.rdmaRead q rkey va len) := words_encode _
theorem rdmaWriteWithImmediate (q : QpRef) (rkey : Word) (va : Dword) (data : List Byte) (imm : Word) : Statement (.rdmaWriteWithImmediate q rkey va data imm) := words_encode _
theorem atomicFetchAdd (q : QpRef) (rkey : Word) (va addend : Dword) : Statement (.atomicFetchAdd q rkey va addend) := words_encode _
theorem hostRdmaResponse (n : Nat) (a : HostAnswer) (data : List Byte) : Statement (.hostRdmaResponse n a data) := words_encode _
theorem remoteRead (die ctx : Nat) (va : BitVec 53) : Statement (.remoteRead die ctx va) := words_encode _
theorem homeWrite (ctx : Nat) (va : BitVec 53) (data : List Byte) : Statement (.homeWrite ctx va data) := words_encode _
theorem layerTempSample (stack layer : Nat) (deg : Int) : Statement (.layerTempSample stack layer deg) := words_encode _
theorem bankRefresh (chan bank : Nat) : Statement (.bankRefresh chan bank) := words_encode _
theorem rowPrecharge (chan bank row : Nat) : Statement (.rowPrecharge chan bank row) := words_encode _
theorem patrolScrub (chan line : Nat) (e : LineError) : Statement (.patrolScrub chan line e) := words_encode _
theorem energyInterval (rail : Nat) : Statement (.energyInterval rail) := words_encode _
theorem clockLimiting (power : Nat) (hotspot : Int) : Statement (.clockLimiting power hotspot) := words_encode _
theorem ptpSyncMessage (offset : Int) : Statement (.ptpSyncMessage offset) := words_encode _
theorem syncLoss : Statement (.syncLoss) := words_encode _
theorem traceUnfreeze : Statement (.traceUnfreeze) := words_encode _
theorem trWpLoRead : Statement (.trWpLoRead) := words_encode _
theorem ltLoRead (die : Nat) : Statement (.ltLoRead die) := words_encode _
theorem tocsinCauseClear (causes : BitVec 5) : Statement (.tocsinCauseClear causes) := words_encode _
theorem registerWrite (off : Nat) (value : Word) : Statement (.registerWrite off value) := words_encode _
theorem tocsinAlarm (a : Alarm) : Statement (.tocsinAlarm a) := words_encode _
theorem coldReset : Statement (.coldReset) := words_encode _
theorem warmReset : Statement (.warmReset) := words_encode _
theorem loaderImmediate (imm : Word) : Statement (.loaderImmediate imm) := words_encode _
theorem thermalStop : Statement (.thermalStop) := words_encode _
theorem connectionRequest (q : QpRef) (peer : BitVec 128) : Statement (.connectionRequest q peer) := words_encode _
theorem unsupportedRdmaRequest (q : QpRef) : Statement (.unsupportedRdmaRequest q) := words_encode _
theorem reservedKindPacket (port : Nat) : Statement (.reservedKindPacket port) := words_encode _

end Sys2Proof.Laws.Coded
end

