-- ==== Sys2Proof/Tests/Slice0.lean ====
section
/-!
SUPPORT. Sys2Proof/Tests/Slice0.lean: ill-formed terms for each check, an instruction word of every constructor written out bit by
bit from the spec's formats and maps (R49, R50, R56, R57), single steps, and a witness for every statement with hypotheses.
-/

namespace Sys2Proof.Tests
open Sys2Proof.Machine Sys2Proof.Stated
-- One theorem after the other: checked side by side they need too much memory for their threads' stacks.
set_option Elab.async false

/-- A vector source register. -/
def rv (n : Nat) : VSrc := .reg (.v n)
/-- A scalar source register. -/
def rs (n : Nat) : SSrc := .reg n

/-! ## Small states -/

/-- A wave of 64 lanes with 15 blocks in focus, alone in its group of context 1; addresses are hashed with key 0. -/
def s0 : State :=
  { State.reset with wave := fetchWave 7 5, grp := fetchGroup 5, ctxs := [(1, fetchCtx)], names := 10, homeKey := 0 }
/-- The issuing slot changed. -/
def withSlot (f : Slot → Slot) : State := s0.setSlot (f s0.slot)
/-- A scalar register set. -/
def withS (l : List (Nat × Word)) : State := l.foldl (fun s p => s.sset p.1 p.2) s0
/-- A vector register with the given low lanes, the others 0. -/
def withV (s : State) (r : VReg) (l : List Word) : State := s.vput allLanes r (lanesFn (fun k => l.getD k 0))
/-- Lanes 0 to n - 1 active. -/
def withLanes (s : State) (m : Dword) : State := s.setSlot { s.slot with mask := m }

/-- `Clear` as a computation. -/
def clearB (s : State) (i : Instr) : Bool :=
  !s.featureAbsent i && opInFrame i.operands s.frame.blocks &&
    (touched i s.frameKey).all (fun r => decide (r ∉ s.pendingRegs) && decide (r ∉ s.windowRegs)) && !s.heldBack i

theorem clear_of {s : State} {i : Instr} (h : clearB s i = true) : Clear s i := by
  simp only [clearB, Bool.and_eq_true, Bool.not_eq_true', List.all_eq_true, decide_eq_true_eq] at h
  exact ⟨h.1.1.1, h.1.1.2, fun r hr => (h.1.2 r hr).1, fun r hr => (h.1.2 r hr).2, h.2⟩

/-- The next state meets a check. -/
def then_ (o : Out) (p : State → Bool) : Bool := match o with | .next t => p t | .fault _ | .refused _ => false
/-- The next state of exec, as a check. -/
def ends (i : Instr) (s : State) (p : State → Bool) : Bool := then_ (exec i s) p
/-- Why exec turned an event away. -/
def refusal (i : Instr) (s : State) : Option String :=
  match exec i s with | .refused (.notEnabled n) => some n | .refused _ | .fault _ | .next _ => none
/-- A scalar register of the next state. -/
def sees (n : Nat) (x : Word) (t : State) : Bool := t.sget n == x

/-! ## Well-formedness: what each check refuses -/

theorem test_wf_plain : (Instr.vadd .wrap (.v 1) (rv 2) (.lit 5) 0).wf = true := by decide
/-- R44: codes 120 to 126 are argument registers, so no v120. -/
theorem test_wf_vector_code : (Instr.vadd .wrap (.v 120) (rv 2) (rv 3) 0).wf = false := by decide
theorem test_wf_argument_code : (Instr.vadd .wrap (.v 1) (.reg (.a 7)) (rv 3) 0).wf = false := by decide
/-- R45: an odd pair code, and R58: the literal code in a destination. -/
theorem test_wf_odd_pair : (Instr.mand 3 2 4).wf = false := by decide
theorem test_wf_scalar_code : (Instr.smov 63 (rs 1)).wf = false := by decide
/-- R46: a range that is not aligned, and one that leaves its file. -/
theorem test_wf_range : (Instr.lds .b64 .rlx .wave (.v 3) (rv 1) 0).wf = false := by decide
theorem test_wf_range_end : (Instr.lds .b128 .rlx .wave (.a 4) (rv 1) 0).wf = false := by decide
/-- R41: one literal word for all fields. -/
theorem test_wf_two_literals : (Instr.sadd .wrap 1 (.lit 1) (.lit 2)).wf = false := by decide
/-- R48: a relaxed access names the lowest scope. -/
theorem test_wf_order : (Instr.lds .b32 .rlx .group (.v 3) (rv 1) 0).wf = false := by decide
/-- R51: DEM = 0, R109: WIDTH above 32, R116: SD = 56, R304: codes 9 to 127. -/
theorem test_wf_demand : (Instr.call 0 0).wf = false := by decide
theorem test_wf_width : (Instr.sbfe .n 33 0 1 (rs 2)).wf = false := by decide
theorem test_wf_msetx : (Instr.msetx 56 2).wf = false := by decide
theorem test_wf_ctxq : (Instr.ctxq 1 9).wf = false := by decide
/-- R160: TD = TS is not assigned; R107: unordered conditions are for floats. -/
theorem test_wf_convert : (Instr.vcvt .f32 .f32 .rne (.v 1) (rv 2)).wf = false := by decide
theorem test_wf_condition : (Instr.vcmp .uo .s32 0 (rv 1) (rv 2)).wf = false := by decide

/-! ## Decoding: a word of every constructor -/

/-- Lane arithmetic, formats VR and VRS. -/
theorem test_decode_lane_integer : ∀ p ∈ [
    (0b0_000000_0000001_0000010_1111000_01_10, Instr.vadd .n32sat (.v 1) (rv 2) (.reg (.a 0)) 1),
    (0b0_000001_0000101_0000110_0000111_11_01, .vsub .s32sat (.v 5) (rv 6) (rv 7) 3),
    (0b0_000010_1110111_0000010_0000011_00_00, .vmul (.v 119) (rv 2) (rv 3) 0),
    (0b0_000010_0000001_0000010_0000011_10_10, .vmulh .n (.v 1) (rv 2) (rv 3) 2),
    (0b0_000011_0000001_0000010_0000011_00_00, .vmad (.v 1) (rv 2) (rv 3) 0),
    (0b0_000100_0000001_0000010_0000011_00_01, .vmin .n (.v 1) (rv 2) (rv 3) 0),
    (0b0_000100_0000001_0000010_0000011_00_10, .vmax .s (.v 1) (rv 2) (rv 3) 0),
    (0b0_000101_0000001_0000010_0000011_00_00, .vand (.v 1) (rv 2) (rv 3) 0),
    (0b0_000101_0000001_0000010_0000011_00_01, .vor (.v 1) (rv 2) (rv 3) 0),
    (0b0_000101_0000001_0000010_0000011_00_10, .vxor (.v 1) (rv 2) (rv 3) 0),
    (0b0_000110_0000001_0000010_0000011_00_00, .vshl (.v 1) (rv 2) (rv 3) 0),
    (0b0_000110_0000001_0000010_0000011_00_01, .vshr (.v 1) (rv 2) (rv 3) 0),
    (0b0_000110_0000001_0000010_0000011_00_10, .vsra (.v 1) (rv 2) (rv 3) 0),
    (0b0_000111_0000001_0000010_0000000_00_00, .vnot (.v 1) (rv 2) 0),
    (0b0_000111_0000001_0000010_0000000_01_01, .vpop (.v 1) (rv 2) 1),
    (0b0_000111_0000001_0000010_0000000_00_10, .vclz (.v 1) (rv 2) 0),
    (0b0_000111_0000001_0000010_0000000_00_11, .vmov (.v 1) (rv 2) 0),
    (0b0_001000_0000001_0000010_0000000_00_01, .vabs true (.v 1) (rv 2) 0),
    (0b0_001000_0000001_0000010_0000000_00_10, .vneg false (.v 1) (rv 2) 0),
    (0b0_001001_0000001_0000010_0000011_00_01, .vbfe .s (.v 1) (rv 2) (rv 3) 0),
    (0b0_001001_0000001_0000010_0000011_00_10, .vbfi (.v 1) (rv 2) (rv 3) 0),
    (0b0_001010_0000001_0000010_0000011_00_10, .vclamp .f32 (.v 1) (rv 2) (rv 3) 0),
    (0b0_001011_0000001_0000010_0000011_00_01, .vdot4 .n (.v 1) (rv 2) (rv 3) 0),
    (0b0_010101_0000001_0000010_0000011_00_01, .vpack true (.v 1) (rv 2) (rv 3) 0),
    (0b0_010101_0000001_0000010_0000011_00_11, .vunpack .s (.v 1) (rv 2) (rv 3) 0)],
    decodeTableWord 32 p.1 = some p.2 := by decide

/-- Float lane arithmetic, comparison, moves, formats VR, VP and VRS. -/
theorem test_decode_lane_float : ∀ p ∈ [
    (0b0_001100_0000001_0000010_0000011_00_01, Instr.vaddF .f16 (.v 1) (rv 2) (rv 3) 0),
    (0b0_001101_0000001_0000010_0000011_00_00, .vsubF .f32 (.v 1) (rv 2) (rv 3) 0),
    (0b0_001110_0000001_0000010_0000011_00_10, .vmulF .bf16 (.v 1) (rv 2) (rv 3) 0),
    (0b0_001111_0000001_0000010_0000011_00_00, .vfma .f32 (.v 1) (rv 2) (rv 3) 0),
    (0b0_010000_0000001_0000010_0000011_00_01, .vminF .f16 (.v 1) (rv 2) (rv 3) 0),
    (0b0_010001_0000001_0000010_0000011_00_00, .vmaxF .f32 (.v 1) (rv 2) (rv 3) 0),
    (0b0_010010_001010_110_10_0000001_0000010, .vcmp .uo .f32 10 (rv 1) (rv 2)),
    (0b0_010011_0000001_0000010_001100_0_01_00, .vsel (.v 1) (rv 2) 12 1),
    (0b0_010011_0000001_0000000_001101_0_00_01, .vmovs (.v 1) (rs 13) 0),
    (0b0_010011_0000001_0000010_001101_0_00_10, .vlane (.v 1) (rv 2) (rs 13) 0),
    (0b0_010011_0000001_0000010_001101_0_00_11, .vlrot (.v 1) (rv 2) (rs 13) 0),
    (0b0_010100_0000001_0000010_0000011_00_00, .vperm (.v 1) (rv 2) (rv 3) 0),
    (0b0_010100_0000001_0000010_0000011_00_01, .vshuf (.v 1) (rv 2) (rv 3) 0)],
    decodeTableWord 32 p.1 = some p.2 := by decide

/-- Conversions, special functions, reductions and scans, formats VC, VCS, VL, VX, VLS and VLQ. -/
theorem test_decode_lane_long : ∀ p ∈ [
    (0b0_010110_0000001_0000010_1001_0110_001, Instr.vcvt .e4m3 .f32 .rtz (.v 1) (rv 2)),
    (0b0_010111_0000001_0000010_0011_0110_110, .vcvtSat .n16 .f32 .rst (.v 1) (rv 2)),
    (0b0_011000_0000001_000101_0111_0000_000_1, .vcvts .f16 .s32 .rne true (.v 1) (rs 5)),
    (0b0_011001_0000001_0000000_0000000_00_01, .vrand true (.v 1) 0),
    (0b0_011010_0000001_0000010_000_00_00_0101, .vrcp .f32 (.v 1) (rv 2) 5),
    (0b0_011010_0000001_0000010_001_01_00_0000, .vrsq .f16 (.v 1) (rv 2) 0),
    (0b0_011010_0000001_0000010_010_10_00_0000, .vsqrt .bf16 (.v 1) (rv 2) 0),
    (0b0_011010_0000001_0000010_011_00_00_0000, .vlog2 .f32 (.v 1) (rv 2) 0),
    (0b0_011010_0000001_0000010_100_00_00_0000, .vsin .f32 (.v 1) (rv 2) 0),
    (0b0_011010_0000001_0000010_101_00_00_0000, .vcos .f32 (.v 1) (rv 2) 0),
    (0b0_011010_0000001_0000010_110_00_00_1111, .vtanh .f32 (.v 1) (rv 2) 15),
    (0b0_011011_0000001_0000010_0_000101_0000, .vexp2s (.v 1) (.vec (rv 2)) (rs 5) 0),
    (0b0_011100_001010_0_0000010_000_10_00_0001, .vredadd .f32 10 (rv 2) 1),
    (0b0_011100_001010_0_0000010_001_01_00_0000, .vredmin .n32 10 (rv 2) 0),
    (0b0_011100_001010_0_0000010_010_00_00_0000, .vredmax .s32 10 (rv 2) 0),
    (0b0_011100_001010_0_0000010_011_00_00_0000, .vargmin .s32 10 (rv 2) 0),
    (0b0_011100_001010_0_0000010_100_00_00_0000, .vargmax .s32 10 (rv 2) 0),
    (0b0_011101_0000001_0000010_001_10_00_0010, .vscan .addx .f32 (.v 1) (rv 2) 2),
    (0b0_011110_0000001_0000010_001010_0_0000, .vcompress (.v 1) (rv 2) 10 0),
    (0b0_011110_0000001_0000010_001010_1_0000, .vexpand (.v 1) (rv 2) 10 0)],
    decodeTableWord 32 p.1 = some p.2 := by decide

/-- Local memory, engines and streams, formats VM, VMU, VMC, VAT, VK, VGS, VG and VMX. -/
theorem test_decode_lane_memory : ∀ p ∈ [
    (0b0_100000_0000100_0000010_101_01_01_0011, Instr.lds .b64 .acq .group (.v 4) (rv 2) 3),
    (0b0_100001_0000100_0000010_010_00_00_01_00, .sts .n16 .rlx .wave (rv 4) (rv 2) 1),
    (0b0_100010_0000100_0000010_000_00_00_0000, .ldw .n8 .rlx .wave (.v 4) (rv 2) 0),
    (0b0_100011_0000100_0000010_100_10_10_00_00, .stw .b32 .rel .device (rv 4) (rv 2) 0),
    (0b0_100100_0000100_000101_110_00_00_0_0001, .ldsu .b128 .rlx .wave (.v 4) (rs 5) 1),
    (0b0_100101_0000100_0000010_100_01_10_0000, .ldres .acq .device (.v 4) (rv 2) 0),
    (0b0_100110_001010_0000011_0000010_10_01_0, .stcond .rel .group 10 (rv 3) (rv 2)),
    (0b0_100111_0000100_0000010_1010_11_1_0000, .ats .cas .ar .device (.v 4) (rv 2) 0),
    (0b0_101000_0000100_0000010_0001_01_0_0000, .atw .fadd .acq .group (.v 4) (rv 2) 0),
    (0b0_110000_0000100_0000010_000000_1_0_000, .bcopy (.v 4) (rv 2) true),
    (0b0_110000_0000100_0000010_100001_0_1_000, .bcopyp (.v 4) (rv 2) 33),
    (0b0_110001_0000100_0001000_010_0_0000000, .gather .b32 (.v 4) (rv 8)),
    (0b0_110010_0000100_0001000_011_1_0000000, .scatter .b64 true (.v 4) (rv 8)),
    (0b0_110011_0000100_0001000_0000_10_010_1_0, .gatom .add .rel .device true false (.v 4) (rv 8)),
    (0b0_111000_0111000_000101_010_1_0000_0010, .mstream .e2m1 true (.v 56) (rs 5) 2),
    (0b0_111001_0000000_000101_011_0_0000_0000, .mstreamc .bf16 false (.v 0) (rs 5) 0),
    (0b0_111010_0110000_000000_000_0_0000_0100, .mzeroacc (.v 48) 4)],
    decodeTableWord 32 p.1 = some p.2 := by decide

/-- Uniform arithmetic, formats UR, UI, UL and UV. -/
theorem test_decode_uniform : ∀ p ∈ [
    (0b1_000000_001010_000001_000010_0000001, Instr.sadd .s32sat 10 (rs 1) (rs 2)),
    (0b1_000001_001010_000001_000010_0000000, .ssub .wrap 10 (rs 1) (rs 2)),
    (0b1_000010_001010_000001_000010_0000000, .smul 10 (rs 1) (rs 2)),
    (0b1_000010_001010_000001_000010_0000001, .smulh .s 10 (rs 1) (rs 2)),
    (0b1_000011_001010_000001_000010_0000000, .smad 10 (rs 1) (rs 2)),
    (0b1_000100_001010_000001_000010_0000000, .sand 10 (rs 1) (rs 2)),
    (0b1_000100_001010_000001_000010_0000001, .sor 10 (rs 1) (rs 2)),
    (0b1_000100_001010_000001_000010_0000010, .sxor 10 (rs 1) (rs 2)),
    (0b1_000101_001010_000001_000010_0000000, .sshl 10 (rs 1) (rs 2)),
    (0b1_000101_001010_000001_000010_0000001, .sshr 10 (rs 1) (rs 2)),
    (0b1_000101_001010_000001_000010_0000010, .ssra 10 (rs 1) (rs 2)),
    (0b1_000110_001010_000001_000010_0000001, .smin .n 10 (rs 1) (rs 2)),
    (0b1_000110_001010_000001_000010_0000010, .smax .s 10 (rs 1) (rs 2)),
    (0b1_000111_001010_000001_000010_0001_011, .scmp .le .n 10 (rs 1) (rs 2)),
    (0b1_001000_001010_000001_000010_0_000011, .ssel 10 (rs 1) (rs 2) (rs 3)),
    (0b1_001001_001010_000001_000000_0000000, .smov 10 (rs 1)),
    (0b1_001001_001010_000001_000000_0000001, .sclz 10 (rs 1)),
    (0b1_001001_001010_000001_000000_0000010, .spop 10 (rs 1)),
    (0b1_001010_001010_1000000000000000001, .slit 10 0x40001#19),
    (0b1_001011_001010_000010_000100_0000000, .saddc 10 2 4),
    (0b1_001100_001010_000010_000101_0001_011, .slea .s 3 10 2 (rs 5)),
    (0b1_001101_001010_000001_0_1_100000_00011, .sbfe .s 32 3 10 (rs 1)),
    (0b1_001110_001010_000001_0_0_000101_11111, .sbfi 5 31 10 (rs 1)),
    (0b1_001111_001010_000001_1111111111111, .sld 10 (rs 1) 0x1FFF#13),
    (0b1_010000_001010_000001_0000000000001, .sst (rs 10) (rs 1) 1),
    (0b1_010001_001010_000000_0_000100001000, .sget 10 0x108#12),
    (0b1_010010_000000_000001_0_000000000000, .sset (rs 1) 0),
    (0b1_010011_001010_0000010_000101_000000, .sreadl 10 (rv 2) (rs 5)),
    (0b1_010100_001010_000010_000100_0000000, .mand 10 2 4),
    (0b1_010100_001010_000010_000100_0000001, .mor 10 2 4),
    (0b1_010100_001010_000010_000100_0000010, .mxor 10 2 4),
    (0b1_010100_001010_000010_000100_0000011, .mandn 10 2 4),
    (0b1_010100_001010_000010_000000_0000100, .mnot 10 2),
    (0b1_010100_001010_111000_000000_0000101, .mpop 10 56),
    (0b1_010100_001010_000010_000000_0000110, .mfirst 10 2),
    (0b1_010100_001010_000010_000000_0000111, .msetx 10 2)],
    decodeTableWord 32 p.1 = some p.2 := by decide

/-- Control flow and waits, formats UJ, UB, UC, UCI, UN and UW. -/
theorem test_decode_control : ∀ p ∈ [
    (0b1_011000_1111111111111111111111111, Instr.br 0x1FFFFFF#25),
    (0b1_011001_000101_010_0000000000000111, .brc (.lt (rs 5)) 7),
    (0b1_011001_000100_111_1000000000000000, .brc (.none 4) 0x8000#16),
    (0b1_011011_1111_000000000000000000001, .call 15 1),
    (0b1_011100_0011_000101_000000000000000, .calli 3 (rs 5)),
    (0b1_011101_00000_00000000000000000000, .nop),
    (0b1_011101_00001_00000000000000000000, .join),
    (0b1_011101_00010_00000000000000000000, .exit),
    (0b1_011101_00011_00000000000000000000, .ret),
    (0b1_011101_00100_00000000000000000000, .unwind),
    (0b1_011101_00101_00000000000000000000, .umark),
    (0b1_011101_00110_00000000000000000000, .yield),
    (0b1_011101_00111_00000000000000001010, .sleepc 10),
    (0b1_011101_01000_00000000000000000001, .trap 1),
    (0b1_011101_01001_10000000000000000000, .brkpt 0x80000#20),
    (0b1_011101_01010_00000000000000000000, .haltw),
    (0b1_100000_011_000000000000_1111111111, .waitcnt .matrix 1023),
    (0b1_100001_010_000000000000_0000000000, .drain .device),
    (0b1_100010_100_000000000000_0000000011, .fence .ar .system),
    (0b1_100011_001010_000010_000101_0_010_110, .waitaddr .reached .device 10 2 (rs 5))],
    decodeTableWord 32 p.1 = some p.2 := by decide

/-- Engines, the matrix engine, barriers, semaphores and tasks of the uniform set. -/
theorem test_decode_tasks : ∀ p ∈ [
    (0b1_100100_001010_000010_000000_0000000, Instr.gchunk 10 2),
    (0b1_100101_000000_000010_000101_0000_001, .coll .redscatter 2 (rs 5)),
    (0b1_100110_001010_000001_000000_0000000, .pealjoin 10 (rs 1)),
    (0b1_100110_001010_000001_000000_0000001, .pealleave 10 (rs 1)),
    (0b1_100110_001010_000001_000000_0000010, .pealq 10 (rs 1)),
    (0b1_100111_001010_000001_000000_0000000, .winsel 10 (rs 1)),
    (0b1_101000_000000_000001_000010_0000_110, .mloadw .s4 (rs 1) (rs 2)),
    (0b1_101001_000000_000000_000000_0000000, .mswap),
    (0b1_101010_001010_000001_000000_00000_10, .mscale 2 10 (rs 1)),
    (0b1_101011_001010_000000_000000_0000001, .mqry .accepted 10),
    (0b1_101011_001010_000001_000000_0000011, .mqry (.kOf (rs 1)) 10),
    (0b1_110000_000000_000001_000010_0000000, .barinit (rs 1) 2),
    (0b1_110001_001010_000001_000010_0000000, .bararr 10 (rs 1) (rs 2)),
    (0b1_110001_001010_000001_000010_0000001, .barwait 10 (rs 1) (rs 2)),
    (0b1_110001_001010_000001_000010_0000010, .bararw 10 (rs 1) (rs 2)),
    (0b1_110010_001010_000001_000010_0000000, .sempost 10 (rs 1) (rs 2)),
    (0b1_110010_001010_000001_000010_0000001, .semacq 10 (rs 1) (rs 2)),
    (0b1_110010_001010_000001_000010_0000010, .semtry 10 (rs 1) (rs 2)),
    (0b1_110011_001010_000010_000101_0000000, .enq 10 2 (rs 5)),
    (0b1_110011_001010_000010_000101_0000001, .enqn 10 2 (rs 5)),
    (0b1_110100_000000_000000_000000_0000000, .taskend),
    (0b1_110101_001010_000010_000101_0000000, .launch 10 2 (rs 5)),
    (0b1_110110_000000_000000_000101_0000001, .cancel (.graph (rs 5))),
    (0b1_110111_001010_000000_000000_0000011, .cntrd 10 .job),
    (0b1_111000_001010_000001_000010_0000000, .setpri 10 (rs 1) (rs 2)),
    (0b1_111100_001010_000001_000000_0000000, .chimemark 10 (rs 1)),
    (0b1_111101_001010_000010_000000_0000000, .chimechk 10 2),
    (0b1_111110_001010_000000_000000_0001000, .ctxq 10 8)],
    decodeTableWord 32 p.1 = some p.2 := by decide

/-- Literal words (R41): a vector source, a scalar source twice, and the join offset of BRD. -/
theorem test_decode_literals : ∀ p ∈ [
    (0b0_000000_0000001_0000010_1111111_00_00, 0xDEADBEEF, Instr.vadd .wrap (.v 1) (rv 2) (.lit 0xDEADBEEF#32) 0),
    (0b1_110010_001010_111111_111111_0000001, 7, .semacq 10 (.lit 7#32) (.lit 7#32)),
    (0b1_011010_001010_0_000000000000000011, 0xFFFFFFFE, .brd 10 3 0xFFFFFFFE#32),
    (0b1_011010_111000_1_111111111111111111, 9, .brdn 56 0x3FFFF#18 9#32)],
    decodeTableWord 64 (p.2.1 * 2 ^ 32 + p.1) = some p.2.2 := by decide

/-- Words that do not decode, each by its first cause (R59). -/
theorem test_decode_causes : ∀ p ∈ [
    (0b0_011111_0000000000000000000000000, Cause.unassignedMajor),
    (0b0_000000_0000001_0000010_0000011_00_11, .unassignedFunction),
    (0b0_000111_0000001_0000010_0000001_00_00, .reservedField),
    (0b0_000000_1111111_0000010_0000011_00_00, .literalPosition),
    (0b1_010100_001011_000010_000100_0000000, .oddPair),
    (0b1_011011_0000_000000000000000000001, .reservedField)],
    (match decodeWord (BitVec.ofNat 32 p.1) 0 with | .ok _ => none | .error c => some c) = some p.2 := by decide

/-- The words of the spec's own examples. -/
theorem test_spec_words : Obligations.DecodedWords := by unfold Obligations.DecodedWords; decide

/-! ## Single steps with results that the spec states -/

/-- R102: the saturating sum and its flag. -/
theorem test_sadd_saturates : ends (.sadd .s32sat 18 (rs 18) (rs 18)) (withS [(18, 0x70000000)])
    (fun t => sees 18 0x7FFFFFFF t && t.wave.flags == fSAT && t.pc == 1) = true := by decide
/-- R103: an unsigned difference below 0. -/
theorem test_ssub_saturates : ends (.ssub .n32sat 2 (rs 0) (.lit 1)) s0 (fun t => sees 2 0 t && t.pc == 2) = true := by decide
/-- R106: the address of element 5 of eight bytes. -/
theorem test_slea : ends (.slea .n 3 16 0 (rs 3)) (withS [(0, 0x34567000), (1, 0x12), (3, 5)])
    (fun t => t.pget 16 == 0x1234567028#64) = true := by decide
/-- R109: extraction with sign. -/
theorem test_sbfe_sign : ends (.sbfe .s 4 4 2 (rs 1)) (withS [(1, 0x80)]) (sees 2 0xFFFFFFF8) = true := by decide
/-- R115: MFIRST of an empty mask. -/
theorem test_mfirst_empty : ends (.mfirst 9 4) s0 (sees 9 0xFFFFFFFF) = true := by decide
/-- R116: MSETX keeps the lanes of the level. -/
theorem test_msetx : ends (.msetx 10 12) (withS [(12, 6), (13, 0x80000000)])
    (fun t => t.pget 10 == allLanes && t.exec == 0x8000000000000006#64) = true := by decide
/-- R11: S58 is constant 0 and writes to it are discarded. -/
theorem test_write_discarded : ends (.smov 58 (.lit 9)) s0 (fun t => t.sget 58 == s0.sget 58 && t.pc == 2) = true := by decide
/-- R94: the tree of 1.0, 2^24, 1.0, -2^24 and zeros is (1.0 + 2^24) + (1.0 - 2^24) = 1.0, inexact. -/
theorem test_reduction_order : ends (.vredadd .f32 10 (rv 1) 0)
    (withV s0 (.v 1) [0x3F800000, 0x4B800000, 0x3F800000, 0xCB800000])
    (fun t => sees 10 0x3F800000 t && t.wave.flags == fNX) = true := by decide +kernel
/-- R144: inactive lanes keep their value. -/
theorem test_masked_write : ends (.vadd .wrap (.v 1) (rv 1) (.lit 5) 0) (withLanes (withV s0 (.v 1) [0xFFFFFFFE, 7]) 1)
    (fun t => lane (t.vget (.v 1)) 0 == 3 && lane (t.vget (.v 1)) 1 == 7) = true := by decide
/-- R156: -0 equals +0. -/
theorem test_vcmp_zeros : ends (.vcmp .eq .f32 4 (rv 1) (rv 2)) (withV s0 (.v 1) [0x80000000, 0x3F800000])
    (fun t => t.pget 4 == 0xFFFFFFFFFFFFFFFD#64) = true := by decide

/-! ## Witnesses: a state and operands for every statement with hypotheses -/

/-- A wave whose lane 3 alone is active, at the edge of the pools: v119 of 15 blocks. -/
def sOne : State := withLanes (withV s0 (.v 119) [1, 2, 3, 0x7FFFFFFF, 5]) 8

theorem witness_UniformResults :
    (∃ d x sat, scalarResult s0 (.sadd .s32sat 55 (.lit 0x7FFFFFFF) (.lit 0x7FFFFFFF)) = some (d, x, sat) ∧
      Clear s0 (.sadd .s32sat 55 (.lit 0x7FFFFFFF) (.lit 0x7FFFFFFF))) ∧
    (∃ d x, pairResult s0 (.slea .s 0 62 56 (rs 62)) = some (d, x) ∧ Clear s0 (.slea .s 0 62 56 (rs 62))) ∧
    ((0 : SPair) ≠ 56 ∧ Clear s0 (.msetx 0 56)) :=
  ⟨⟨_, _, _, rfl, clear_of (by decide)⟩, ⟨_, _, rfl, clear_of (by decide)⟩, by decide, clear_of (by decide)⟩

theorem witness_SystemRegisters :
    (∃ x, sysValue s0 0x120 = some x ∧ Clear s0 (.sget 55 0x120)) ∧ (0x120 ∈ sysNumbers ∧ Clear s0 (.sset (rs 0) 0x120)) ∧
    ((0 : BitVec 12).toNat ∈ sysNumbers ∧ Clear s0 (.sset (.lit 0xFFFFFFFF) 0)) ∧
    ((0xFFF : BitVec 12).toNat ∉ sysNumbers ∧ Clear s0 (.sget 0 0xFFF)) ∧
    ((8 : BitVec 12).toNat ∉ sysNumbers ∧ Clear s0 (.sset (rs 0) 8)) :=
  ⟨⟨_, rfl, clear_of (by decide)⟩, ⟨by decide, clear_of (by decide)⟩, ⟨by decide, clear_of (by decide)⟩,
   ⟨by decide, clear_of (by decide)⟩, by decide, clear_of (by decide)⟩

/-- The last word of the scratchpad, the first beyond it, and a byte off a word. -/
theorem witness_ScalarScratchpadAccess :
    (∃ x, Clear s0 (.sld 1 (.lit 0xFFFFC) 0) ∧ s0.spadResolve none (wordAddr s0 (.lit 0xFFFFC) 0) 4 = some x ∧
      (wordAddr s0 (.lit 0xFFFFC) 0).toNat % 4 = 0) ∧
    (∃ x, Clear s0 (.sst (rs 1) (.lit 0xFFFFC) 0) ∧ s0.spadResolve none (wordAddr s0 (.lit 0xFFFFC) 0) 4 = some x ∧
      (wordAddr s0 (.lit 0xFFFFC) 0).toNat % 4 = 0) ∧
    (Clear s0 (.sld 1 (.lit 0xFFFFC) 1) ∧ s0.spadResolve none (wordAddr s0 (.lit 0xFFFFC) 1) 4 = none) ∧
    (Clear s0 (.sst (rs 1) (.lit 0) 0x1FFF) ∧ s0.spadResolve none (wordAddr s0 (.lit 0) 0x1FFF) 4 = none) ∧
    (∃ x, Clear s0 (.sst (rs 1) (.lit 1) 0) ∧ s0.spadResolve none (wordAddr s0 (.lit 1) 0) 4 = some x ∧
      (wordAddr s0 (.lit 1) 0).toNat % 4 ≠ 0) :=
  ⟨⟨_, clear_of (by decide), rfl, by decide⟩, ⟨_, clear_of (by decide), rfl, by decide⟩, ⟨clear_of (by decide), by decide⟩,
   ⟨clear_of (by decide), by decide⟩, _, clear_of (by decide), rfl, by decide⟩

theorem witness_LaneIntegersAndMoves :
    (∃ (d : VReg) (x : Nat → Word) (sat : Nat → Bool), (∀ k, k < 64 → laneElement sOne k (.vadd .n32sat (.v 119) (rv 119) (.lit 5) 3) = some (d, x k, sat k)) ∧
      Clear sOne (.vadd .n32sat (.v 119) (rv 119) (.lit 5) 3)) ∧
    (∃ (d : VReg) (x : Nat → Word), (∀ k, k < 64 → movedElement sOne k (.vlrot (.a 6) (rv 119) (.lit 63) 0) = some (d, x k)) ∧
      Clear sOne (.vlrot (.a 6) (rv 119) (.lit 63) 0)) ∧
    Clear sOne (.vsel (.v 0) (rv 119) 56 0) ∧ Clear sOne (.vcmp .uo .f32 56 (rv 0) (rv 119)) :=
  ⟨⟨_, _, _, fun _ _ => rfl, clear_of (by decide)⟩, ⟨_, _, fun _ _ => rfl, clear_of (by decide)⟩, clear_of (by decide),
   clear_of (by decide)⟩

theorem witness_LaneFloatAndRounding :
    (∃ (d : VReg) (x : Nat → Word × BitVec 6), (∀ k, k < 64 → floatElement sOne k (.vexp2s (.v 119) (.sca (rs 1)) (.lit 0x3F800000) 15) = some (d, x k)) ∧
      Clear sOne (.vexp2s (.v 119) (.sca (rs 1)) (.lit 0x3F800000) 15)) ∧
    0 < 1 :=
  ⟨⟨_, _, fun _ _ => rfl, clear_of (by decide)⟩, by decide⟩

theorem witness_LaneConversions :
    (∃ (d : VReg) (rm : RMode) (x : Nat → Res), (∀ k, k < 64 → convertedElement sOne k (.vcvts .e4m3 .f32 .rst true (.v 119) (rs 1)) = some (d, rm, x k)) ∧
      Clear sOne (.vcvts .e4m3 .f32 .rst true (.v 119) (rs 1))) ∧ Clear sOne (.vrand true (.a 0) 0) :=
  ⟨⟨_, _, _, fun _ _ => rfl, clear_of (by decide)⟩, clear_of (by decide)⟩

theorem witness_ReductionsAndScans :
    (∃ d x f, reduction sOne (.vredmax .s32 55 (rv 119) 15) = some (d, x, f) ∧ Clear sOne (.vredmax .s32 55 (rv 119) 15)) ∧
    Clear sOne (.vscan .addx .f32 (.v 0) (rv 119) 15) :=
  ⟨⟨_, _, _, rfl, clear_of (by decide)⟩, clear_of (by decide)⟩

/-- Lane 3, alone active, is its own extreme; without numbers, or without lanes, the other clauses hold. -/
theorem witness_ArgExtremes :
    (Clear sOne (.vargmax .s32 10 (rv 119) 0) ∧ IsExtreme sOne true .s32 (rv 119) 3) ∧
    (Clear (withV sOne (.v 1) [0, 0, 0, 0x7FC00000]) (.vargmin .f32 10 (rv 1) 0) ∧
      ∀ k, ¬ IsExtreme (withV sOne (.v 1) [0, 0, 0, 0x7FC00000]) false .f32 (rv 1) k) ∧
    (Clear (withLanes s0 0) (.vargmin .n32 10 (rv 1) 0) ∧ (withLanes s0 0).exec = 0) := by
  have one : ∀ j, j < 64 → (8 : Dword).getLsbD j = true → j = 3 := by decide
  refine ⟨⟨clear_of (by decide), ⟨by decide, by decide, by decide⟩, ?_, ?_⟩, ⟨clear_of (by decide), ?_⟩, clear_of (by decide), rfl⟩
  · rintro j ⟨h, he, -⟩; obtain rfl := one j h he; decide
  · rintro j ⟨h, he, -⟩ hj; obtain rfl := one j h he; exact absurd hj (by decide)
  · rintro k ⟨⟨h, he, hn⟩, -⟩; obtain rfl := one k h he; exact hn ⟨rfl, by decide⟩

theorem witness_CompressAndExpand :
    Clear sOne (.vcompress (.v 0) (rv 119) 55 15) ∧ Clear sOne (.vexpand (.a 0) (rv 119) 0 0) :=
  ⟨clear_of (by decide), clear_of (by decide)⟩

theorem witness_RegisterWriteRules : sOne.hasReg (.v 119) ∧ sOne.hasReg (.a 6) ∧ 63 < 64 :=
  ⟨by show 119 + 0 < _; decide, by show 6 + 0 < 7; decide, by decide⟩

/-- Lanes 0 and 63 address the scratchpad: its last word and its first. -/
def sEdge : State := withLanes (s0.vput allLanes (.v 1) (lanesFn (fun k => if k = 63 then 0 else 0xFFFFC))) 0x8000000000000001
/-- Lane 63 beyond the end, lane 0 off its alignment. -/
def sBad : State := withLanes (s0.vput allLanes (.v 1) (lanesFn (fun k => if k = 63 then 0x100000 else 2))) 0x8000000000000001
/-- Lane 63 alone, off its alignment. -/
def sOff : State := withLanes (s0.vput allLanes (.v 1) (lanesFn (fun _ => 0xFFFFA))) 0x8000000000000000
/-- A cluster window access: the window bit is set and the range is rank 0 of the cluster. -/
def sWin : State := withLanes (s0.vput allLanes (.v 1) (lanesFn (fun _ => 0x400000))) 1

theorem witness_LaneAccessFaults :
    (laneAccess sBad (.lds .b32 .rlx .wave (.v 2) (rv 1) 0) = some (some false, lane (sBad.vsrc (rv 1)), 4) ∧
      Clear sBad (.lds .b32 .rlx .wave (.v 2) (rv 1) 0) ∧
      (outside sBad (some false) (lane (sBad.vsrc (rv 1))) 4).getLsbD 63 = true ∧
      ∀ j, j < 63 → (outside sBad (some false) (lane (sBad.vsrc (rv 1))) 4).getLsbD j = false) ∧
    (laneAccess sOff (.sts .b32 .rlx .wave (rv 2) (rv 1) 0) = some (some false, lane (sOff.vsrc (rv 1)), 4) ∧
      Clear sOff (.sts .b32 .rlx .wave (rv 2) (rv 1) 0) ∧
      outside sOff (some false) (lane (sOff.vsrc (rv 1))) 4 = 0 ∧
      (crooked sOff (lane (sOff.vsrc (rv 1))) 4).getLsbD 63 = true ∧
      ∀ j, j < 63 → (crooked sOff (lane (sOff.vsrc (rv 1))) 4).getLsbD j = false) :=
  ⟨⟨rfl, clear_of (by decide), by decide +kernel, by decide +kernel⟩, rfl, clear_of (by decide), by decide +kernel,
   by decide +kernel, by decide +kernel⟩

theorem reachable_of {s : State} {i : Instr} {w : Option Bool} {addr : Nat → Word} {n : Nat}
    (h : laneAccess s i = some (w, addr, n)) (a : outside s w addr n = 0) (b : crooked s addr n = 0) : Reachable s i :=
  ⟨w, addr, n, h, a, b⟩

theorem witness_LaneLoadsAndStores :
    (laneLoadOf (.lds .b32 .rlx .wave (.v 119) (rv 1) 0) = some (.v 119, .b32, .rlx, .wave) ∧
      Clear sEdge (.lds .b32 .rlx .wave (.v 119) (rv 1) 0) ∧ Reachable sEdge (.lds .b32 .rlx .wave (.v 119) (rv 1) 0) ∧
      sEdge.hasReg (.v 119) (MSize.b32.regs - 1)) ∧
    (laneLoadOf (.ldw .n8 .acq .device (.v 0) (rv 1) 0) = some (.v 0, .n8, .acq, .device) ∧
      Clear sWin (.ldw .n8 .acq .device (.v 0) (rv 1) 0) ∧ Reachable sWin (.ldw .n8 .acq .device (.v 0) (rv 1) 0)) ∧
    (laneStoreOf (.sts .b32 .rlx .wave (rv 2) (rv 1) 0) = some (rv 2, .b32) ∧ Clear sEdge (.sts .b32 .rlx .wave (rv 2) (rv 1) 0) ∧
      Reachable sEdge (.sts .b32 .rlx .wave (rv 2) (rv 1) 0) ∧ Memory.wf sEdge.spad = true ∧ (MSize.b32.regs = 1 ∨ ∃ r, rv 2 = .reg r)) :=
  ⟨⟨rfl, clear_of (by decide), reachable_of rfl (by decide +kernel) (by decide +kernel), by show 119 + 0 < _; decide⟩,
   ⟨rfl, clear_of (by decide), reachable_of rfl (by decide +kernel) (by decide +kernel)⟩,
   rfl, clear_of (by decide), reachable_of rfl (by decide +kernel) (by decide +kernel), rfl, .inl rfl⟩

/-- Lanes 0 and 63 of the edge, of which lane 63 alone holds a reservation on its own granule. -/
def sRes : State := { sEdge with wave := { sEdge.wave with
  resv := sEdge.wave.resv.set 63 (some (placeAt sEdge (.stcond .ar .group 54 (rv 2) (rv 1)) 63 / 64)) } }

theorem witness_ReservationsAndAtomics :
    (let i : Instr := .stcond .ar .group 54 (rv 2) (rv 1)
     Clear sRes i ∧ Reachable sRes i ∧ sRes.exec.getLsbD 63 = true ∧ sRes.wave.resvAt 63 = some (placeAt sRes i 63 / 64) ∧
      sRes.exec.getLsbD 0 = true ∧ sRes.wave.resvAt 0 = none) ∧
    (Clear sEdge (.ldres .rlx .wave (.v 0) (rv 1) 0) ∧ Reachable sEdge (.ldres .rlx .wave (.v 0) (rv 1) 0) ∧
      sEdge.hasReg (.v 0)) ∧
    (Clear sEdge (.stcond .ar .group 54 (rv 2) (rv 1)) ∧ Reachable sEdge (.stcond .ar .group 54 (rv 2) (rv 1)) ∧
      Memory.wf sEdge.spad = true ∧ (54 : SPair) % 2 = 0 ∧ (54 : SPair) < 56) ∧
    (laneAtomicOf (.atw .cas .rlx .wave (.v 118) (rv 1) 0) = some (.cas, .v 118, .rlx, .wave) ∧
      Clear sWin (.atw .cas .rlx .wave (.v 118) (rv 1) 0) ∧ Reachable sWin (.atw .cas .rlx .wave (.v 118) (rv 1) 0) ∧
      sWin.hasReg (.v 118)) :=
  ⟨⟨clear_of (by decide), reachable_of rfl (by decide +kernel) (by decide +kernel), by decide, by decide +kernel, by decide, by decide⟩,
   ⟨clear_of (by decide), reachable_of rfl (by decide +kernel) (by decide +kernel), by show 0 + 0 < _; decide⟩,
   ⟨clear_of (by decide), reachable_of rfl (by decide +kernel) (by decide +kernel), rfl, by decide, by decide⟩,
   rfl, clear_of (by decide), reachable_of rfl (by decide +kernel) (by decide +kernel), by show 118 + 0 < _; decide⟩

/-- Lanes 0 and 1 in S6:S7, at word 100, with a split pending whose join word is 103. -/
def sTop : State :=
  let s := (withS [(6, 3)]).setPc 100
  { s with wave := { s.wave with top := ⟨true, 103, 1, allLanes, allLanes, 0, 0, 0, 0⟩ } }
/-- A stack entry whose join word is 100. -/
def entry100 (deferred : Dword) : StkEntry := ⟨100, 2, 0, allLanes, allLanes, 0, 0, deferred, 200⟩
/-- The same split with n entries on the fragment's own stack. -/
def sDeep (n : Nat) (deferred : Dword) : State := sTop.setSlot { sTop.slot with stk := List.replicate n (entry100 deferred) }
/-- A depth of calls. -/
def atDepth (s : State) (d : Nat) : State := s.setSlot { s.slot with depth := d }
/-- A fragment of slot 0 at the top split's join word, its lanes the given ones. -/
def sJoin (mask arrived : Dword) : State :=
  let s := s0.setSlot { s0.slot with pc := 103, mask := mask, level := mask }
  { s with wave := { s.wave with top := ⟨true, 103, 1, allLanes, allLanes, arrived, arrived, 0, 0⟩ } }

theorem witness_UniformBranches : Clear s0 (.br 0x1FFFFFF) ∧ Clear s0 (.brc (.any 56) 0x8000) :=
  ⟨clear_of (by decide), clear_of (by decide)⟩

theorem witness_SplitAndJoin :
    (Clear sTop (.brd 4 5 9) ∧ brdTaken sTop false 4 = 0) ∧
    (Clear sTop (.brdn 4 5 9) ∧ brdTaken sTop true 4 ≠ 0 ∧ brdRest sTop true 4 = 0) ∧
    (Clear sTop (.brd 6 3 3) ∧ brdTaken sTop false 6 ≠ 0 ∧ brdRest sTop false 6 ≠ 0 ∧
      low (sTop.pc.toInt + (3 : BitVec 18).toInt) = sTop.pc + 3 ∧ ∃ e, splitOf sTop = some e ∧ joinOf e = (sTop.pc + 3, sTop.slot.depth)) ∧
    (let s := (withS [(6, 3)]).setPc 100
     Clear s (.brd 6 0x20000 9) ∧ brdTaken s false 6 ≠ 0 ∧ brdRest s false 6 ≠ 0 ∧
      low (s.pc.toInt + (0x20000 : BitVec 18).toInt) ≠ s.pc + 9 ∧ s.wave.top.pending = false) ∧
    (let s := sDeep 31 0
     Clear s (.brd 6 5 9) ∧ brdTaken s false 6 ≠ 0 ∧ brdRest s false 6 ≠ 0 ∧ low (s.pc.toInt + (5 : BitVec 18).toInt) ≠ s.pc + 9 ∧
      s.wave.top.pending = true ∧ stackUsed s ≠ 32) ∧
    (let s := sDeep 32 0
     Clear s (.brd 6 5 9) ∧ brdTaken s false 6 ≠ 0 ∧ brdRest s false 6 ≠ 0 ∧ low (s.pc.toInt + (5 : BitVec 18).toInt) ≠ s.pc + 9 ∧
      s.wave.top.pending = true ∧ stackUsed s = 32) ∧
    (Clear s0 .join ∧ s0.frame.spilled = false ∧ ∀ e, splitOf s0 = some e → joinOf e ≠ (s0.pc, s0.slot.depth)) ∧
    (Clear (sDeep 1 2) .join ∧ (sDeep 1 2).frame.spilled = false ∧ splitOf (sDeep 1 2) = some (.inl (entry100 2)) ∧
      joinOf (.inl (entry100 2)) = ((sDeep 1 2).pc, (sDeep 1 2).slot.depth) ∧ (entry100 2).deferred ≠ 0) ∧
    (Clear (sDeep 1 0) .join ∧ splitOf (sDeep 1 0) = some (.inl (entry100 0)) ∧ (entry100 0).deferred = 0 ∧
      (entry100 0).outer &&& (sDeep 1 0).wave.live ≠ 0) ∧
    (∃ e, Clear (sJoin 3 0) .join ∧ splitOf (sJoin 3 0) = some (.inr e) ∧ joinOf (.inr e) = ((sJoin 3 0).pc, (sJoin 3 0).slot.depth) ∧
      e.arrived ||| (sJoin 3 0).slot.level ≠ e.expect) ∧
    (∃ e, Clear (sJoin 3 (~~~3#64)) .join ∧ splitOf (sJoin 3 (~~~3#64)) = some (.inr e) ∧
      e.arrived ||| (sJoin 3 (~~~3#64)).slot.level = e.expect ∧ e.outer &&& (sJoin 3 (~~~3#64)).wave.live ≠ 0) :=
  ⟨⟨clear_of (by decide), by decide⟩, ⟨clear_of (by decide), by decide, by decide⟩,
   ⟨clear_of (by decide), by decide, by decide, by decide, _, rfl, by decide⟩,
   ⟨clear_of (by decide), by decide, by decide, by decide, by decide⟩,
   ⟨clear_of (by decide), by decide, by decide, by decide, by decide, by decide⟩,
   ⟨clear_of (by decide), by decide, by decide, by decide, by decide, by decide⟩,
   ⟨clear_of (by decide), by decide, fun e h => absurd h (by decide +revert)⟩,
   ⟨clear_of (by decide), by decide, by decide, by decide, by decide⟩,
   ⟨clear_of (by decide), by decide, by decide, by decide⟩,
   ⟨_, clear_of (by decide), rfl, by decide, by decide⟩, _, clear_of (by decide), rfl, by decide, by decide⟩

theorem witness_ExitEndsLanes :
    (Clear s0 .exit ∧ s0.frame.spilled = false ∧ s0.wave.live &&& ~~~s0.exec = 0) ∧
    (let s := withLanes s0 1
     Clear s .exit ∧ s.frame.spilled = false ∧ s.wave.live &&& ~~~s.exec ≠ 0 ∧ s.slot.level &&& ~~~s.exec ≠ 0) :=
  ⟨⟨clear_of (by decide), by decide, by decide⟩, clear_of (by decide), by decide, by decide, by decide⟩

/-- Two frames, the inner one's mark at depth 0. -/
def sCalled : State :=
  let s := atDepth s0 1
  { s with wave := { s.wave with frames := mset s.wave.frames 1 ⟨77, 1, [15], false, List.replicate 8 (Lanes.fill 0)⟩ } }

theorem witness_FramesAndUnwinding :
    (callOf s0 (.call 15 0x1FFFFF) = some (15, low (s0.pc.toInt + (0x1FFFFF : BitVec 21).toInt)) ∧ Clear s0 (.call 15 0x1FFFFF) ∧
      s0.slot.depth ≠ 63 ∧ s0.grantable s0.wave.core (s0.grp.order, s0.wave.index, s0.wave.cur) 15 = true) ∧
    (let s := { s0 with waves := [(8, { fetchWave 8 5 with
       frames := [(0, ⟨0, 15, (List.range 241).map (· + 15), false, []⟩)] })] }
     callOf s (.calli 1 (.lit 9)) = some (1, 9) ∧ Clear s (.calli 1 (.lit 9)) ∧ s.slot.depth ≠ 63 ∧
      s.grantable s.wave.core (s.grp.order, s.wave.index, s.wave.cur) 1 = false) ∧
    (Clear (atDepth s0 63) (.calli 1 (.lit 9)) ∧ (atDepth s0 63).slot.depth = 63) ∧
    (Clear sCalled .ret ∧ sCalled.framePending [sCalled.frameKey] = false ∧ 0 < sCalled.slot.depth ∧
      (∀ e, splitOf sCalled = some e → (joinOf e).2 ≠ sCalled.slot.depth) ∧ mwf sCalled.wave.frames = true) ∧
    (Clear s0 .ret ∧ s0.slot.depth = 0) ∧
    (let s := { sCalled with wave := { sCalled.wave with top := ⟨true, 5, 1, allLanes, allLanes, 0, 0, 0, 1⟩ } }
     Clear s .ret ∧ ∃ e, splitOf s = some e ∧ (joinOf e).2 = s.slot.depth) ∧
    Clear s0 .umark ∧
    (Clear sCalled .unwind ∧ sCalled.wave.mark < sCalled.slot.depth ∧
      sCalled.framePending (sCalled.wave.unwoundKeys sCalled.wave.cur) = false) ∧
    (Clear s0 .unwind ∧ s0.slot.depth ≤ s0.wave.mark) :=
  ⟨⟨rfl, clear_of (by decide), by decide, by decide +kernel⟩, ⟨rfl, clear_of (by decide), by decide, by decide +kernel⟩,
   ⟨clear_of (by decide), rfl⟩,
   ⟨clear_of (by decide), by decide, by decide, fun e h => absurd h (by decide +revert), by decide⟩, ⟨clear_of (by decide), rfl⟩,
   ⟨clear_of (by decide), _, rfl, by decide⟩, clear_of (by decide), ⟨clear_of (by decide), by decide, by decide⟩,
   clear_of (by decide), by decide⟩

theorem witness_NopYieldSleep :
    Clear s0 .nop ∧ (Clear s0 .yield ∧ s0.grp.ordered = false ∧ s0.wave.cur < 2) ∧ Clear s0 (.sleepc 0xFFFFF) :=
  ⟨clear_of (by decide), ⟨clear_of (by decide), rfl, by decide⟩, clear_of (by decide)⟩

theorem witness_TrapInstructions : Clear s0 (.trap 0xFFFFF) ∧ Clear s0 (.brkpt 0) ∧ (Clear s0 .haltw ∧ Focused s0) :=
  ⟨clear_of (by decide), clear_of (by decide), clear_of (by decide), by decide, by decide⟩

/-- A context that catches class 0x03, in a frame above the mark. -/
def sCatch : State := { sCalled with ctxs := [(1, { fetchCtx with catchMask := 4 })] }

theorem witness_TrapTaking :
    (s0.caught 0x0301 = false ∧ s0.slot.park = .no ∧ s0.grp.state = .running) ∧
    (sCatch.caught 0x0301 = true ∧ sCatch.framePending (sCatch.wave.unwoundKeys sCatch.wave.cur) = false ∧ Focused sCatch) :=
  ⟨⟨by decide, by decide, by decide⟩, by decide, by decide, by decide, by decide⟩

/-- An object of one expected arrival at place 0 of the scratchpad: the fields are pending, bytes in and gen. -/
def sBar (o : BarObj) : State := s0.barPut 0 o
/-- One arrival missing of one. -/
def one : BarObj := ⟨0, 0, 0, 0, false, false, 1, 1, 15⟩
/-- The same with a value in its reserved bits. -/
def sReserved (n : Nat) : State := s0.spadPut 0 (leBytes 16 (one.toNat + n * 2 ^ 38))
/-- Semaphore 0 of the group holds n, and a wave waits. -/
def sSem (n : Nat) (q : List SemWait) : State := s0.setSem 0 (n, q)

theorem witness_BarrierInitAndArrival :
    (Clear (withS [(4, 0x1FFFF)]) (.barinit (.lit 0xFFFF0) 4) ∧ (withS [(4, 0x1FFFF)]).slot.park = .no ∧
      (∃ x, objectAt (withS [(4, 0x1FFFF)]) ((withS [(4, 0x1FFFF)]).ssrc (.lit 0xFFFF0)) = some x) ∧
      ¬ initRefused ((withS [(4, 0x1FFFF)]).pget 4) ∧ Memory.wf (withS [(4, 0x1FFFF)]).spad = true) ∧
    (Clear s0 (.barinit (rs 0) 4) ∧ initRefused (s0.pget 4)) ∧
    (let s := sBar one
     Clear s (.bararr 1 (.lit 0) (.lit 0)) ∧ objectAt s (s.ssrc (.lit 0)) = some 0 ∧ (s.barGet 0).reserved = 0 ∧
      refusedArrival (s.barGet 0) (s.ssrc (.lit 0)) = false ∧ Memory.wf s.spad = true ∧
      complete (arrived (s.barGet 0) (s.ssrc (.lit 0)))) ∧
    (let s := sBar { one with pending := 2, expected := 2 }
     Clear s (.bararr 1 (.lit 0) (.lit 0)) ∧ refusedArrival (s.barGet 0) (s.ssrc (.lit 0)) = false ∧
      ¬ complete (arrived (s.barGet 0) (s.ssrc (.lit 0)))) ∧
    (let s := sBar { one with pending := 0 }
     Clear s (.bararr 1 (.lit 0) (.lit 0)) ∧ refusedArrival (s.barGet 0) (s.ssrc (.lit 0)) = true) ∧
    (let s := sReserved 2
     Clear s (.bararr 1 (.lit 0) (.lit 0)) ∧ objectAt s (s.ssrc (.lit 0)) = some 0 ∧ (s.barGet 0).reserved ≠ 0) :=
  ⟨⟨clear_of (by decide), rfl, ⟨_, rfl⟩, by unfold initRefused; decide, rfl⟩, ⟨clear_of (by decide), by unfold initRefused; decide⟩,
   ⟨clear_of (by decide), by decide, by decide, by decide, by decide, by unfold complete; decide⟩,
   ⟨clear_of (by decide), by decide, by unfold complete; decide⟩, ⟨clear_of (by decide), by decide⟩,
   clear_of (by decide), by decide, by decide⟩

/-- A BARARW that has arrived in generation g issues again. -/
def again (s : State) (g : Nat) : State := s.setSlot { s.slot with rewait := some (s.pc, g) }

theorem witness_BarrierWait :
    (let s := sReserved 1
     Clear s (.barwait 1 (.lit 0) (.lit 14)) ∧ objectAt s (s.ssrc (.lit 0)) = some 0 ∧ (s.barGet 0).reserved ≠ 0 ∧
      Clear s (.bararw 1 (.lit 0) (.lit 0)) ∧ s.slot.park = .no ∧ s.slot.rewait = none ∧ Memory.wf s.spad = true) ∧
    (Clear (again (sBar one) 14) (.bararw 1 (.lit 0) (.lit 0)) ∧ (again (sBar one) 14).slot.rewait = some ((sBar one).pc, 14) ∧
      Memory.wf (again (sBar one) 14).spad = true ∧ ((again (sBar one) 14).barGet 0).gen ≠ 14) ∧
    (Clear (again (sBar one) 15) (.bararw 1 (.lit 0) (.lit 0)) ∧ ((again (sBar one) 15).barGet 0).gen = 15 ∧
      ((again (sBar one) 15).barGet 0).faulted = false) ∧
    (let s := again (sBar { one with faulted := true }) 15
     Clear s (.bararw 1 (.lit 0) (.lit 0)) ∧ (s.barGet 0).gen = 15 ∧ (s.barGet 0).faulted = true) ∧
    (let s := sBar one
     Clear s (.barwait 1 (.lit 0) (.lit 14)) ∧ objectAt s (s.ssrc (.lit 0)) = some 0 ∧ (s.barGet 0).reserved = 0 ∧
      (s.barGet 0).gen ≠ (s.ssrc (.lit 14)).toNat % 16 ∧ Clear s (.barwait 1 (.lit 0) (.lit 15)) ∧
      (s.barGet 0).gen = (s.ssrc (.lit 15)).toNat % 16 ∧ (s.barGet 0).faulted = false) ∧
    (let s := sBar { one with faulted := true }
     Clear s (.barwait 1 (.lit 0) (.lit 15)) ∧ (s.barGet 0).gen = (s.ssrc (.lit 15)).toNat % 16 ∧ (s.barGet 0).faulted = true) ∧
    (let s := sBar one
     Clear s (.bararw 1 (.lit 0) (.lit 0)) ∧ s.slot.park = .no ∧ s.slot.rewait = none ∧
      refusedArrival (s.barGet 0) (s.ssrc (.lit 0)) = false ∧ complete (arrived (s.barGet 0) (s.ssrc (.lit 0)))) ∧
    (let s := sBar { one with pending := 2 }
     Clear s (.bararw 1 (.lit 0) (.lit 0)) ∧ refusedArrival (s.barGet 0) (s.ssrc (.lit 0)) = false ∧
      ¬ complete (arrived (s.barGet 0) (s.ssrc (.lit 0))) ∧ (s.barGet 0).faulted = false) ∧
    (let s := sBar { one with pending := 2, faulted := true }
     Clear s (.bararw 1 (.lit 0) (.lit 0)) ∧ refusedArrival (s.barGet 0) (s.ssrc (.lit 0)) = false ∧
      ¬ complete (arrived (s.barGet 0) (s.ssrc (.lit 0))) ∧ (s.barGet 0).faulted = true) :=
  ⟨⟨clear_of (by decide), by decide, by decide, clear_of (by decide), rfl, rfl, by decide⟩,
   ⟨clear_of (by decide), by decide, by decide, by decide⟩, ⟨clear_of (by decide), by decide, by decide⟩,
   ⟨clear_of (by decide), by decide, by decide⟩,
   ⟨clear_of (by decide), by decide, by decide, by decide, clear_of (by decide), by decide, by decide⟩,
   ⟨clear_of (by decide), by decide, by decide⟩, ⟨clear_of (by decide), rfl, rfl, by decide, by unfold complete; decide⟩,
   ⟨clear_of (by decide), by decide, by unfold complete; decide, by decide⟩, clear_of (by decide), by decide,
   by unfold complete; decide, by decide⟩

theorem witness_SemaphoresAndFences :
    (Clear (sSem 65535 []) (.sempost 1 (.lit 0) (.lit 1)) ∧ ((sSem 65535 []).ssrc (.lit 0)).toNat < min 64 (sSem 65535 []).grp.semCount) ∧
    (let s := sSem 1 []
     Clear s (.semacq 1 (.lit 0) (.lit 1)) ∧ (s.sem (semOf s (.lit 0))).2 = [] ∧
      (s.ssrc (.lit 1)).toNat % 2 ^ 16 ≤ (s.sem (semOf s (.lit 0))).1 ∧ Clear s (.semtry 1 (.lit 0) (.lit 1))) ∧
    (let s := sSem 1 []
     Clear s (.semacq 1 (.lit 0) (.lit 2)) ∧ (s.sem (semOf s (.lit 0))).1 < (s.ssrc (.lit 2)).toNat % 2 ^ 16 ∧
      Clear s (.semtry 1 (.lit 0) (.lit 2))) ∧
    (let s := sSem 9 [⟨8, 0, 10, 1⟩]
     Clear s (.semacq 1 (.lit 0) (.lit 1)) ∧ (s.sem (semOf s (.lit 0))).2 ≠ [] ∧ Clear s (.semtry 1 (.lit 0) (.lit 1))) ∧
    (Clear s0 (.semtry 1 (.lit 64) (.lit 1)) ∧ ¬ (s0.ssrc (.lit 64)).toNat < min 64 s0.grp.semCount) ∧
    (Clear s0 (.waitcnt .coll 0) ∧ s0.wave.count (clsIndex .coll) ≤ 0) ∧
    (let s := { s0 with wave := s0.wave.setCount .bcopy (fun _ => 1023) }
     Clear s (.waitcnt .bcopy 0x3FE) ∧ (0x3FE : BitVec 10).toNat < s.wave.count (clsIndex .bcopy)) ∧
    (Clear s0 (.drain .system) ∧ ∀ o, o ∈ s0.ops → o.wave = s0.wave.name → o.drains = false) ∧
    Clear s0 (.fence .ar .system) :=
  ⟨⟨clear_of (by decide), by decide⟩, ⟨clear_of (by decide), by decide, by decide, clear_of (by decide)⟩,
   ⟨clear_of (by decide), by decide, clear_of (by decide)⟩, ⟨clear_of (by decide), by decide, clear_of (by decide)⟩,
   ⟨clear_of (by decide), by decide⟩, ⟨clear_of (by decide), by decide⟩, ⟨clear_of (by decide), by decide⟩,
   ⟨clear_of (by decide), fun o h => nomatch h⟩, clear_of (by decide)⟩

/-- Pages 0 of context 1 mapped onto a frame that begins with the given bytes (R328, R331). -/
def mapped (s : State) (b : List Byte) : State :=
  let m := fetchPut [] 0 300 (fetchTable 301)
  let m := fetchPut m 0 301 (fetchTable 302)
  let m := fetchPut m 0 302 (fetchTable 303)
  let m := fetchPut m 0 303 (leBytes 8 (304 * 2 ^ 13 + 0x1D))
  { s with hbm := fetchPut m (s.homeDie 1 0) 304 b }
/-- The word 7 at address 0, and S6:S7 an address. -/
def sWord (a : Dword) : State := mapped (s0.pset 6 a) [7]

/-- What a WAITADDR of S6:S7 and 7 or 8 asks for. -/
def asks (s : State) (b : Word) : WaitReq := ⟨s.pget 6, s.wave.window, b, s.nextId s.issueUnit⟩

theorem witness_AwaitAddress :
    (∀ q n w, (sWord 0).slot.stall ≠ .got q n w) ∧
    (Clear (sWord 0x20000000000000) (.waitaddr .eq .system 1 6 (.lit 7)) ∧
      ((sWord 0x20000000000000).pget 6).toNat / 2 ^ 53 % 2 ^ 9 ≠ 0) ∧
    (Clear (sWord 0xC000000000000000) (.waitaddr .eq .system 1 6 (.lit 7)) ∧ ((sWord 0xC000000000000000).pget 6).toNat / 2 ^ 62 = 3) ∧
    (Clear (sWord 0x8000000000000000) (.waitaddr .eq .system 1 6 (.lit 7)) ∧ ((sWord 0x8000000000000000).pget 6).toNat / 2 ^ 62 = 2 ∧
      ((sWord 0x8000000000000000).pget 6).toNat / 2 ^ 53 % 2 ^ 9 = 0) ∧
    (Clear (sWord 3) (.waitaddr .eq .system 1 6 (.lit 7)) ∧ ((sWord 3).pget 6).toNat / 2 ^ 62 = 0 ∧ ((sWord 3).pget 6).toNat % 4 ≠ 0) ∧
    (Clear (sWord 0) (.waitaddr .eq .system 1 6 (.lit 7)) ∧ ((sWord 0).pget 6).toNat / 2 ^ 62 = 0 ∧ ((sWord 0).pget 6).toNat % 4 = 0 ∧
      ((sWord 0).waitRead (asks (sWord 0) ((sWord 0).ssrc (.lit 7)))).2 = .word 7 ∧ (7#32 == (sWord 0).ssrc (.lit 7)) = true) ∧
    (Clear (sWord 0) (.waitaddr .reached .system 1 6 (.lit 8)) ∧
      ((sWord 0).waitRead (asks (sWord 0) ((sWord 0).ssrc (.lit 8)))).2 = .word 7 ∧
      decide ((7#32 - (sWord 0).ssrc (.lit 8)).toNat < 2 ^ 31) = false) :=
  ⟨fun _ _ _ => nofun, ⟨clear_of (by decide), by decide⟩, ⟨clear_of (by decide), by decide⟩, ⟨clear_of (by decide), by decide, by decide⟩,
   ⟨clear_of (by decide), by decide, by decide⟩, ⟨clear_of (by decide), by decide, by decide, by decide +kernel, by decide⟩,
   clear_of (by decide), by decide +kernel, by decide⟩

/-- An operation of the wave in a class: name n. -/
def opOf (n : Nat) (c : Cls) (k : OpKind) : EngineOp := ⟨n, 7, 5, 0, 0, 9, 0, c, 0, k, .going, 0, 0, 0, none, none⟩
/-- The counter of a class at a value. -/
def sCount (c : Cls) (n : Nat) : State := { s0 with wave := s0.wave.setCount c (fun _ => n) }
/-- n operations of a class in flight. -/
def sBusy (c : Cls) (k : OpKind) (n : Nat) : State := { sCount c n with ops := List.replicate n (opOf 1 c k) }
/-- A stream of the matrix engine. -/
def matOp : OpKind := .mat (.base 1 .bf16)

theorem witness_EngineStart :
    (engineOf s0 (.gchunk 1 4) = some (.gatom, none) ∧ (∀ o, o ∈ s0.ops → o.name ≠ s0.names)) ∧
    (∃ r, engineOf (withS [(4, 32)]) (.gchunk 1 4) = some (.gatom, some r) ∧ Clear (withS [(4, 32)]) (.gchunk 1 4)) ∧
    (engineOf (sCount .coll 1023) (.chimechk 1 2) = some (.coll, none) ∧ Clear (sCount .coll 1023) (.chimechk 1 2) ∧
      (sCount .coll 1023).wave.count (clsIndex .coll) = 1023) ∧
    (let s := sBusy .coll .empty 16
     engineOf s (.chimechk 1 2) = some (.coll, none) ∧ Clear s (.chimechk 1 2) ∧ s.wave.count (clsIndex .coll) ≠ 1023 ∧
      (∀ o, o ∈ s.ops → o.name ≠ s.names) ∧
      clsRoom .coll ≤ (s.ops.filter (fun o => o.core == s.wave.core && o.cls == .coll)).length) ∧
    (let s := sBusy .coll .empty 15
     engineOf s (.chimechk 1 2) = some (.coll, none) ∧ Clear s (.chimechk 1 2) ∧ s.wave.count (clsIndex .coll) ≠ 1023 ∧
      (s.ops.filter (fun o => o.core == s.wave.core && o.cls == .coll)).length < clsRoom .coll) :=
  ⟨⟨rfl, fun o h => nomatch h⟩, ⟨_, rfl, clear_of (by decide)⟩, ⟨rfl, clear_of (by decide), by decide⟩,
   ⟨rfl, clear_of (by decide), by decide, by decide, by decide⟩, rfl, clear_of (by decide), by decide, by decide⟩

theorem clearBut_of {s : State} {i : Instr} {free : List RegName} (h : clearB s i = true) : ClearBut s i free :=
  ⟨(clear_of h).1, (clear_of h).2, fun r m _ => ⟨(clear_of h).3 r m, (clear_of h).4 r m⟩, (clear_of h).5⟩

theorem witness_MatrixInstructions :
    (∃ c f, matrixOf { s0 with grp := { s0.grp with matrix := false } } (.mzeroacc (.v 0) 0) = some ([], c, f) ∧
      c = some 0x010A ∧ ClearBut { s0 with grp := { s0.grp with matrix := false } } (.mzeroacc (.v 0) 0) []) ∧
    (matrixOf s0 (.mloadw .bf16 (.lit 8) (.lit 64)) = some ([], s0.claimCause, s0.mloadwRaise .bf16 (s0.ssrc (.lit 8)) (s0.ssrc (.lit 64))) ∧
      s0.claimCause = none ∧ (s0.mloadwRaise .bf16 8 64).isSome = true ∧ ClearBut s0 (.mloadw .bf16 (.lit 8) (.lit 64)) []) ∧
    (∃ c f, matrixOf (sCount .matrix 1023) (.mzeroacc (.v 56) 0) = some ([], c, f) ∧ c = none ∧ f = none ∧
      ClearBut (sCount .matrix 1023) (.mzeroacc (.v 56) 0) [] ∧ (sCount .matrix 1023).wave.count 3 = 1023) ∧
    (∃ c f, matrixOf (sBusy .matrix matOp 8) (.mzeroacc (.v 56) 0) = some ([], c, f) ∧ c = none ∧ f = none ∧
      ClearBut (sBusy .matrix matOp 8) (.mzeroacc (.v 56) 0) [] ∧ (sBusy .matrix matOp 8).wave.count 3 ≠ 1023 ∧
      8 ≤ (sBusy .matrix matOp 8).matrixAccepted (sBusy .matrix matOp 8).wave.core) ∧
    (∃ c f, matrixOf (sBusy .matrix matOp 7) (.mzeroacc (.v 56) 0) = some ([], c, f) ∧ c = none ∧ f = none ∧
      (sBusy .matrix matOp 7).matrixAccepted (sBusy .matrix matOp 7).wave.core < 8) ∧
    (needsClaim .mswap = true ∧ Clear { s0 with grp := { s0.grp with matrix := false } } .mswap) ∧
    (Clear s0 (.mscale 3 1 (.lit 0x100)) ∧ s0.grp.matrix = true ∧ scaleRefused 3 (s0.ssrc (.lit 0x100)).toNat) ∧
    (Clear s0 (.mscale 3 1 (.lit 0xFF)) ∧ ¬ scaleRefused 3 (s0.ssrc (.lit 0xFF)).toNat) ∧
    (Clear (sBusy .matrix (.mat (.base 0 .bf16)) 1) .mswap ∧ (sBusy .matrix (.mat (.base 0 .bf16)) 1).shadowBusy 0 = true) ∧
    (Clear s0 .mswap ∧ s0.shadowBusy s0.wave.core = false) :=
  ⟨⟨_, _, rfl, by decide, clearBut_of (by decide)⟩, ⟨rfl, by decide, by decide +kernel, clearBut_of (by decide)⟩,
   ⟨_, _, rfl, by decide, by decide, clearBut_of (by decide), by decide⟩,
   ⟨_, _, rfl, by decide, by decide, clearBut_of (by decide +kernel), by decide, by decide⟩, ⟨_, _, rfl, by decide, by decide, by decide⟩,
   ⟨rfl, clear_of (by decide)⟩, ⟨clear_of (by decide), rfl, by unfold scaleRefused; decide⟩,
   ⟨clear_of (by decide), by unfold scaleRefused; decide⟩, ⟨clear_of (by decide), by decide⟩, clear_of (by decide), by decide⟩

/-- A node of one slot at address 0. -/
def nodeA : NodeCopy := { NodeCopy.bad 0 1 with good := true }
/-- A run of two nodes on queue 0, with the bin of node 0. -/
def runA (b : Bin) : Run :=
  ⟨20, 5, 1, 0, 0, 0, 0, 0, 2, ⟨0, 0, 0, 0, 0, 0, false, false⟩, 0, [(0, b)], 0, 0, 0, true, 0, 0, false, 0⟩
/-- An empty bin of a node. -/
def binA : Bin := ⟨some nodeA, 0, [], none⟩
/-- A queue of priority 2. -/
def queueA : LQueue := ⟨2, 2, none, none, none, []⟩
/-- A group of the run, whose context has queue 0 and peal 3 of two ringers; S4:S5 names the scratchpad's start. -/
def sTask (b : Bin) : State :=
  mapped ({ s0 with
    grp := { s0.grp with run := 20, peals := [⟨3, 2, 10⟩] }, runs := [(20, runA b)]
    ctxs := [(1, { fetchCtx with lq := [(0, queueA)], prioCap := 7 })]
    hub := s0.hub }.pset 4 0xC000000000000000) []

theorem witness_QueriesAndSettings :
    (∃ d x, queried s0 (.mqry (.kOf (.lit 7)) 55) = some (d, x) ∧ Clear s0 (.mqry (.kOf (.lit 7)) 55) ∧ s0.grp.matrix = true) ∧
    (∃ d x, queried s0 (.ctxq 0 8) = some (d, x) ∧ Clear s0 (.ctxq 0 8)) ∧
    (∃ c, (1 : Nat) < 2 ∧ Clear (sTask binA) (.ctxq 0 1) ∧ mget (sTask binA).ctxs (sTask binA).grp.ctx = some c ∧
      ((sTask binA).tick.unfocus.fqBlock c).2 = some 0) ∧
    Clear s0 (.winsel 55 (rs 0)) ∧ Clear s0 (.chimemark 55 (rs 0)) ∧
    (∃ l, Clear (sTask binA) (.setpri 1 (.lit 0) (.lit 0xFFFFFFFF)) ∧ ((sTask binA).ssrc (.lit 0)).toNat < 16 ∧
      (sTask binA).queueAt (sTask binA).grp.ctx ((sTask binA).ssrc (.lit 0)).toNat = some l) ∧
    (Clear s0 (.setpri 1 (.lit 16) (.lit 0)) ∧ 16 ≤ (s0.ssrc (.lit 16)).toNat) ∧
    (Clear s0 (.setpri 1 (.lit 15) (.lit 0)) ∧ s0.queueAt s0.grp.ctx (s0.ssrc (.lit 15)).toNat = none) ∧
    (∃ x, Clear (sTask binA) (.pealjoin 1 (.lit 3)) ∧
      (sTask binA).grp.peals.find? (fun y => y.peal == ((sTask binA).ssrc (.lit 3)).toNat) = some x ∧
      Clear (sTask binA) (.pealleave 1 (.lit 3))) ∧
    (Clear (sTask binA) (.pealq 1 (.lit 2)) ∧
      (sTask binA).grp.peals.find? (fun y => y.peal == ((sTask binA).ssrc (.lit 2)).toNat) = none) :=
  ⟨⟨_, _, rfl, clear_of (by decide), rfl⟩, ⟨_, _, rfl, clear_of (by decide)⟩,
   ⟨_, by decide, clear_of (by decide), rfl, by decide +kernel⟩, clear_of (by decide), clear_of (by decide),
   ⟨_, clear_of (by decide), by decide, rfl⟩, ⟨clear_of (by decide), by decide⟩, ⟨clear_of (by decide), by decide⟩,
   ⟨_, clear_of (by decide), rfl, clear_of (by decide)⟩, clear_of (by decide), by decide⟩

/-- A GATOM of the wave that acquires, still at work. -/
def acquireOp : EngineOp :=
  opOf 1 .gatom (.gatom ⟨.add, .acq, .device, true, false, [], [], [], [], 1, 0, 1, 0, .v 9⟩)
/-- The wave with a GCHUNK under way whose pair is S4:S5, and a window on S7. -/
def sWaits : State :=
  { withSlot (fun x => { x with windows := [⟨2, [.s 7]⟩] }) with ops := [opOf 1 .gatom (.gchunk ⟨0, 4, false, none⟩)] }
/-- A package without the peals feature. -/
def sNoPeals : State := { s0 with hub := { s0.hub with config := { s0.hub.config with featureOff := 1 } } }

/-- Each check at issue: an absent feature, v120 of 15 blocks, a register that waits, a register of a window, with a cause of
its own beside it, and an engine instruction and a load behind an acquire. -/
theorem witness_IssueChecks :
    sNoPeals.feature 0 = false ∧
    (Starts s0 (.vnot (.v 120) (rv 0) 0) ∧ s0.featureAbsent (.vnot (.v 120) (rv 0) 0) = false ∧
      opInFrame (Instr.vnot (.v 120) (rv 0) 0).operands s0.frame.blocks = false) ∧
    (let i : Instr := .smov 55 (rs 5)
     Starts sWaits i ∧ sWaits.featureAbsent i = false ∧ opInFrame i.operands sWaits.frame.blocks = true ∧
      .s 5 ∈ touched i sWaits.frameKey ∧ .s 5 ∈ sWaits.pendingRegs ∧ .s 5 ∉ sWaits.windowRegs ∧ .s 5 ∉ freeOf sWaits i) ∧
    (∀ i, i = .smov 7 (.lit 0) ∨ i = .sempost 7 (.lit 64) (.lit 0) → Starts sWaits i ∧ sWaits.featureAbsent i = false ∧
      opInFrame i.operands sWaits.frame.blocks = true ∧ .s 7 ∈ touched i sWaits.frameKey ∧ .s 7 ∈ sWaits.windowRegs ∧
      .s 7 ∉ freeOf sWaits i ∧ ∀ q, q ∈ touched i sWaits.frameKey → q ∈ sWaits.pendingRegs → q ∈ sWaits.windowRegs ∨ q ∈ freeOf sWaits i) ∧
    (let i : Instr := .gchunk 10 12
     let s := { s0 with ops := [acquireOp] }
     s.featureAbsent i = false ∧ opInFrame i.operands s.frame.blocks = true ∧
      (∀ r, r ∈ touched i s.frameKey → r ∉ s.pendingRegs ∧ r ∉ s.windowRegs) ∧ s.heldBack i = true ∧
      engineOf s i = some (.gatom, none)) ∧
    (let i : Instr := .lds .b32 .rlx .wave (.v 119) (rv 1) 0
     let s := { sEdge with ops := [acquireOp] }
     (∀ r, r ∈ touched i s.frameKey → r ∉ s.pendingRegs ∧ r ∉ s.windowRegs) ∧ s.heldBack i = true ∧ Reachable s i) :=
  ⟨rfl, ⟨fun _ _ _ _ _ h => (nomatch h), rfl, by decide⟩,
   ⟨fun _ _ _ _ _ h => (nomatch h), rfl, by decide, by decide, by decide, by decide, by decide⟩,
   fun i h => by
     rcases h with rfl | rfl <;>
       exact ⟨fun _ _ _ _ _ h => (nomatch h), rfl, by decide, by decide, by decide, by decide, by decide⟩,
   ⟨rfl, by decide, by decide, by decide, rfl⟩, by decide, by decide, reachable_of rfl (by decide +kernel) (by decide +kernel)⟩

/-- What an ENQ finds in the state in which it acts. -/
theorem enq_found {s : State} {many : Bool} {a : Dword} {b : Word}
    (h : (match (enqView s).enqTry many a b with
      | (w, .ok (r, _)) => (w.unfocus.binAt r.name (b.toNat % 2 ^ 16)).isSome
      | (_, .error _) => false) = true) :
    ∃ w r recs bin, (enqView s).enqTry many a b = (w, .ok (r, recs)) ∧ w.unfocus.binAt r.name (b.toNat % 2 ^ 16) = some bin := by
  generalize hx : (enqView s).enqTry many a b = x at h
  match x, h with
  | (w, .ok (r, recs)), h =>
      obtain ⟨bin, hb⟩ := Option.isSome_iff_exists.mp h
      exact ⟨w, r, recs, bin, rfl, hb⟩

/-- No error from what an ENQ finds. -/
theorem enq_good {s : State} {many : Bool} {a : Dword} {b : Word}
    (h : (match (s.enqTry many a b).2 with | .ok _ => true | .error _ => false) = true) :
    ∀ e, (s.enqTry many a b).2 ≠ .error e := by
  intro e he; rw [he] at h; exact nomatch h

/-- A queue with its 64 commands. -/
def sFull : State :=
  { sTask binA with runs := [(20, { runA binA with placed := false })] ++
      (List.range 63).map (fun k => (21 + k, { runA binA with name := 21 + k, placed := false })) }

theorem witness_TaskInstructions :
    (Clear (sTask binA) (.enq 1 4 (.lit 2)) ∧
      ∃ e, ((sTask binA).enqTry false ((sTask binA).pget 4) ((sTask binA).ssrc (.lit 2))).2 = .error e) ∧
    (Clear (sTask binA) (.enqn 1 4 (.lit 0)) ∧
      (∀ e, ((sTask binA).enqTry true ((sTask binA).pget 4) ((sTask binA).ssrc (.lit 0))).2 ≠ .error e) ∧
      ∃ w r recs bin, (enqView (sTask binA)).enqTry true ((sTask binA).pget 4) ((sTask binA).ssrc (.lit 0)) = (w, .ok (r, recs)) ∧
        w.unfocus.binAt r.name (((sTask binA).ssrc (.lit 0)).toNat % 2 ^ 16) = some bin) ∧
    (Clear s0 (.launch 1 4 (.lit 16)) ∧ (s0.launchRaise (s0.pget 4) (s0.ssrc (.lit 16))).isSome = true) ∧
    (Clear sFull (.launch 1 4 (.lit 0)) ∧ sFull.launchRaise (sFull.pget 4) (sFull.ssrc (.lit 0)) = none ∧
      sFull.queueFull sFull.grp.ctx (sFull.ssrc (.lit 0)).toNat = true) ∧
    (Clear (sTask binA) (.launch 1 4 (.lit 0)) ∧
      (sTask binA).launchRaise ((sTask binA).pget 4) ((sTask binA).ssrc (.lit 0)) = none ∧
      (sTask binA).queueFull (sTask binA).grp.ctx ((sTask binA).ssrc (.lit 0)).toNat = false) ∧
    (let s := { s0 with waves := [(8, { fetchWave 8 5 with index := 191 })] }
     Clear s .taskend ∧ Focused s ∧ s.wave.index < 192 ∧ (∀ p, p ∈ s.waves → p.2.name = p.1) ∧ s.grp.state = .running ∧
      ∃ w, 8 ≠ s.wave.name ∧ mget s.waves 8 = some w ∧ w.group = s.grp.name ∧ w.index < 192) ∧ Clear s0 (.cancel .job) :=
  ⟨⟨clear_of (by decide), _, rfl⟩,
   ⟨clear_of (by decide), enq_good (by decide +kernel), enq_found (by decide +kernel)⟩,
   ⟨clear_of (by decide), by decide⟩, ⟨clear_of (by decide), by decide +kernel, by decide +kernel⟩,
   ⟨clear_of (by decide), by decide +kernel, by decide⟩, ⟨clear_of (by decide), ⟨by decide, by decide⟩, by decide, by decide, rfl, _, by decide, rfl, by decide, by decide⟩,
   clear_of (by decide)⟩

/-- The wave 7 of group 5, out of focus. -/
def w0 : Wave := fetchWave 7 5
/-- A package with one wave out of focus. -/
def sOut (w : Wave) : State :=
  { mapped s0 [7] with wave := .off, grp := .off, waves := [(7, w)], groups := [(5, fetchGroup 5)] }
/-- Its slot 0 changed. -/
def slotW (f : Slot → Slot) : Wave := { w0 with slot0 := f w0.slot0 }
/-- Its slot 0 parked. -/
def parkW (p : Park) : Wave := slotW (fun x => { x with park := p })
/-- Both slots ready, in a context that promises progress, the timer at n. -/
def sTwo (n : Nat) : State :=
  { sOut { slotW id with slot1 := { w0.slot0 with mask := 1, level := 1 }, ftimer := n } with
    ctxs := [(1, { fetchCtx with promise := true })] }
/-- A trap of an operation at the wave. -/
def trapA (code : Nat) : DelTrap := ⟨code, 0, 3, 9, 1, 0, 0, 0, 0, false, 1, 0, false, 0⟩

theorem present_of {s : State} {n : Nat} {w : Wave} (h : s.wave.name = 0 ∧ n ≠ 0 ∧ mget s.waves n = some w ∧ w.name = n ∧
    (mget s.groups w.group).isSome = true) : Present s n w := h

theorem present0 (w : Wave) (h : w.name = 7) (g : w.group = 5) : Present (sOut w) 7 w :=
  ⟨rfl, by decide, rfl, h, by rw [g]; rfl⟩

theorem witness_TimersAndEvaluation :
    (Present (sTwo 256) 7 { slotW id with slot1 := { w0.slot0 with mask := 1, level := 1 }, ftimer := 256 } ∧
      ((sTwo 256).focus 7).timerRuns = true ∧ ((sTwo 256).focus 7).ctxNat Ctx.fairness ≤ 256) ∧
    (Present (sTwo 255) 7 { slotW id with slot1 := { w0.slot0 with mask := 1, level := 1 }, ftimer := 255 } ∧
      ((sTwo 255).focus 7).timerRuns = true ∧ 255 < ((sTwo 255).focus 7).ctxNat Ctx.fairness) ∧
    (Present (sOut (parkW (.sleep 0))) 7 (parkW (.sleep 0)) ∧ ((parkW (.sleep 0)).slotAt 0).valid = true ∧
      0 ≤ (sOut (parkW (.sleep 0))).cycles.toNat) ∧
    (Present (sOut (parkW (.sleep 1))) 7 (parkW (.sleep 1)) ∧ (sOut (parkW (.sleep 1))).cycles.toNat < 1) ∧
    (∀ c, c = 7 ∨ c = 8 → let p : Park := .waitaddr 0 .eq .system c 1 0 0
     let s := { sOut (parkW p) with evals := [(7, 0)] }
     Present s 7 (parkW p) ∧ (parkW p).cur = 0 ∧ ((parkW p).slotAt 0).park = p ∧ (s.focus 7).waitReady = true ∧
       ((s.focus 7).unmark.waitRead ⟨0, 0, c, (s.focus 7).slot.waitId⟩).2 = .word 7 ∧ waitHolds .eq 7 c = (c == 7)) ∧
    (let p : Park := .waitaddr 0 .eq .system 8 1 0 0
     Present (sOut (parkW p)) 7 (parkW p) ∧ ((sOut (parkW p)).focus 7).waitReady = false) :=
  ⟨⟨⟨rfl, by decide, rfl, rfl, rfl⟩, by decide +kernel, by decide +kernel⟩, ⟨⟨rfl, by decide, rfl, rfl, rfl⟩, by decide +kernel, by decide +kernel⟩,
   ⟨present0 _ rfl rfl, by decide, by decide⟩, ⟨present0 _ rfl rfl, by decide +kernel⟩,
   fun c h => by
     rcases h with rfl | rfl <;>
       exact ⟨⟨rfl, by decide, rfl, rfl, rfl⟩, rfl, rfl, by decide +kernel, by decide +kernel, by decide⟩,
   present0 _ rfl rfl, by decide +kernel⟩

theorem witness_DeliveredTraps :
    (let w := { w0 with traps := [trapA 0x0901] }
     Present (sOut w) 7 w ∧ w.traps = trapA 0x0901 :: [] ∧ (trapA 0x0901).slot = 0 ∧ (w.slotAt 0).valid = true ∧
      ((sOut w).focus 7).trapReady = true ∧ ({ (sOut w).focus 7 with wave := { w with cur := 0 } }).caught 0x0901 = false) ∧
    (let w := { w0 with traps := [trapA 0x0703] }
     Present (sOut w) 7 w ∧ ((sOut w).focus 7).trapReady = true ∧
      ({ (sOut w).focus 7 with wave := { w with cur := 0 } }).caught 0x0703 = false) ∧
    (let w := { w0 with traps := [trapA 0x0703] }
     let s := { sOut w with groups := [(5, { fetchGroup 5 with state := .saved })] }
     Present s 7 w ∧ (w.slotAt 0).valid = true ∧ (s.focus 7).trapReady = false) :=
  ⟨⟨present0 _ rfl rfl, rfl, rfl, rfl, by decide +kernel, by decide +kernel⟩,
   ⟨present0 _ rfl rfl, by decide +kernel, by decide +kernel⟩, ⟨rfl, by decide, rfl, rfl, rfl⟩, rfl, by decide +kernel⟩

theorem witness_CodeFetchFaults :
    (Focused s0 ∧ s0.slot.valid = true) ∧ (s0.caught 0x0705 = false ∧ s0.slot.park = .no ∧ s0.grp.state = .running) ∧
    (let s := { s0 with grp := { s0.grp with state := .ending } }
     s.caught 0x0706 = false ∧ s.slot.park = .no ∧ s.grp.state = .ending) :=
  ⟨⟨⟨by decide, by decide⟩, rfl⟩, ⟨by decide, rfl, rfl⟩, by decide, rfl, rfl⟩

/-- Wave 7 parked at a CALL of n blocks. -/
def callW (n : Nat) : Wave := parkW (.frame (.call n 9 4))
/-- All but 15 blocks of core 0 are with wave 8, which sleeps. -/
def hogW : Wave := { parkW (.sleep 9) with name := 8, index := 1, frames := [(0, ⟨0, 255, (List.range 241).map (· + 15), false, []⟩)] }
/-- The pool of core 0 is empty, and its waves have been parked for 256 cycles. -/
def sFullPool : State :=
  { sOut (callW 1) with
    waves := [(7, callW 1), (8, hogW)], cycles := 256
    ctxs := [(1, { fetchCtx with spillBlks := 300 })]
    cores := mset [] 0 { (sOut (callW 1)).core 0 with idleFrom := some 0 } }
/-- Core 0 copies the frames of wave 7. -/
def sCopying (back : Bool) : State :=
  let s := sOut (parkW (.frame .restore))
  { s with cores := mset [] 0 { s.core 0 with spill := some ⟨7, [0], back, 0⟩ } }

theorem witness_FrameEvents :
    (∃ x, (sOut (callW 15)).grantHead 0 = some x ∧ x.wave = 7 ∧ x.slot < 2 ∧ x.req = .call 15 9 4 ∧
      Present (sOut (callW 15)) 7 (callW 15) ∧ (callW 15).wanted 0 = [] ∧ ((callW 15).slotAt 0).valid = true) ∧
    ((sOut w0).wave.name = 0 ∧ (sOut w0).grantHead 0 = none) ∧
    (sFullPool.wave.name = 0 ∧ sFullPool.spillReady 0 = true) ∧
    (∃ j e, sFullPool.spillMove 0 = .copy j e) ∧ ((sOut w0).wave.name = 0 ∧ (sOut w0).spillReady 0 = false) ∧
    (((sCopying false).core 0).spill = some ⟨7, [0], false, 0⟩ ∧ Present (sCopying false) 7 (parkW (.frame .restore)) ∧
      Named (sCopying false)) ∧
    (((sCopying true).core 0).spill = some ⟨7, [0], true, 0⟩ ∧ Present (sCopying true) 7 (parkW (.frame .restore)) ∧
      ((parkW (.frame .restore)).slotAt 0).park = .frame .restore) ∧
    ((sOut w0).wave.name = 0 ∧ ∀ j, ((sOut w0).core 0).spill = some j → j.back = true) ∧
    (∀ j, ((sOut w0).core 0).spill = some j → j.back = false) :=
  ⟨⟨⟨(5, 0, 0), 7, 0, .call 15 9 4⟩, by decide +kernel, rfl, by decide, rfl, ⟨rfl, by decide, rfl, rfl, rfl⟩, by decide +kernel, rfl⟩,
   ⟨rfl, by decide +kernel⟩, ⟨rfl, by decide +kernel⟩, ⟨⟨8, [0], false, 0⟩, true, by decide +kernel⟩, ⟨rfl, by decide +kernel⟩,
   ⟨by decide +kernel, ⟨rfl, by decide, rfl, rfl, rfl⟩, by unfold Named; decide +kernel⟩,
   ⟨by decide +kernel, ⟨rfl, by decide, rfl, rfl, rfl⟩, rfl⟩,
   ⟨rfl, fun j h => absurd h (by decide +revert)⟩, fun j h => absurd h (by decide +revert)⟩

/-- Wave 7 out of focus with one operation of a class outstanding. -/
def sOp (c : Cls) (k : OpKind) (f : EngineOp → EngineOp := id) : State :=
  { sOut (w0.setCount c (fun _ => 1)) with ops := [f (opOf 30 c k)] }
/-- A copy of one element of 4 bytes into the scratchpad: its record is read, or not. -/
def copyA (recd : Option Nat) : CopyOp := ⟨0, recd, none, none, false, false, 0, 0, [], [(0, [1, 2, 3, 4])], [], [], []⟩
/-- The record: DIR 0, ESIZE 2, all counts 1, every address 0. -/
def recA : Nat := 2 * 2 ^ 384
/-- Its layout. -/
def layA : Layout := (Layout.ofNat recA).getD ⟨0, 0, 0, 0, 0, 0, 0, 0, 0, 0, 0, 0, 0, 0⟩

/-- Two ranks of this package, of which rank 0 has issued its first collective, with a deadline at 0. -/
def sColl (c : Coll → Coll) : State :=
  let d := (sOut w0).hub.config.device
  { sOp .coll (.coll ⟨.bcast, 0, some 0, none, 1, 0, 0, true, none⟩) with
    colls := [c ⟨40, 1, 0, [⟨1, 0, 0, .bcast, 0, 0, 0, 0, 0, 0, false, []⟩], none, some 0, 0, []⟩]
    comms := [(1, ⟨0, [(d, 0), (d, 1)], [], []⟩)] }
/-- A watch that ends at a time. -/
def sWatch (till : Nat) (expired : Bool) : State := { sOut w0 with watches := [⟨0, 1, 0, 1, till, 0, 0, expired, [], [], false⟩] }

theorem witness_EngineEventsAndDeadlines :
    ((sOp .bcopy (.copy (copyA none))).wave.name = 0 ∧
      engineEvent (sOp .bcopy (.copy (copyA none))) (.copyElement 30 0) = some (true, "COPY_ELEMENT")) ∧
    engineEvent (sOp .bcopy (.copy (copyA none))) (.copyElement 30 1) = some (false, "COPY_ELEMENT") ∧
    engineEvent (sOp .matrix (.mat (.base 0 .bf16))) (.mloadwReadsBegin 30) = some (true, "MLOADW_READS_BEGIN") ∧
    engineEvent (sOp .matrix (.mat (.base 0 .bf16))) (.mzeroaccComplete 30) = some (false, "MZEROACC_COMPLETE") ∧
    (∃ c, (sColl id).wave.name = 0 ∧ (sColl id).colls.find? (fun x => x.name == 40) = some c ∧ (sColl id).collAt c.comm c.nth = some c ∧ c.abort = none ∧
      c.till = some 0 ∧ 0 ≤ (sColl id).time ∧ (sColl id).collKeeper c = true ∧ firstMissing (sColl id) c 1) ∧
    (∃ c, let s := sColl (fun c => { c with till := some 1 })
      s.colls.find? (fun x => x.name == 40) = some c ∧ c.abort = none ∧ c.till = some 1 ∧ s.time < 1) ∧
    (∃ o c cl, let s := sColl (fun c => { c with abort := some (0x070C, 1) })
      s.wave.name = 0 ∧ s.opAt 30 = some o ∧ o.kind = .coll c ∧ o.state = .going ∧ c.issued = true ∧
        s.collAt c.comm c.nth = some cl ∧ cl.abort = some (0x070C, 1)) ∧
    (∃ x, (sWatch 0 false).watches[0]? = some x ∧ x.expired = false ∧ x.till ≤ (sWatch 0 false).time) ∧
    (∃ x, (sWatch 1 false).watches[0]? = some x ∧ (sWatch 1 false).time < x.till) ∧
    (∃ x, (sWatch 0 true).watches[0]? = some x ∧ x.expired = true) :=
  ⟨⟨rfl, by decide +kernel⟩, by decide +kernel, by decide +kernel, by decide +kernel,
   ⟨_, rfl, rfl, rfl, rfl, rfl, by decide, by decide +kernel, by decide +kernel, by decide,
     fun j h => ⟨_, List.mem_singleton.mpr rfl, by show 0 = j; omega⟩⟩,
   ⟨_, rfl, rfl, rfl, by decide +kernel⟩, ⟨_, _, _, rfl, rfl, rfl, rfl, rfl, rfl, rfl⟩, ⟨_, rfl, rfl, by decide +kernel⟩,
   ⟨_, rfl, by decide +kernel⟩, _, rfl, rfl⟩

theorem witness_CopyElementWritten :
    let s := sOp .bcopy (.copy (copyA (some recA)))
    s.wave.name = 0 ∧ s.opAt 30 = some (opOf 30 .bcopy (.copy (copyA (some recA)))) ∧ Layout.ofNat recA = some layA ∧ layA.dir = 0 ∧
      s.groupAt 5 = some (fetchGroup 5) ∧ s.copyReady 30 0 = true ∧ (copyA (some recA)).superseded layA 0 0 = false ∧
      (copyA (some recA)).bar = none ∧ atHand (copyA (some recA)) layA 0 = some [1, 2, 3, 4] ∧
      ∃ p, recSpad (fetchGroup 5) 0 (layA.dstAt 0) layA.esize = some p :=
  ⟨rfl, by decide +kernel, by decide +kernel, by decide +kernel, by decide +kernel, by decide +kernel, by decide +kernel, rfl,
   by decide +kernel, 0, by decide +kernel⟩

theorem witness_ClassOrderCompletion :
    (let s := sOp .coll .empty
     s.ops.find? (fun x => x.wave == 7 && x.cls == .coll) = some (opOf 30 .coll .empty) ∧
       ((opOf 30 .coll .empty).ended && s.answered 30) = false) ∧
    (let s := sOp .coll .empty (fun o => { o with state := .done, flags := 63 })
     let o : EngineOp := { opOf 30 .coll .empty with state := .done, flags := 63 }
     s.wave.name = 0 ∧ o.wave ≠ 0 ∧ mget s.waves o.wave = some (w0.setCount .coll (fun _ => 1)) ∧
       s.ops.find? (fun x => x.wave == o.wave && x.cls == o.cls) = some o ∧ o.state = .done ∧ s.answered o.name = true ∧
       Going s o ∧ s.watches = [] ∧ ∀ x, x ∈ s.ops → x.wave = o.wave → x.cls = o.cls → x.name ≠ o.name → x.ended = false) :=
  ⟨⟨by decide +kernel, by decide +kernel⟩, rfl, by decide, by decide +kernel, by decide +kernel, rfl, by decide +kernel,
   ⟨by decide +kernel, by decide +kernel⟩, rfl, by decide +kernel⟩

/-- A stream of context c. -/
def streamA (c : Nat) : Stream := ⟨.bf16, 0, [], [], 0, 5, c⟩
/-- Core 0 forwards a stream of a context to core 1, whose chain input holds x. -/
def sChain (ctx : Nat) (x : Option Stream) : State :=
  let s := sOp .matrix (.mat { MatOp.base 2 .bf16 with begun := true, forward := true, stream := some (streamA ctx) })
  { s with
    groups := s.groups ++ [(6, { fetchGroup 6 with core0 := 1, cluster := false })]
    cores := mset [] 1 { s.core 1 with chainIn := x } }

theorem witness_MatrixEvents :
    (let m : MatOp := { MatOp.base 3 .bf16 with frame := 0, vd := 56, mask := 1 }
     let s := sOp .matrix (.mat m)
     s.wave.name = 0 ∧ s.opAt 30 = some (opOf 30 .matrix (.mat m)) ∧ s.zeroReady 30 = true ∧
       mget s.waves 7 = some (w0.setCount .matrix (fun _ => 1)) ∧ Going s (opOf 30 .matrix (.mat m)) ∧
       (∀ x, x ∈ s.ops → x.wave = 7 → x.cls = .matrix → x.name ≠ 30 → x.ended = false) ∧
       ∃ f, mget (w0.setCount .matrix (fun _ => 1)).frames m.frame = some f ∧ m.vd + 64 ≤ f.regs.length) ∧
    (let m : MatOp := { MatOp.base 0 .bf16 with begun := true }
     (sOp .matrix (.mat m)).opAt 30 = some (opOf 30 .matrix (.mat m)) ∧ (m.kind = 0 ∧ m.begun = true ∧ (opOf 30 .matrix (.mat m)).state = .going)) ∧
    (let m : MatOp := .base 0 .bf16
     (sOp .matrix (.mat m)).opAt 30 = some (opOf 30 .matrix (.mat m)) ∧ ¬ (m.kind = 0 ∧ m.begun = true ∧ (opOf 30 .matrix (.mat m)).state = .going)) ∧
    (((sChain 1 none).forwarder 1).map Prod.snd = some (streamA 1) ∧ (sChain 1 none).chainTaker 1 1 = true ∧ ((sChain 1 none).core 1).chainIn = none) ∧
    (((sChain 2 none).forwarder 1).map Prod.snd = some (streamA 2) ∧ (sChain 2 none).chainTaker 1 2 = false) ∧
    (((sChain 1 (some (streamA 1))).forwarder 1).map Prod.snd = some (streamA 1) ∧ (sChain 1 (some (streamA 1))).chainTaker 1 1 = true ∧
      ((sChain 1 (some (streamA 1))).core 1).chainIn ≠ none) ∧
    (sChain 1 none).forwarder 2 = none :=
  ⟨⟨rfl, by decide +kernel, by decide +kernel, by decide +kernel, ⟨by decide +kernel, by decide +kernel⟩, by decide +kernel, _, rfl,
     by decide +kernel⟩,
   ⟨by decide +kernel, by decide +kernel⟩, ⟨by decide +kernel, by decide +kernel⟩,
   ⟨by decide +kernel, by decide +kernel, by decide +kernel⟩, ⟨by decide +kernel, by decide +kernel⟩,
   ⟨by decide +kernel, by decide +kernel, by decide +kernel⟩, by decide +kernel⟩

/-- A line of context 1 in its home slice, with every permission but execution. -/
def lineA (n : Nat) (data : List Byte) : L2Line :=
  ⟨1, n, 0, 0, n, data, false, false, ⟨true, true, false, false, false, 0⟩, 0, false⟩
/-- An operation at work, lines 0 and 1 of its context in their home slices. -/
def sLines (c : Cls) (k : OpKind) (first : List Byte := []) : State :=
  { sOp c k with homeKey := 1, l2 := [lineA 0 (first ++ List.replicate (128 - first.length) 0), lineA 1 (List.replicate 128 7)] }
/-- A list of 64 values with the first and the last given. -/
def ends64 {α : Type} (a z x : α) : List α := (a :: List.replicate 62 z) ++ [x]
/-- A record of DIR d whose single element of 4 bytes goes to address 8. -/
def recB (d : Nat) : Nat := d * 2 ^ 388 + 2 * 2 ^ 384 + 8 * 2 ^ 64
/-- Its layout. -/
def layB (d : Nat) : Layout := (Layout.ofNat (recB d)).getD layA
/-- The same with LIM0 nonzero and an element beyond it. -/
def recC : Nat := recB 1 + 2 ^ 400 + 2 ^ 128
/-- Lanes 0 and 63 write to one word of line 0, and to line 1. -/
def scatterA : GatherOp :=
  ⟨true, 4, false, ends64 124 0 128, List.replicate 64 0, ends64 [1, 2, 3, 4] [] [5, 6, 7, 8], 0x8000000000000001, 0, 0x8000000000000001⟩
/-- Lanes 0 and 63 read into the scratchpad's first words. -/
def gatherA : GatherOp := { scatterA with scatter := false, data := List.replicate 64 [], sa := ends64 0 0 4 }
/-- Lanes 0 and 63 add to the word at 0, with RET. -/
def atomA : GatomOp :=
  ⟨.add, .rlx, .device, true, false, List.replicate 64 0, List.replicate 64 1, List.replicate 64 0, List.replicate 64 0,
    0x8000000000000001, 0, 0x8000000000000001, 0, .v 119⟩
/-- A GCHUNK of the record at address 0. -/
def chunkA : ChunkOp := ⟨0, 54, false, none⟩
/-- A stream of integers for row 63, and an MSTREAM that has begun with it. -/
def intStream : Stream := ⟨.s8, laneBit 63, List.replicate 64 (List.replicate 256 1), List.replicate 64 [], 0, 5, 1⟩
/-- The instruction, in its own format. -/
def streamOp (f : MFmt) : MatOp :=
  { MatOp.base 1 f with frame := 0, vd := 56, tag := 5, mask := allLanes, begun := true, stream := some intStream }

theorem atWork_of (c : Cls) (k : OpKind) (l : List Byte) : AtWork (sLines c k l) (opOf 30 c k) := by
  refine ⟨rfl, ?_, (by decide : (7 : Nat) ≠ 0), ⟨by rfl, ?_⟩, rfl, ?_⟩
  · show (List.find? _ _) = _
    simp [sLines, sOp, opOf]
  · intro x h _; rw [List.mem_singleton.mp h]; rfl
  · intro x h _ _ n; rw [List.mem_singleton.mp h] at n; exact absurd rfl n

theorem oldest_of (c : Cls) (k : OpKind) (l : List Byte) : Oldest (sLines c k l) (opOf 30 c k) := by
  refine ⟨?_, rfl⟩
  show (List.find? _ _) = _
  simp [sLines, sOp, opOf]

theorem home_of {s : State} {ctx line : Nat} {k : Acc} (h : ((s.l2Find ctx line).map (fun y =>
    y.leaf.allows k && !y.poison && !y.upset)) = some true) : AtHome s ctx line k := by
  unfold AtHome
  cases hx : s.l2Find ctx line with
  | none => simp [hx] at h
  | some y => simp [hx] at h; exact ⟨y, rfl, h.1.1, h.1.2, h.2⟩

/-- Cells that nothing has written. -/
theorem cread_nil (d : Byte) (a n j : Nat) : (cread d [] a n).getD j d = d := by
  induction n generalizing a j with
  | zero => simp [cread]
  | succ n ih => cases j with
    | zero => simp [cread, cget]
    | succ j => simpa [cread] using ih (a + 1) j

/-- A test of two lanes. -/
theorem two_lanes {p : Nat → Prop} (h0 : p 0) (h63 : p 63) :
    ∀ i, i < 64 → (0x8000000000000001 : Dword).getLsbD i = true → p i := by
  intro i hi hm
  have : i = 0 ∨ i = 63 := (by decide : ∀ i, i < 64 → (0x8000000000000001 : Dword).getLsbD i = true → i = 0 ∨ i = 63) i hi hm
  rcases this with rfl | rfl
  · exact h0
  · exact h63

theorem witness_EngineResults :
    (let c := copyA (some (recB 1))
     let s := sLines .bcopy (.copy c)
     s.wave.name = 0 ∧ s.opAt 30 = some (opOf 30 .bcopy (.copy c)) ∧ Layout.ofNat (recB 1) = some (layB 1) ∧ (layB 1).dir = 1 ∧
      s.groupAt 5 = some (fetchGroup 5) ∧ s.copyReady 30 0 = true ∧ c.superseded (layB 1) 0 0 = false ∧ c.bar = none ∧
      (layB 1).inLimits 0 = true ∧ (∃ p, recSpad (fetchGroup 5) 0 ((layB 1).srcAt 0) (layB 1).esize = some p) ∧
      laneHome s (opOf 30 .bcopy (.copy c)) ((layB 1).dstAt 0) (s.spadGet 0 (layB 1).esize).length .ewr) ∧
    (let c := copyA (some (recB 2))
     let s := sLines .bcopy (.copy c)
     Layout.ofNat (recB 2) = some (layB 2) ∧ (layB 2).dir = 2 ∧ s.copyReady 30 0 = true ∧ c.superseded (layB 2) 0 0 = false ∧
      atHand c (layB 2) 0 = some [1, 2, 3, 4] ∧ laneHome s (opOf 30 .bcopy (.copy c)) ((layB 2).dstAt 0) 4 .ewr) ∧
    (∃ l, let c := copyA (some recC)
     let s := sLines .bcopy (.copy c)
     Layout.ofNat recC = some l ∧ l.dir = 1 ∧ s.copyReady 30 1 = true ∧ l.inLimits 1 = false) ∧
    (let s := sLines .gather (.gather scatterA)
     AtWork s (opOf 30 .gather (.gather scatterA)) ∧ s.gatherReady 30 = true ∧ scatterA.lanes = scatterA.notDone ∧
      ∀ i, i < 64 → scatterA.notDone.getLsbD i = true →
        laneHome s (opOf 30 .gather (.gather scatterA)) (scatterA.ea.getD i 0) (scatterA.data.getD i []).length .ewr) ∧
    (let s := sLines .gather (.gather gatherA)
     AtWork s (opOf 30 .gather (.gather gatherA)) ∧ s.gatherReady 30 = true ∧ 0 < gatherA.size ∧
      ∀ i, i < 64 → gatherA.notDone.getLsbD i = true →
        laneHome s (opOf 30 .gather (.gather gatherA)) (gatherA.ea.getD i 0) gatherA.size .rd ∧
        s.homeDie 1 ((gatherA.ea.getD i 0).toNat / 128) = dieOf 0) ∧
    (let s := sLines .gatom (.gatom atomA)
     let o := opOf 30 .gatom (.gatom atomA)
     AtWork s o ∧ Oldest s o ∧ s.gatomReady 30 = true ∧ atomA.old.length = 64 ∧
      (∀ i, (atomA.b.getD i 0).toNat < 2 ^ 32 ∧ (atomA.c.getD i 0).toNat < 2 ^ 32) ∧
      (∀ i, i < 64 → atomA.notDone.getLsbD i = true → laneHome s o (atomA.ea.getD i 0) 4 .ermw) ∧
      ∃ w f, mget s.waves 7 = some w ∧ mget w.frames 0 = some f ∧ rangeIn f (.v 119) 1) ∧
    (let s := sLines .gatom (.gchunk chunkA) [0, 0, 0, 0, 9]
     let o := opOf 30 .gatom (.gchunk chunkA)
     AtWork s o ∧ Oldest s o ∧ s.chunkReady 30 = true ∧ laneHome s o 0 64 .ermw ∧
      ∀ k, 16 ≤ k → (((lineData s 1 0).drop 0).take 64).getD k 0 = 0) ∧
    (let s := sLines .gatom (.gchunk chunkA) (List.replicate 17 1)
     s.chunkReady 30 = true ∧ laneHome s (opOf 30 .gatom (.gchunk chunkA)) 0 64 .ermw ∧
      (((lineData s 1 0).drop 0).take 64).getD 16 0 ≠ 0) ∧
    (let s := sLines .matrix (.mat (streamOp .s8))
     let o := opOf 30 .matrix (.mat (streamOp .s8))
     AtWork s o ∧ s.streamEnds 30 = true ∧ streamOk s o (streamOp .s8) intStream ∧
      ∃ w f, mget s.waves 7 = some w ∧ mget w.frames 0 = some f ∧ 56 + 64 ≤ f.regs.length) ∧
    (let s := sLines .matrix (.mat (streamOp .bf16))
     AtWork s (opOf 30 .matrix (.mat (streamOp .bf16))) ∧ Oldest s (opOf 30 .matrix (.mat (streamOp .bf16))) ∧
      s.streamEnds 30 = true ∧ intStream.fmt ≠ (streamOp .bf16).fmt) := by
  refine ⟨⟨rfl, by decide +kernel, by decide +kernel, by decide +kernel, by decide +kernel, by decide +kernel, by decide +kernel, rfl,
      by decide +kernel, ⟨0, by decide +kernel⟩, by decide +kernel, by decide +kernel, home_of (by decide +kernel)⟩,
    ⟨by decide +kernel, by decide +kernel, by decide +kernel, by decide +kernel, by decide +kernel, by decide +kernel, by decide +kernel,
      home_of (by decide +kernel)⟩,
    ⟨(Layout.ofNat recC).getD layA, by decide +kernel, by decide +kernel, by decide +kernel, by decide +kernel⟩,
    ⟨atWork_of _ _ _, by decide +kernel, rfl, two_lanes ⟨by decide +kernel, by decide +kernel, home_of (by decide +kernel)⟩
      ⟨by decide +kernel, by decide +kernel, home_of (by decide +kernel)⟩⟩,
    ⟨atWork_of _ _ _, by decide +kernel, by decide, two_lanes
      ⟨⟨by decide +kernel, by decide +kernel, home_of (by decide +kernel)⟩, by decide +kernel⟩
      ⟨⟨by decide +kernel, by decide +kernel, home_of (by decide +kernel)⟩, by decide +kernel⟩⟩,
    ⟨atWork_of _ _ _, oldest_of _ _ _, by decide +kernel, by decide, ?_, two_lanes
      ⟨by decide +kernel, by decide +kernel, home_of (by decide +kernel)⟩ ⟨by decide +kernel, by decide +kernel, home_of (by decide +kernel)⟩,
      _, _, rfl, rfl, by show 119 + 1 ≤ _; decide⟩,
    ⟨atWork_of _ _ _, oldest_of _ _ _, by decide +kernel, ⟨by decide +kernel, by decide +kernel, home_of (by decide +kernel)⟩, ?_⟩,
    ⟨by decide +kernel, ⟨by decide +kernel, by decide +kernel, home_of (by decide +kernel)⟩, by decide +kernel⟩,
    ⟨atWork_of _ _ _, by decide +kernel, ⟨rfl, by decide, ?_, ?_⟩, _, _, rfl, rfl, by decide⟩,
    ⟨atWork_of _ _ _, oldest_of _ _ _, by decide +kernel, by decide⟩⟩
  · intro i
    simp only [atomA, List.getD_eq_getElem?_getD, List.getElem?_replicate]
    split <;> decide
  · intro k h
    rcases Nat.lt_or_ge k 64 with hk | hk
    · exact (by decide +kernel : ∀ k, k < 64 → 16 ≤ k →
        (((lineData (sLines .gatom (.gchunk chunkA) [0, 0, 0, 0, 9]) 1 0).drop 0).take 64).getD k 0 = 0) k hk h
    · rw [List.getD_eq_getElem?_getD, List.getElem?_eq_none (by simp; omega)]; rfl
  · intro i hi _
    show ((List.replicate 64 (List.replicate 256 (1 : Byte))).getD i []).length = 256
    rw [List.getD_eq_getElem?_getD, List.getElem?_replicate, if_pos hi]
    exact List.length_replicate
  · intro _ i n j
    refine ⟨?_, ?_⟩
    · show ((List.replicate 64 ([] : List Byte)).getD i []).getD j 0x7F#8 = 0x7F#8
      rw [List.getD_eq_getElem?_getD (i := i), List.getElem?_replicate]
      split <;> simp
    · exact cread_nil _ _ _ _

/-- A wave of the group, stopped. -/
def stoppedW : Wave := { w0 with life := .stopped, live := 0 }
/-- A launch of one group. -/
def launchA : Launch := ⟨40, 1, 20, 1, 0, 0, 0, 1, 1, 0, 1, false, false, []⟩
/-- The bin of its batch; its kernel's descriptor stands at address 0. -/
def binL : Bin := { binA with next := 1, batches := [⟨0, 1, true, 0, some 40, 16, 0, []⟩] }
/-- A package whose queue 0 has a launch, on one cluster. -/
def sQueue (l : Launch) (q : LQueue) : State :=
  { mapped s0 (leBytes 64 (0x474B + 2 ^ 16 + 2 ^ 96)) with
    wave := .off, grp := .off, runs := [(20, runA binL)], launches := [(40, l)]
    ctxs := [(1, { fetchCtx with lq := [(0, { q with launches := [40] })] })], parts := [(0, { Part.zero with clusters := 1 })]
    names := 50 }
/-- What the launcher chooses there. -/
def readyA (n : Next) : Ready := ⟨1, 0, 2, false, n⟩

theorem kernel_found {s : State} {ctx : Nat} {va : Dword} (h : (s.readKernel ctx va).2.isSome = true) :
    ∃ u k pl, s.readKernel ctx va = (u, some (k, pl)) := by
  generalize hx : s.readKernel ctx va = x at h
  match x, h with
  | (u, some (k, pl)), _ => exact ⟨u, k, pl, rfl⟩

theorem witness_WavesAndLauncher :
    (let s := sOut { w0 with life := .waiting }
     s.wave.name = 0 ∧ s.waveStarts 7 = true ∧ mget s.groups 5 = some (fetchGroup 5) ∧ s.grp.name = 0) ∧
    ((sOut w0).wave.name = 0 ∧ (sOut w0).waveStarts 7 = false) ∧
    (let s := { sOut stoppedW with waves := [(7, stoppedW), (8, { w0 with name := 8, index := 191 })] }
     Present s 7 stoppedW ∧ s.waveRetires 7 = true ∧ mget s.waves 8 = some { w0 with name := 8, index := 191 }) ∧
    (Present (sOut stoppedW) 7 stoppedW ∧ (sOut stoppedW).waveRetires 7 = true ∧
      (∀ p, p ∈ (sOut stoppedW).waves → p.2.group = 5 → p.1 ≠ 7 → p.2.life = .done) ∧ mwf (sOut stoppedW).groups = true ∧
      mwf (sOut stoppedW).waves = true ∧ (groupOf (sOut stoppedW) stoppedW).name = stoppedW.group) ∧
    (Present (sOut w0) 7 w0 ∧ (sOut w0).waveRetires 7 = false) ∧
    (let s := sQueue launchA queueA
     s.wave.name = 0 ∧ s.choice 0 = some (readyA (.fresh 40), [0], 0, 0) ∧ mget s.launches 40 = some launchA ∧
       s.binAt 20 0 = some binL ∧ binL.batchOf 40 = some ⟨0, 1, true, 0, some 40, 16, 0, []⟩ ∧
       ∃ u k pl, s.readKernel 1 binL.node.kernel = (u, some (k, pl))) ∧
    (sOut w0).choice 0 = none ∧
    (let b : Bin := { binA with copy := some { nodeA with coalesce := 4095, timer := 1 }, next := 1, batches := [⟨0, 1, false, 0, none, 16, 0, []⟩] }
     let s : State := { sQueue launchA queueA with runs := [(20, runA b)], time := 16000 }
     mget s.runs 20 = some (runA b) ∧ (runA b).name = 20 ∧ mget (runA b).bins 0 = some b ∧
       b.batches.getLast? = some ⟨0, 1, false, 0, none, 16, 0, []⟩ ∧ s.binDue 20 0 = true ∧
       ({ s with time := 15999 } : State).binDue 20 0 = false) ∧
    (let l : LQueue := { queueA with eff := 6, readyFrom := some 0, passFrom := some 0 }
     let s := sQueue launchA l
     s.queueAt 1 0 = some { l with launches := [40] } ∧ ({ s with time := 64000000 } : State).agingDue 1 0 = true ∧
       ({ s with time := 63999999 } : State).agingDue 1 0 = false ∧ ({ s with time := 16000000 } : State).reservingDue 1 0 = true ∧
       ({ s with time := 15999999 } : State).reservingDue 1 0 = false) :=
  ⟨⟨rfl, by decide +kernel, rfl, rfl⟩, ⟨rfl, by decide +kernel⟩,
   ⟨⟨rfl, by decide, rfl, rfl, rfl⟩, by decide +kernel, rfl⟩,
   ⟨present0 _ rfl rfl, by decide +kernel, by decide +kernel, rfl, rfl, by decide +kernel⟩, ⟨present0 _ rfl rfl, by decide +kernel⟩,
   ⟨rfl, by decide +kernel, rfl, by decide +kernel, by decide +kernel, kernel_found (by decide +kernel)⟩, by decide +kernel,
   ⟨rfl, rfl, rfl, rfl, by decide +kernel, by decide +kernel⟩,
   by decide +kernel, by decide +kernel, by decide +kernel, by decide +kernel, by decide +kernel⟩

theorem takes_room {s : State} {g : Group} {c : Ctx} (h : mget s.ctxs g.ctx = some c)
    (r : roomAt c.saveUsed (c.saveKib * 1024) (s.imageRoom g) 0 = true) : (s.takeRoom g).2 = true := by
  have p : (pickRoom (Config.imageOffset s.oracle (c.saveKib * 1024) (s.imageRoom g)) (c.saveKib * 1024) (s.imageRoom g)
      c.saveUsed).isSome = true := by
    unfold pickRoom
    rw [List.find?_isSome]
    exact ⟨0, by simp, r⟩
  obtain ⟨o, ho⟩ := Option.isSome_iff_exists.mp p
  unfold State.takeRoom
  rw [h]
  simp only [ho]

theorem no_room {s : State} {g : Group} {c : Ctx} (h : mget s.ctxs g.ctx = some c)
    (r : c.saveKib * 1024 < s.imageRoom g) : (s.takeRoom g).2 = false := by
  have p : pickRoom (Config.imageOffset s.oracle (c.saveKib * 1024) (s.imageRoom g)) (c.saveKib * 1024) (s.imageRoom g)
      c.saveUsed = none := by
    unfold pickRoom
    rw [List.find?_eq_none]
    intro x _ hx
    simp only [roomAt, Bool.and_eq_true, decide_eq_true_eq] at hx
    omega
  unfold State.takeRoom
  rw [h]
  simp only [p]

/-- Group 5 is in the way of a queue that has reserved for 2 ms; its context can save n KiB. -/
def sPre (n : Nat) : State :=
  let s := sQueue launchA { queueA with reserving := some 0 }
  { s with
    waves := [(7, w0)], groups := [(5, fetchGroup 5)], time := 32000000
    ctxs := s.ctxs.map (fun p => (p.1, { p.2 with saveKib := n })) }
/-- Group 5 with a state and the given operations. -/
def sGroup (st : GState) (l : List EngineOp) : State :=
  { sPre 0 with groups := [(5, { fetchGroup 5 with state := st })], ops := l }
/-- Group 5 saved, its launch waiting to place it again; its image cannot be read. -/
def sSaved : State :=
  let s := sQueue { launchA with started := 1, restore := [5] } queueA
  { s with groups := [(5, { fetchGroup 5 with state := .saved, launch := 40, image := 0x40000000, imageLen := 64 })] }

theorem witness_GroupPreemption :
    (Unfocused (sPre 4096) ∧ mget (sPre 4096).groups 5 = some (fetchGroup 5) ∧ (fetchGroup 5).name = 5 ∧
      (sPre 4096).preemptDue 5 = true ∧ ((sPre 4096).takeRoom (fetchGroup 5)).2 = true) ∧
    ((sPre 0).preemptDue 5 = true ∧ ((sPre 0).takeRoom (fetchGroup 5)).2 = false) ∧
    ({ sPre 0 with time := 31999999 } : State).preemptDue 5 = false ∧
    (let s := sGroup (.draining 1 0x0703 false) []
     mget s.groups 5 = some { fetchGroup 5 with state := .draining 1 0x0703 false } ∧ s.chainStuck 5 = false ∧
       s.drained { fetchGroup 5 with state := .draining 1 0x0703 false } = true) ∧
    (let s := sGroup (.draining 0 0 true) [opOf 30 .bcopy (.copy { copyA (some recA) with sent := [0] })]
     s.chainStuck 5 = false ∧ s.drained { fetchGroup 5 with state := .draining 0 0 true } = false) ∧
    (Unfocused sSaved ∧ (mget sSaved.groups 5).isSome = true ∧ sSaved.choice 0 = some (readyA (.restore 5), [0], 0, 0) ∧
      ((sSaved.modLaunch 40 (fun l => { l with restore := l.restore.filter (· != 5) })).launcherRead 1
        (0x40000000#64 &&& 0x1FFFFFFFFFFFFF#64) 64).2 = none) ∧
    (let s := { sQueue launchA queueA with groups := [(5, { fetchGroup 5 with state := .saved })] }
     Unfocused s ∧ s.choice 0 = some (readyA (.fresh 40), [0], 0, 0) ∧ (readyA (.fresh 40)).next ≠ .restore 5) :=
  ⟨⟨⟨rfl, rfl⟩, rfl, rfl, by decide +kernel, takes_room rfl (by decide +kernel)⟩, ⟨by decide +kernel, no_room rfl (by decide +kernel)⟩,
   by decide +kernel, ⟨rfl, by decide +kernel, by decide +kernel⟩, by decide +kernel,
   ⟨⟨rfl, rfl⟩, rfl, by decide +kernel, by decide +kernel⟩, ⟨rfl, rfl⟩, by decide +kernel, by decide⟩

/-- The head of ring 0 of context 1. -/
def srcA : RingSrc := ⟨1, 0, 77⟩
/-- The ring: its control block stands at address 0, with TAIL 1, the entries at address 64, and LOG2 1. -/
def ringA (i : Option Instr) : Ring := ⟨0, 0, i, 0, 0⟩
/-- The bytes of that block. -/
def blockA : List Byte := leBytes 64 (2 ^ 160 + 64 * 2 ^ 64 + 2 ^ 32)
/-- A context of a live partition with that ring, queue 0 and a group in a state. -/
def sRing (i : Option Instr) (st : GState := .running) : State :=
  { mapped s0 blockA with
    wave := .off, grp := .off, waves := [(7, w0)], groups := [(5, { fetchGroup 5 with state := st })]
    parts := [(0, { Part.zero with clusters := 1 })], runs := [(20, runA { binA with frozen := some (1, 0, 0) })]
    ctxs := [(1, { fetchCtx with rings := [(0, ringA i)], lq := [(0, queueA)], saveKib := 4096 })] }
/-- A launch command of a graph. -/
def cmdA (graph : Dword) : LaunchCmd := ⟨graph, 0, 0, 0, 0, 0, false, false⟩

theorem entry_found {s : State} {ctx q : Nat} (x : Nat) (h : (s.ringEntry ctx q).2 = some x) :
    ∃ u, s.ringEntry ctx q = (u, some x) := ⟨(s.ringEntry ctx q).1, by rw [← h]⟩

theorem witness_RingCommands :
    (Unfocused (sRing (some (.ringNop srcA))) ∧ ringOf (sRing (some (.ringNop srcA))) 1 0 = some (ringA (some (.ringNop srcA))) ∧
      (sRing (some (.ringNop srcA))).atRing srcA (.ringNop srcA) = true ∧ (sRing none).atRing srcA (.ringNop srcA) = false) ∧
    ((sRing (some (.preempt srcA 9))).atRing srcA (.preempt srcA 9) = true ∧ (sRing none).groupId 1 9 = none) ∧
    (let s := sRing (some (.preempt srcA 1))
     (s.groupId 1 1).map Group.name = some 5 ∧ (mget s.groups 5).isSome = true ∧ s.atRing srcA (.preempt srcA 1) = true ∧
       (s.takeRoom { fetchGroup 5 with state := .running }).2 = true) ∧
    (let s := sRing (some (.groupDiscard srcA 1))
     s.atRing srcA (.groupDiscard srcA 1) = true ∧ (s.groupId 1 1).map Group.state = some .running) ∧
    (let s := sRing (some (.groupResume srcA 1 true)) (.heldInPlace 0x0703)
     s.atRing srcA (.groupResume srcA 1 true) = true ∧ (s.groupId 1 1).map Group.state = some (.heldInPlace 0x0703)) ∧
    (let s := { sRing (some (.faultResume srcA 0x2000 false)) with ops := [{ opOf 30 .bcopy .empty with state := .parked 0x3FFF }] }
     s.atRing srcA (.faultResume srcA 0x2000 false) = true ∧ (s.ops[0]?).map EngineOp.state = some (.parked 0x3FFF) ∧
       (mget s.groups 5).map Group.ctx = some 1 ∧ (0x3FFF : Dword).toNat / 8192 = (0x2000 : Dword).toNat / 8192 ∧
       (0x3FFF : Dword).toNat / 8192 ≠ (0x4000 : Dword).toNat / 8192) ∧
    (let s := sRing (some (.thawBin srcA 5 0 false))
     let r := runA { binA with frozen := some (1, 0, 0) }
     s.atRing srcA (.thawBin srcA 5 0 false) = true ∧ (s.runs.map Prod.snd).find? (fun r => r.ctx == 1 && r.number == 5) = some r ∧
       0 < r.nodes ∧ mget s.runs 20 = some r ∧ (∀ p, p ∈ s.runs → p.2.name = 20 → p.2 = r) ∧ mwf r.bins = true ∧
       mget r.bins 0 = some { binA with frozen := some (1, 0, 0) } ∧ s.heldOf 20 0 = [] ∧ binA.node.good = true) ∧
    ((sRing (some (.thawBin srcA 6 0 true))).runs.map Prod.snd).find? (fun r => r.ctx == 1 && r.number == 6) = none ∧
    (let s := sRing (some (.launchGraph srcA (cmdA 0x40)))
     (mget s.ctxs 1).isSome = true ∧ s.pendingRun srcA = none ∧ s.launchReady srcA (cmdA 0x40) = true ∧
       (s.graphOf 1 (cmdA 0x40)).2 = some (1, 0, 0)) ∧
    (let s := sRing (some (.launchGraph srcA (cmdA 0x40000000)))
     s.launchReady srcA (cmdA 0x40000000) = true ∧ (s.graphOf 1 (cmdA 0x40000000)).2 = none) ∧
    (ringOf (sRing none) 1 0 = some (ringA none) ∧ (∃ u, (sRing none).ringEntry 1 0 = (u, some 0)) ∧
      (0 : Nat) ≠ 16 ∧ queueEntry ⟨1, 0, 5⟩ 0 = some (.ringNop ⟨1, 0, 5⟩)) ∧
    ((sRing (some (.ringNop srcA))).ringEntry 1 0).2 = none :=
  ⟨⟨⟨rfl, rfl⟩, by decide +kernel, by decide +kernel, by decide +kernel⟩, ⟨by decide +kernel, by decide +kernel⟩,
   ⟨by decide +kernel, by decide +kernel, by decide +kernel, takes_room rfl (by decide +kernel)⟩,
   ⟨by decide +kernel, by decide +kernel⟩, ⟨by decide +kernel, by decide +kernel⟩,
   ⟨by decide +kernel, by decide +kernel, by decide +kernel, by decide, by decide⟩,
   ⟨by decide +kernel, by decide +kernel, by decide, by decide +kernel, by decide +kernel, by decide, by decide +kernel, by decide +kernel, by decide⟩,
   by decide +kernel, ⟨by decide +kernel, by decide +kernel, by decide +kernel, by decide +kernel⟩,
   ⟨by decide +kernel, by decide +kernel⟩, ⟨by decide +kernel, entry_found 0 (by decide +kernel), by decide, by decide +kernel⟩,
   by decide +kernel⟩

/-- A command of partition p; its result record goes to address 0x1000. -/
def srcC (p : Nat) : CtlSrc := ⟨p, 77, 0x1000⟩
/-- A command at the head of the ring of context 1, the control context of partition p, which also has context 2; the buffer at
address 0 holds some bytes. -/
def sCtl (p : Nat) (i : Option Instr) (b : List Byte) : State :=
  { mapped s0 b with
    wave := .off, grp := .off
    parts := (if p = 0 then [] else [(0, { Part.zero with clusters := 2 })]) ++ [(p, { Part.zero with ctrlCtx := 1, clusters := 1, qpMax := 255 })]
    ctxs := [(1, { fetchCtx with part := p, control := true, rings := [(16, ⟨0x800, 0, i, 0, 0⟩)] }), (2, { fetchCtx with id := 2, part := p })] }

theorem read_found {s : State} {src : CtlSrc} {a : Dword} {n : Nat} (b : List Byte) (h : (s.ctlRead src a n).2 = some b) :
    ∃ u, s.ctlRead src a n = (u, some b) := ⟨(s.ctlRead src a n).1, by rw [← h]⟩

theorem read_with {s : State} {src : CtlSrc} {a : Dword} {n : Nat} {P : State → Prop} (b : List Byte)
    (h : (s.ctlRead src a n).2 = some b) (p : P (s.ctlRead src a n).1) : ∃ u, s.ctlRead src a n = (u, some b) ∧ P u :=
  ⟨(s.ctlRead src a n).1, by rw [← h], p⟩

theorem begins_of {s : State} {src : CtlSrc} {i : Instr} (a : s.wave.name = 0 ∧ s.grp.name = 0) (b : s.atCtl src i = true)
    (c : s.resultOk src = true) : Begins s src i := ⟨a, b, c⟩

theorem witness_ControlCommandFrame :
    ((sCtl 0 none []).wave.name = 0 ∧ ctlName (.partReset (srcC 0) 1) = some (srcC 0, "PART_RESET") ∧
      (sCtl 0 none []).atCtl (srcC 0) (.partReset (srcC 0) 1) = false) ∧
    (let src : CtlSrc := ⟨0, 77, 0x40000000⟩
     let s := sCtl 0 (some (.tlbInval src 2 0 1 false)) []
     s.atCtl src (.tlbInval src 2 0 1 false) = true ∧ s.resultOk src = false) ∧
    (let i : Instr := .tlbInval (srcC 0) 4095 0 1 false
     let s := sCtl 0 (some i) []
     s.atCtl (srcC 0) i = true ∧ s.resultOk (srcC 0) = true ∧ ctlCtx i = some 4095 ∧ (taken s (srcC 0)).ownsCtx 0 4095 = false) ∧
    (let i : Instr := .partReset (srcC 1) 1
     let s := sCtl 1 (some i) []
     s.atCtl (srcC 1) i = true ∧ s.resultOk (srcC 1) = true ∧ ofManagement i = true ∧ (srcC 1).part ≠ 0) :=
  ⟨⟨rfl, rfl, by decide +kernel⟩, ⟨by decide +kernel, by decide +kernel⟩,
   ⟨by decide +kernel, by decide +kernel, rfl, by decide +kernel⟩, by decide +kernel, by decide +kernel, rfl, by decide⟩

/-- A context descriptor of context 9 for partition 0 (R306), and one without its mark. -/
def descA : List Byte := leBytes 64 (0x14358 + 9 * 2 ^ 32)

theorem witness_ContextCommands :
    (let s := sCtl 0 (some (.ctxCreate (srcC 0) 0)) descA
     Begins s (srcC 0) (.ctxCreate (srcC 0) 0) ∧ (∃ u, (taken s (srcC 0)).ctlRead (srcC 0) 0 64 = (u, some descA)) ∧
       ctxDescOk (leNat descA) 0 = true ∧ mget s.ctxs (bits (leNat descA) 43 32) = none) ∧
    (let s := sCtl 0 (some (.ctxCreate (srcC 0) 0)) []
     Begins s (srcC 0) (.ctxCreate (srcC 0) 0) ∧ (∃ u, (taken s (srcC 0)).ctlRead (srcC 0) 0 64 = (u, some (leBytes 64 0))) ∧
       ctxDescOk (leNat (leBytes 64 0)) 0 = false) ∧
    (∃ c, let s := sCtl 0 (some (.ctxDestroy (srcC 0) 2)) []
      Unfocused s ∧ mget s.ctxs 2 = some c ∧ c.part = 0 ∧ c.control = false ∧ c.ending = false ∧ s.resultOk (srcC 0) = true ∧
        s.atCtl (srcC 0) (.ctxDestroy (srcC 0) 2) = true) ∧
    (∃ c, let t := sCtl 0 (some (.ctxDestroy (srcC 0) 2)) []
      let s : State := { t with ctxs := t.ctxs.map (fun p => (p.1, if p.1 = 2 then { p.2 with ending := true } else p.2)) }
      mget s.ctxs 2 = some c ∧ c.ending = true ∧ s.atCtl (srcC 0) (.ctxDestroy (srcC 0) 2) = true ∧ s.ctxQuiet 2 = true ∧
        mwf s.ctxs = true) ∧
    (sCtl 0 none []).atCtl (srcC 0) (.ctxDestroy (srcC 0) 2) = false ∧
    (let i : Instr := .tlbInval (srcC 0) 2 0xFFFFFFFFFF 1 true
     Begins (sCtl 0 (some i) []) (srcC 0) i ∧ (taken (sCtl 0 (some i) []) (srcC 0)).ownsCtx 0 2 = true) ∧
    (let s := { sCtl 0 none [] with invals := [⟨5, srcC 0, 2⟩] }
     s.wave.name = 0 ∧ s.invals.find? (fun x => x.name == 5) = some ⟨5, srcC 0, 2⟩ ∧ s.invals.find? (fun x => x.name == 6) = none) ∧
    (∃ c, let i : Instr := .watchSet (srcC 0) 2 0 0xFFFFFFFF 1
      Begins (sCtl 0 (some i) []) (srcC 0) i ∧ (taken (sCtl 0 (some i) []) (srcC 0)).ownsCtx 0 2 = true ∧
        mget (sCtl 0 (some i) []).ctxs 2 = some c) ∧
    (let i : Instr := .notifySet (srcC 0) 2 0 0 255
     Begins (sCtl 0 (some i) []) (srcC 0) i ∧ (taken (sCtl 0 (some i) []) (srcC 0)).ownsCtx 0 2 = true ∧
       255 ≤ ((mget (sCtl 0 (some i) []).parts 0).map Part.qpMax).getD 0) ∧
    (let i : Instr := .commSet (srcC 0) 65535 0 1
     let s := sCtl 0 (some i) (leBytes 8 (2 * 2 ^ 16))
     Begins s (srcC 0) i ∧ (∃ u, (taken s (srcC 0)).ctlRead (srcC 0) 0 (8 * 1) = (u, some (leBytes 8 (2 * 2 ^ 16))) ∧
         u.ownsCtx 0 2 = true) ∧
       ranksOf 1 (leBytes 8 (2 * 2 ^ 16)) = some [(0, 2)] ∧ s.hub.config.device = 0 ∧ mget s.comms 65535 = none) ∧
    (let i : Instr := .routeSet (srcC 0) 1023 0
     let s := sCtl 0 (some i) [127, 128]
     Begins s (srcC 0) i ∧ ∃ u, (taken s (srcC 0)).ctlRead (srcC 0) 0 8 = (u, some [127, 128, 0, 0, 0, 0, 0, 0])) :=
  ⟨⟨begins_of ⟨rfl, rfl⟩ (by decide +kernel) (by decide +kernel), read_found _ (by decide +kernel), by decide +kernel, by decide +kernel⟩,
   ⟨begins_of ⟨rfl, rfl⟩ (by decide +kernel) (by decide +kernel), read_found _ (by decide +kernel), by decide +kernel⟩,
   ⟨_, ⟨rfl, rfl⟩, rfl, rfl, rfl, rfl, by decide +kernel, by decide +kernel⟩, ⟨_, rfl, rfl, by decide +kernel, by decide +kernel, rfl⟩,
   by decide +kernel, ⟨begins_of ⟨rfl, rfl⟩ (by decide +kernel) (by decide +kernel), by decide +kernel⟩, ⟨rfl, rfl, rfl⟩,
   ⟨_, begins_of ⟨rfl, rfl⟩ (by decide +kernel) (by decide +kernel), by decide +kernel, rfl⟩,
   ⟨begins_of ⟨rfl, rfl⟩ (by decide +kernel) (by decide +kernel), by decide +kernel, by decide +kernel⟩,
   ⟨begins_of ⟨rfl, rfl⟩ (by decide +kernel) (by decide +kernel),
     read_with _ (by decide +kernel) (by decide +kernel), by decide +kernel, by decide +kernel, by decide +kernel⟩,
   begins_of ⟨rfl, rfl⟩ (by decide +kernel) (by decide +kernel), read_found _ (by decide +kernel)⟩

/-- A valid window entry of one page, with RD (R360). -/
def winA : List Byte := leBytes 16 (2 ^ 88 + 3)
/-- An attribute block (R398): its mark, TIMEOUT 1, MAX_RD 1, MTU 1, and the immediate word at address 0x1100. -/
def attrA : List Byte := leBytes 64 (0x15150 + 2 ^ 173 + 2 ^ 187 + 2 ^ 192 + 0x1100 * 2 ^ 448)
/-- An inbound entry of context 2. -/
def inA (o : Bool) (r : Option CtlSrc) : Inbound := ⟨2, 1023, 3, 4095, 4095, o, r, false⟩

theorem witness_WindowCommands :
    (let i : Instr := .windowSet (srcC 0) 2 4095 0
     let s := sCtl 0 (some i) winA
     Begins s (srcC 0) i ∧ (taken s (srcC 0)).ownsCtx 0 2 = true ∧
       (∃ u, (taken s (srcC 0)).ctlRead (srcC 0) 0 16 = (u, some winA)) ∧ (winOf (leNat winA)).v = true ∧ (winOf (leNat winA)).pages ≠ 0) ∧
    (let i : Instr := .windowSet (srcC 0) 2 0 0
     let s := sCtl 0 (some i) winA
     Begins s (srcC 0) i ∧ ∃ u, (taken s (srcC 0)).ctlRead (srcC 0) 0 16 = (u, some winA)) ∧
    (let i : Instr := .windowAccept (srcC 0) 2 1023 3 4095
     Begins (sCtl 0 (some i) []) (srcC 0) i ∧ (taken (sCtl 0 (some i) []) (srcC 0)).ownsCtx 0 2 = true ∧
       (sCtl 0 (some i) []).inboundAt 1023 3 4095 = none ∧
       (let s : State := { sCtl 0 (some i) [] with inbound := [inA false none] }
        Begins s (srcC 0) i ∧ s.inboundAt 1023 3 4095 = some (inA false none))) ∧
    (let i : Instr := .windowRetire (srcC 0) 2 1023 3 4095
     let s : State := { sCtl 0 (some i) [] with inbound := [inA true none] }
     Begins s (srcC 0) i ∧ (taken s (srcC 0)).ownsCtx 0 2 = true ∧ s.inboundAt 1023 3 4095 = some (inA true none)) ∧
    (let s : State := { sCtl 0 none [] with inbound := [inA false (some (srcC 0))] }
     s.wave.name = 0 ∧ s.inbound[0]? = some (inA false (some (srcC 0))) ∧ ∀ b, s.inbound[1]? = some b → b.retiring = none) ∧
    (let i : Instr := .hostwinSet (srcC 0) 2 63 0
     let s := sCtl 0 (some i) [15]
     Begins s (srcC 0) i ∧ (taken s (srcC 0)).ownsCtx 0 2 = true ∧
       (∃ u, (taken s (srcC 0)).ctlRead (srcC 0) 0 32 = (u, some (leBytes 32 15))) ∧ bits (leNat (leBytes 32 15)) 111 4 = 0) ∧
    (let i : Instr := .hostwinSet (srcC 0) 2 63 0
     let s := sCtl 0 (some i) [16]
     Begins s (srcC 0) i ∧ (∃ u, (taken s (srcC 0)).ctlRead (srcC 0) 0 32 = (u, some (leBytes 32 16))) ∧
       bits (leNat (leBytes 32 16)) 111 4 ≠ 0) ∧
    (let i : Instr := .qpSet (srcC 0) 255 true 0 0
     let s := sCtl 0 (some i) attrA
     Begins s (srcC 0) i ∧ (∃ u, (taken s (srcC 0)).ctlRead (srcC 0) 0 64 = (u, some attrA) ∧
         u.ownsCtx 0 ((taken s (srcC 0)).ctrlOf 0) = true ∧ u.writable ((taken s (srcC 0)).ctrlOf 0) 0x1100 4 = true ∧
         255 ≤ ((mget u.parts 0).map Part.qpMax).getD 0) ∧
       attrBad (leNat attrA) = false ∧ tableVa (BitVec.ofNat 64 (bits (leNat attrA) 511 448)) = some 0x1100) :=
  ⟨⟨begins_of ⟨rfl, rfl⟩ (by decide +kernel) (by decide +kernel), by decide +kernel, read_found _ (by decide +kernel), by decide +kernel,
     by decide +kernel⟩,
   ⟨begins_of ⟨rfl, rfl⟩ (by decide +kernel) (by decide +kernel), read_found _ (by decide +kernel)⟩,
   ⟨begins_of ⟨rfl, rfl⟩ (by decide +kernel) (by decide +kernel), by decide +kernel, rfl,
     begins_of ⟨rfl, rfl⟩ (by decide +kernel) (by decide +kernel), by decide +kernel⟩,
   ⟨begins_of ⟨rfl, rfl⟩ (by decide +kernel) (by decide +kernel), by decide +kernel, by decide +kernel⟩,
   ⟨rfl, rfl, fun b h => nomatch h⟩,
   ⟨begins_of ⟨rfl, rfl⟩ (by decide +kernel) (by decide +kernel), by decide +kernel, read_found _ (by decide +kernel), by decide +kernel⟩,
   ⟨begins_of ⟨rfl, rfl⟩ (by decide +kernel) (by decide +kernel), read_found _ (by decide +kernel), by decide +kernel⟩,
   begins_of ⟨rfl, rfl⟩ (by decide +kernel) (by decide +kernel), read_with _ (by decide +kernel) (by decide +kernel), by decide +kernel,
   by decide +kernel⟩

theorem writes {s : State} {src : CtlSrc} {a : Dword} {b : List Byte} {va n : Nat} (h : tableVa a = some va)
    (l : b.length = n) (w : s.writable (s.ctrlOf src.part) va n = true) : ∃ v, s.ctlWrite src a b = (v, true) := by
  subst l
  unfold State.ctlWrite
  simp [h, w]

theorem reading_length (s : State) (p : Nat) (c : Option Nat) (r : Nat) : (s.takeReading p c r).2.length = 4864 := by
  show (List.take 4864 (_ ++ zeros 4864)).length = 4864
  rw [List.length_take, List.length_append, show (zeros 4864).length = 4864 from List.length_replicate]
  omega

theorem reads_out {s : State} {src : CtlSrc} {p : Nat} {c : Option Nat} {a : Dword} {va : Nat} (h : tableVa a = some va)
    (w : (s.takeReading p c 0).1.writable ((s.takeReading p c 0).1.ctrlOf src.part) va 4864 = true) :
    ∃ u v b, s.takeReading p c 0 = (u, b) ∧ u.ctlWrite src a b = (v, true) := by
  obtain ⟨v, hv⟩ := writes (s := (s.takeReading p c 0).1) (src := src) (b := (s.takeReading p c 0).2) h (reading_length ..) w
  exact ⟨_, v, _, rfl, hv⟩

theorem witness_ReadoutCommands :
    (let i : Instr := .traceRead (srcC 0) 0 1 0x200
     let s := sCtl 0 (some i) []
     Begins s (srcC 0) i ∧ ∃ u ok, (taken s (srcC 0)).ctlWrite (srcC 0) 0x200 ((taken s (srcC 0)).tabor.readout 0 0 1) = (u, ok)) ∧
    (let i : Instr := .knell (srcC 0) 3 0 0x200 1
     Begins (sCtl 0 (some i) []) (srcC 0) i) ∧
    (let i : Instr := .knell (srcC 1) 2 0 0x200 1
     Begins (sCtl 1 (some i) []) (srcC 1) i ∧ (srcC 1).part ≠ 0) ∧
    (let i : Instr := .knell (srcC 0) 1 0 0x200 1
     let s := sCtl 0 (some i) []
     Begins s (srcC 0) i ∧ ∃ u b k cut,
       fitWaiters 1 (taken s (srcC 0)).time ((taken s (srcC 0)).waits.filter (fun w => w.part == (srcC 0).part)) 0 = (b, k, cut) ∧
       (taken s (srcC 0)).ctlWrite (srcC 0) 0x200 (leBytes 64 ((taken s (srcC 0)).time % 2 ^ 64 + (taken s (srcC 0)).time % 2 ^ 64 * 2 ^ 64 +
         k * 2 ^ 128 + b2n cut * 2 ^ 160) ++ b) = (u, true)) ∧
    (let i : Instr := .energyRead (srcC 0) 0xFFF 0
     let s := sCtl 0 (some i) []
     Begins s (srcC 0) i ∧ ∃ u v b, (taken s (srcC 0)).takeReading 0 none 0 = (u, b) ∧ u.ctlWrite (srcC 0) 0 b = (v, true)) ∧
    (let i : Instr := .energyRead (srcC 0) 2 0
     let s := sCtl 0 (some i) []
     Begins s (srcC 0) i ∧ (taken s (srcC 0)).ownsCtx 0 2 = true ∧
       ∃ u v b, (taken s (srcC 0)).takeReading 0 (some 2) 0 = (u, b) ∧ u.ctlWrite (srcC 0) 0 b = (v, true)) ∧
    (let i : Instr := .energyRead (srcC 0) 0xFFE 0
     Begins (sCtl 0 (some i) []) (srcC 0) i ∧ (taken (sCtl 0 (some i) []) (srcC 0)).ownsCtx 0 0xFFE = false) ∧
    (let i : Instr := .quote (srcC 0) 0 0x400
     let t := sCtl 0 (some i) []
     Begins { t with hub := { t.hub with erased := true } } (srcC 0) i ∧ Begins t (srcC 0) i ∧ t.hub.erased = false ∧
       ∃ u v b ok, (taken t (srcC 0)).ctlRead (srcC 0) 0 64 = (u, some b) ∧ u.ctlWrite (srcC 0) 0x400
         (u.quoteBody 0 b ++ u.signature (u.quoteBody 0 b) ++ Config.aliasKey u.aliasSeed) = (v, ok)) := by
  refine ⟨⟨begins_of ⟨rfl, rfl⟩ (by decide +kernel) (by decide +kernel), _, _, rfl⟩,
    begins_of ⟨rfl, rfl⟩ (by decide +kernel) (by decide +kernel), ⟨begins_of ⟨rfl, rfl⟩ (by decide +kernel) (by decide +kernel), by decide⟩,
    ⟨begins_of ⟨rfl, rfl⟩ (by decide +kernel) (by decide +kernel), ?_⟩,
    ⟨begins_of ⟨rfl, rfl⟩ (by decide +kernel) (by decide +kernel), reads_out (va := 0) (by decide) (by decide +kernel)⟩,
    ⟨begins_of ⟨rfl, rfl⟩ (by decide +kernel) (by decide +kernel), by decide +kernel, reads_out (va := 0) (by decide) (by decide +kernel)⟩,
    ⟨begins_of ⟨rfl, rfl⟩ (by decide +kernel) (by decide +kernel), by decide +kernel⟩,
    begins_of ⟨rfl, rfl⟩ (by decide +kernel) (by decide +kernel), begins_of ⟨rfl, rfl⟩ (by decide +kernel) (by decide +kernel),
    by decide +kernel, ?_⟩
  · obtain ⟨v, hv⟩ := writes (n := 64) (s := taken (sCtl 0 (some (.knell (srcC 0) 1 0 0x200 1)) []) (srcC 0)) (src := srcC 0)
      (a := 0x200) (va := 0x200) (b := leBytes 64 ((taken (sCtl 0 (some (.knell (srcC 0) 1 0 0x200 1)) []) (srcC 0)).time % 2 ^ 64 +
        (taken (sCtl 0 (some (.knell (srcC 0) 1 0 0x200 1)) []) (srcC 0)).time % 2 ^ 64 * 2 ^ 64 + 0 * 2 ^ 128 +
        b2n false * 2 ^ 160) ++ []) (by decide) (by decide +kernel) (by decide +kernel)
    exact ⟨v, [], 0, false, by decide +kernel, hv⟩
  · obtain ⟨u, hu⟩ := read_found (s := taken (sCtl 0 (some (.quote (srcC 0) 0 0x400)) []) (srcC 0)) (src := srcC 0) (a := 0) (n := 64)
      (leBytes 64 0) (by decide +kernel)
    exact ⟨u, _, _, _, hu, rfl⟩

/-- A partition record: its mark, control context 9, ELOG LOG2 1, cluster 64 and one unit of die 0 (R394). -/
def recP : List Byte := leBytes 64 (0x15052 + 9 * 2 ^ 104 + 2 ^ 124 + 2 ^ 192 + 127 * 2 ^ 256 + 2 ^ 264)

theorem read_some {s : State} {src : CtlSrc} {a : Dword} {n : Nat} (h : (s.ctlRead src a n).2.isSome = true) :
    ∃ u b, s.ctlRead src a n = (u, some b) := by
  obtain ⟨b, hb⟩ := Option.isSome_iff_exists.mp h
  exact ⟨_, b, by rw [← hb]⟩

/-- Partition 1 is being reset. -/
def sReset (d : Bool) (g : List (Nat × Group)) : State :=
  { sCtl 0 none [] with
    parts := [(0, { Part.zero with ctrlCtx := 1 }), (1, { Part.zero with ctrlCtx := 4095, clusters := 1 <<< 127, resetting := some (4, srcC 0, d) })]
    groups := g }

theorem witness_PartitionCommands :
    (let i : Instr := .partSet (srcC 0) 15 0
     let s := sCtl 0 (some i) recP
     Begins s (srcC 0) i ∧ (srcC 0).part = 0 ∧
       ∃ u, (taken s (srcC 0)).ctlRead (srcC 0) 0 64 = (u, some recP) ∧ u.partRefused 15 (leNat recP) = false) ∧
    (let i : Instr := .partSet (srcC 0) 0 0
     let s := sCtl 0 (some i) recP
     Begins s (srcC 0) i ∧ ∃ u, (taken s (srcC 0)).ctlRead (srcC 0) 0 64 = (u, some recP) ∧ u.partRefused 0 (leNat recP) = true) ∧
    (let i : Instr := .partReset (srcC 0) 0
     Begins (sCtl 0 (some i) []) (srcC 0) i) ∧
    (let i : Instr := .partDestroy (srcC 0) 1
     let t := sCtl 0 (some i) []
     let s : State := { t with parts := t.parts ++ [(1, Part.zero)] }
     Begins s (srcC 0) i ∧ mget s.parts 1 = some Part.zero) ∧
    (∃ x, Unfocused (sReset false []) ∧ mget (sReset false []).parts 1 = some x ∧ x.resetting = some (4, srcC 0, false) ∧
      (sReset false []).partQuiet 1 = true) ∧
    (∃ x, mget (sReset true []).parts 1 = some x ∧ x.resetting = some (4, srcC 0, true) ∧ (sReset true []).partQuiet 1 = true ∧
      mwf (sReset true []).parts = true) ∧
    (sReset true [(5, { fetchGroup 5 with part := 1 })]).partQuiet 1 = false ∧
    (let i : Instr := .configWrite (srcC 0) 0
     Begins (sCtl 0 (some i) []) (srcC 0) i ∧
       ∃ u b, (taken (sCtl 0 (some i) []) (srcC 0)).ctlRead (srcC 0) 0 signedLen = (u, some b)) ∧
    (let i : Instr := .firmwareWrite (srcC 0) 0 1
     Begins (sCtl 0 (some i) []) (srcC 0) i ∧ 1 ≤ flashLen - imageAt ∧
       ∃ u b, (taken (sCtl 0 (some i) []) (srcC 0)).ctlRead (srcC 0) 0 1 = (u, some b)) ∧
    (let i : Instr := .firmwareWrite (srcC 0) 0 (flashLen - imageAt + 1)
     Begins (sCtl 0 (some i) []) (srcC 0) i ∧ flashLen - imageAt < flashLen - imageAt + 1) :=
  ⟨⟨begins_of ⟨rfl, rfl⟩ (by decide +kernel) (by decide +kernel), rfl, read_with _ (by decide +kernel) (by decide +kernel)⟩,
   ⟨begins_of ⟨rfl, rfl⟩ (by decide +kernel) (by decide +kernel), read_with _ (by decide +kernel) (by decide +kernel)⟩,
   begins_of ⟨rfl, rfl⟩ (by decide +kernel) (by decide +kernel),
   ⟨begins_of ⟨rfl, rfl⟩ (by decide +kernel) (by decide +kernel), rfl⟩,
   ⟨_, ⟨rfl, rfl⟩, rfl, rfl, by decide +kernel⟩, ⟨_, rfl, rfl, by decide +kernel, rfl⟩, by decide +kernel,
   ⟨begins_of ⟨rfl, rfl⟩ (by decide +kernel) (by decide +kernel), read_some (by decide +kernel)⟩,
   ⟨begins_of ⟨rfl, rfl⟩ (by decide +kernel) (by decide +kernel), by decide, read_some (by decide +kernel)⟩,
   begins_of ⟨rfl, rfl⟩ (by decide +kernel) (by decide +kernel), Nat.lt_succ_self _⟩

/-- What a memory operation that succeeds answers. -/
theorem ok_of {α : Type} {x : State × Except MemFail α} (h : (match x.2 with | .ok _ => true | .error _ => false) = true) :
    ∃ u a, x = (u, .ok a) := by
  match x, h with
  | (u, .ok a), _ => exact ⟨u, a, rfl⟩

/-- Port 127 is up, in a running package whose inbound entry lets package 1023 reach context 1. -/
def sPort : State :=
  { sOut w0 with
    hub := { s0.hub with pkg := .running, config := { s0.hub.config with ports := 1 <<< 127, device := 0 } }
    ports := [(127, { Port.reset with state := 2 })], inbound := [⟨1, 1023, 3, 4095, 4095, true, none, false⟩]
    parts := [(0, { Part.zero with clusters := 1 })] }
/-- A packet for this package through window 4095 of context 3 of package 1023. -/
def pktA : Packet := ⟨9, 8, 4095, 4095, 0, 3, 0, .add, false, true, 0, 1023, 4, .corrected, 0, 5, [1, 2, 3, 4]⟩
/-- A request of this package that package 1023 has not answered, sent at time 0 with n timeouts. -/
def unA (n : Nat) : Unacked := ⟨60, 30, 0, .readReq, { pktA with dst := 1023, src := 0, window := 4095 }, 127, 0, n⟩
/-- A copy whose element 0 is on its way. -/
def sSent (n : Nat) : State :=
  { sPort with ops := [opOf 30 .bcopy (.copy { copyA (some recA) with got := [], sent := [0] })], unacked := [unA n] }

theorem arrives0 (s : State) (h : s.wave.name = 0 ∧ s.grp.name = 0) (r : s.hub.pkg = .running) (u : s.portUp 127 = true)
    (d : s.hub.config.device = 0) : Arrives s 127 pktA := ⟨h, r, u, by decide, d.symm⟩

/-- The same with data, not code, in the page. -/
def sData : State := { sPort with hbm := fetchPut sPort.hbm 0 303 (leBytes 8 (304 * 2 ^ 13 + 0xD)) }

theorem witness_FabricRequests :
    (Arrives sData 127 pktA ∧ Fresh sData pktA ∧
      sData.inboundAt pktA.src pktA.ctx pktA.window = some ⟨1, 1023, 3, 4095, 4095, true, none, false⟩ ∧
      pktA.base * 8192 + pktA.offset.toNat + pktA.len ≤ 2 ^ 53 ∧ pktA.len ≠ 64 ∧
      (∃ u a, (serving sData 127 pktA).gwrite 9 none 1 8 [1, 2, 3, 4] false .ewr = (u, .ok a)) ∧
      (∃ u a, (serving sData 127 pktA).gread 9 none 1 8 4 = (u, .ok a)) ∧
      (∃ u a, (serving sData 127 pktA).gatomic 9 none 1 8 4 (Packet.atomic pktA) .ermw = (u, .ok a))) ∧
    (let s : State := { sPort with performed := [⟨1023, 9, 5, .ack, pktA, 0⟩], time := 16000000 }
     Arrives s 127 pktA ∧ ∃ x, x ∈ s.performed ∧ s.time ≤ x.time + 16000000 ∧ x.src = pktA.src ∧ x.causal = pktA.causal ∧ x.tag = pktA.tag) ∧
    (let s : State := { sPort with inbound := [⟨1, 1023, 3, 4095, 0, false, none, false⟩] }
     Arrives s 127 pktA ∧ Fresh s pktA ∧ s.inboundAt 1023 3 4095 = some ⟨1, 1023, 3, 4095, 0, false, none, false⟩ ∧ (0 : Nat) ≠ pktA.gen) ∧
    (Unfocused sPort ∧ sPort.hub.pkg = .running ∧ sPort.portUp 127 = true ∧ sPort.portUp 128 = false) :=
  ⟨⟨arrives0 _ ⟨rfl, rfl⟩ rfl (by decide +kernel) rfl, (fun x h => nomatch h), by decide +kernel, by decide, by decide,
     ok_of (by decide +kernel), ok_of (by decide +kernel), ok_of (by decide +kernel)⟩,
   ⟨arrives0 _ ⟨rfl, rfl⟩ rfl (by decide +kernel) rfl, _, List.mem_singleton.mpr rfl, by decide, rfl, rfl, rfl⟩,
   ⟨arrives0 _ ⟨rfl, rfl⟩ rfl (by decide +kernel) rfl, (fun x h => nomatch h), by decide +kernel, by decide⟩,
   ⟨rfl, rfl⟩, rfl, by decide +kernel, by decide +kernel⟩

theorem witness_FabricAnswers :
    (Arrives sPort 127 pktA ∧ answerKind 127 pktA (.fabricAcknowledgement 127 pktA) = some .ack ∧ sPort.requestOf pktA = none) ∧
    (Arrives (sSent 0) 127 pktA ∧ answerKind 127 pktA (.fabricReadResponse 127 pktA) = some .readResp ∧
      (sSent 0).requestOf pktA = some (unA 0) ∧ (unA 0).op ≠ 0 ∧
      ∃ o c, (sSent 0).opAt (unA 0).op = some o ∧ o.ended = false ∧ o.kind = .copy c) ∧
    (Unfocused (sSent 6) ∧ ({ sSent 6 with time := 1600000 } : State).unacked.find? (fun v => v.name == 60) = some (unA 6) ∧
      (unA 6).sent + 1600000 ≤ 1600000 ∧ (unA 6).outs + 1 ≠ 8 ∧ (unA 7).outs + 1 = 8 ∧ (1599999 : Nat) < (unA 7).sent + 1600000) ∧
    (let s : State := { sSent 0 with
       hub := { sPort.hub with config := { sPort.hub.config with ports := 3 <<< 126, device := 0 } }
       ports := [(126, { Port.reset with state := 2 }), (127, { Port.reset with state := 2 })], routes := [(1023, [127, 126])]
       time := 1600000 }
     s.unacked.find? (fun v => v.name == 60) = some (unA 0) ∧ (unA 0).sent + 1600000 ≤ s.time ∧ (unA 0).outs + 1 ≠ 8 ∧
       ∃ q, q ∈ mgetD s.routes (unA 0).pkt.dst [] ∧ s.portUp q = true ∧ q ≠ (unA 0).port) ∧
    (let s : State := { sPort with windows := [(3 * 4096 + 4095, { winOf 3 with device := 1023, gen := 4095 })] }
     Unfocused s ∧ s.hub.pkg = .running ∧ (mget s.windows (3 * 4096 + 4095)).isSome = true ∧ s.unacked = []) :=
  ⟨⟨arrives0 _ ⟨rfl, rfl⟩ rfl (by decide +kernel) rfl, by decide, by decide +kernel⟩,
   ⟨arrives0 _ ⟨rfl, rfl⟩ rfl (by decide +kernel) rfl, by decide, by decide +kernel, by decide, _, _, rfl, rfl, rfl⟩,
   ⟨⟨rfl, rfl⟩, by decide +kernel, by decide, by decide, by decide, by decide⟩,
   ⟨rfl, by decide, by decide, 126, by decide, by decide +kernel, by decide⟩, ⟨rfl, rfl⟩, rfl, by decide +kernel, rfl⟩

/-- A queue pair that is ready, bound to context c, with 1 of 2 retries made. -/
def qpA (c : Nat) : Qp := { qpOf (leNat (leBytes 64 (0x15150 + 2 ^ 173 + 2 ^ 187 + 2 ^ 192))) c false with retry := 2, retries := 1, imm := 64 }
/-- Queue pair 255 of partition 0. -/
def refA : QpRef := ⟨0, 255⟩
/-- A write of the device on it that the host has not answered, posted at time 0. -/
def hostA : HostOp := ⟨70, .notification 1, refA, 0, 0, 0, 4, [1, 2, 3, 4], 0, 0, true⟩
/-- A running package with that queue pair. -/
def sHost (p : Qp) : State := { sPort with qps := [(255, p)], hostOps := [hostA] }

theorem witness_LinksAndQueuePairs :
    (let s := sPort.modPort 127 (fun x => { x with beat := some 7, failed := 15 })
     Unfocused s ∧ s.hub.pkg = .running ∧ s.portUp 127 = true ∧ (s.portAt 127).beat = some 7 ∧ (s.portAt 127).failed = 15) ∧
    (let s := sPort.modPort 127 (fun x => { x with beat := some 7, failed := 14 })
     Unfocused s ∧ s.portUp 127 = true ∧ (s.portAt 127).failed ≠ 15) ∧
    (let s := sPort.modPort 127 (fun x => { x with state := 1 })
     Unfocused s ∧ s.hub.pkg = .running ∧ s.portEnabled 127 = true ∧ (s.portAt 127).state ≠ 2) ∧
    (Unfocused (sHost (qpA 1)) ∧ (sHost (qpA 1)).hostOps.find? (fun o => o.name == 70 && o.out) = some hostA ∧
      (sHost (qpA 1)).qpAt hostA.qp = some (qpA 1) ∧ (sHost (qpA 1)).hostOps.find? (fun o => o.name == 71 && o.out) = none) ∧
    (let s : State := { sHost (qpA 1) with time := 131072 }
     Unfocused s ∧ s.qpAt refA = some (qpA 1) ∧ s.ackDue refA = true ∧ (qpA 1).retries < (qpA 1).retry) ∧
    (let s : State := { sHost { qpA 1 with retries := 2 } with time := 131072 }
     s.ackDue refA = true ∧ (2 : Nat) ≤ ({ qpA 1 with retries := 2 } : Qp).retries ∧ ({ s with time := 131071 } : State).ackDue refA = false) ∧
    (let p : Qp := { qpA 1 with rnrTill := some 5, rnrRetry := 1 }
     let s : State := { sHost p with time := 5 }
     s.qpAt refA = some p ∧ s.rnrDue refA = true ∧ p.rnrs < p.rnrRetry ∧ ({ s with time := 4 } : State).rnrDue refA = false) ∧
    (let p : Qp := { qpA 1 with rnrTill := some 5, rnrRetry := 1, rnrs := 1 }
     let s : State := { sHost p with time := 5 }
     s.qpAt refA = some p ∧ s.rnrDue refA = true ∧ p.rnrRetry ≠ 7 ∧ p.rnrRetry ≤ p.rnrs) ∧
    (Unfocused sPort ∧ sPort.hub.pkg = .running ∧ (⟨0, 0⟩ : QpRef).part = 0) ∧
    (let s : State := { sPort with hub := { sPort.hub with pkg := .loader, loaderConn := false } }
     Unfocused s ∧ s.hub.pkg = .loader ∧ (⟨0, 1⟩ : QpRef).qp = 1 ∧ s.hub.loaderConn = false) :=
  ⟨⟨⟨rfl, rfl⟩, rfl, by decide +kernel, by decide +kernel, by decide +kernel⟩, ⟨⟨rfl, rfl⟩, by decide +kernel, by decide +kernel⟩,
   ⟨⟨rfl, rfl⟩, rfl, by decide +kernel, by decide +kernel⟩, ⟨⟨rfl, rfl⟩, by decide +kernel, by decide +kernel, by decide +kernel⟩,
   ⟨⟨rfl, rfl⟩, by decide +kernel, by decide +kernel, by decide +kernel⟩, ⟨by decide +kernel, by decide, by decide +kernel⟩,
   ⟨by decide +kernel, by decide +kernel, by decide +kernel, by decide +kernel⟩,
   ⟨by decide +kernel, by decide +kernel, by decide +kernel, by decide +kernel⟩, ⟨⟨rfl, rfl⟩, rfl, rfl⟩, ⟨rfl, rfl⟩, rfl, rfl, rfl⟩

/-- A queue pair's key: partition 0, context c, check 0. -/
def keyA (c : Nat) : Word := BitVec.ofNat 32 (c * 2 ^ 16)
/-- The register window's context. -/
def sRegs : State :=
  { sHost (qpA 1) with ctxs := [(1, { fetchCtx with control := true })] }

theorem host_write {s : State} {ctx : Nat} {va : Dword} {b : List Byte} (r : Bool) (h : (s.hostWrite ctx va b).2 = r) :
    ∃ u, s.hostWrite ctx va b = (u, r) := ⟨_, by rw [← h]⟩

theorem witness_HostRequests :
    (let s := sHost (qpA 1)
     Requests s refA (qpA 1) ∧ keyOk refA (qpA 1) (keyA 1) = true ∧ s.inWindow 1 8 4 = false ∧
       (∃ u, s.hostWrite 1 8 [1, 2, 3, 4] = (u, true)) ∧ (∃ u, s.hostWrite 1 0x40000000 [1, 2, 3, 4] = (u, false)) ∧
       s.writable 1 ((qpA 1).imm.extractLsb' 0 53).toNat 4 = true ∧
       (∃ u v, s.hostWrite 1 8 [1, 2, 3, 4] = (u, true) ∧ u.hostWrite 1 (qpA 1).imm (leBytes 4 7) = (v, true)) ∧
       (∃ u b, s.gread 0 none 1 8 4 = (u, .ok b)) ∧
       (∃ u b, s.applyNotices.gatomic 0 none 1 8 8 (fun b => leBytes 8 (leDword b + 1).toNat) = (u, .ok b)) ∧
       keyOk refA (qpA 1) (keyA 2) = false) ∧
    (Requests sRegs refA (qpA 1) ∧ keyOk refA (qpA 1) (keyA 1) = true ∧
      sRegs.inWindow 1 (BitVec.ofNat 64 regWindow) 4 = true ∧ windowNak 0 (BitVec.ofNat 64 regWindow) 4 true = none ∧
      windowNak 0 (BitVec.ofNat 64 regWindow) 4 false = none ∧
      sRegs.inWindow 1 (BitVec.ofNat 64 (regWindow + 0x7000)) 4 = true ∧
      windowNak 0 (BitVec.ofNat 64 (regWindow + 0x7000)) 4 true = some false) :=
  ⟨⟨⟨⟨rfl, rfl⟩, rfl, by decide +kernel, by decide⟩, by decide +kernel, by decide +kernel, host_write _ (by decide +kernel), host_write _ (by decide +kernel),
     by decide +kernel, ⟨_, _, Prod.ext rfl (by decide +kernel), Prod.ext rfl (by decide +kernel)⟩, ok_of (by decide +kernel), ok_of (by decide +kernel), by decide +kernel⟩,
   ⟨⟨rfl, rfl⟩, rfl, by decide +kernel, by decide⟩, by decide +kernel, by decide +kernel, by decide, by decide, by decide +kernel, by decide⟩

/-- A package at rest with a channel in some state. -/
def sChan (c : Chan) : State := { sOut w0 with chans := [(255, c)] }

theorem witness_MemoryEvents :
    (Unfocused (sOut w0) ∧ (sOut w0).noticesTo 3 0 = []) ∧
    (let n : Notice := ⟨3, 0, 7, 0⟩
     let s : State := { sOut w0 with notices := [n] }
     Unfocused s ∧ s.noticesTo 3 0 = n :: []) ∧
    (Unfocused (sChan { Chan.reset with acts := 65536, confl := 24577 }) ∧
      65536 ≤ ((sChan { Chan.reset with acts := 65536, confl := 24577 }).chan 255).acts ∧
      (sChan { Chan.reset with acts := 65536, confl := 24577 }).feature 6 = true ∧
      ((sChan { Chan.reset with acts := 65536, confl := 24577 }).chan 255).thresh ≠ 0 ∧
      65536 * ((sChan { Chan.reset with acts := 65536, confl := 24577 }).chan 255).thresh <
        ((sChan { Chan.reset with acts := 65536, confl := 24577 }).chan 255).confl * 8) ∧
    ((sChan { Chan.reset with acts := 65535 }).chan 255).acts < 65536 ∧
    ((sChan { Chan.reset with migrating := true, boundary := 65534 }).chan 255).boundary < 65535 ∧
    65535 ≤ ((sChan { Chan.reset with migrating := true, boundary := 65535 }).chan 255).boundary ∧
    ((sChan Chan.reset).chan 255).migrating = false ∧
    (mget ((sChan { Chan.reset with openRows := [(31, 5)] }).chan 255).openRows 31 = some 5 ∧
      mwf ((sChan { Chan.reset with openRows := [(31, 5)] }).chan 255).openRows = true) ∧
    mget ((sChan Chan.reset).chan 255).openRows 31 = none ∧ (2 ^ 30 * 4 - 1) / 2 ^ 30 = 255 / 64 ∧
    (Unfocused (sOut w0) ∧ (mget (sOut w0).ctxs 1).isSome = true ∧ (∃ d, d < 4 ∧ (sOut w0).homeDie 1 (8 / 128) ≠ d) ∧
      (0x1FFFFFFFFFFFFF : BitVec 53).toNat % 128 + ([1] : List Byte).length ≤ 128) := by
  have d : ∀ h : Nat, ∃ d, d < 4 ∧ h ≠ d := fun h => by
    by_cases e : h = 0
    · exact ⟨1, by decide, by omega⟩
    · exact ⟨0, by decide, e⟩
  exact ⟨⟨⟨rfl, rfl⟩, rfl⟩, ⟨⟨rfl, rfl⟩, by decide +kernel⟩,
    ⟨⟨rfl, rfl⟩, by decide +kernel, by decide +kernel, by decide +kernel, by decide +kernel⟩, by decide +kernel, by decide +kernel,
    by decide +kernel, by decide +kernel, ⟨by decide +kernel, by decide +kernel⟩, by decide +kernel, by decide,
    ⟨rfl, rfl⟩, rfl, d _, by decide⟩

theorem witness_DeviceRegisters :
    Unfocused (sOut w0) ∧ (255 : Nat) < 256 ∧ (3 : Nat) < 4 ∧
    (let s : State := { sOut w0 with tabor := { (sOut w0).tabor with left := some 0, frozen := false } }
     Unfocused s ∧ s.tabor.left = some 0 ∧ s.tabor.frozen = false) ∧
    (sOut w0).tabor.left ≠ some 0 ∧
    (let s : State := { sPort with hub := { sPort.hub with role := 1, everLocked := true, lock := 2 } }
     Unfocused s ∧ s.hub.pkg = .running ∧ s.hub.role ≠ 0 ∧ s.hub.everLocked = true ∧ s.hub.lock ≠ 0) :=
  ⟨⟨rfl, rfl⟩, by decide, by decide, ⟨⟨rfl, rfl⟩, rfl, rfl⟩, by decide +kernel, ⟨rfl, rfl⟩, rfl, by decide, rfl, by decide⟩

/-- A package with a clock and a power limit of 700. -/
def sClock (c : Nat) : State := { sPort with hub := { sPort.hub with clock := c, config := { sPort.hub.config with powerLimit := 700 } } }

/-- A package in its loader with nothing staged. Which items verify is a free function (log 12): no item can be shown that does. -/
def sLoader (l : LoaderStatus) (conn : Bool) (imm : Word) : State :=
  { sPort with hub := { sPort.hub with pkg := .loader, loaderConn := conn, loader := l, loadImm := imm, staging := [] } }

theorem witness_PackageEvents :
    (Unfocused (sClock 35) ∧ 35 ≤ (sClock 35).hub.clock ∧ (sClock 70).hub.clock ≤ 70 ∧ (sClock 35).hub.config.powerLimit < 701 ∧
      699 < (sClock 70).hub.config.powerLimit ∧ (105 : Int) < 106 ∧ (99 : Int) < 100) ∧
    (let s : State := { sPort with hub := { sPort.hub with config := { sPort.hub.config with policy := 1 } } }
     Unfocused s ∧ s.hub.config.policy < 2) ∧
    (let s : State := { sPort with hub := { sPort.hub with config := { sPort.hub.config with policy := 2 } } }
     Unfocused s ∧ 2 ≤ s.hub.config.policy) ∧
    (Unfocused sPort ∧ sPort.hub.pkg = .running) ∧
    (let s : State := { sPort with hub := { sPort.hub with pkg := .stopped } }
     Unfocused s ∧ s.hub.pkg ≠ .running ∧ ¬ (s.hub.pkg = .loader ∧ s.hub.loaderConn = true)) ∧
    (let s := sLoader .idle true 0
     Unfocused s ∧ s.hub.pkg = .loader ∧ Memory.wf s.hub.staging = true ∧ s.hub.loader = .idle ∧ s.hub.loaderConn = true) ∧
    ((sLoader .refused false 0).hub.loader = .refused ∧ (sLoader .refused false 0).hub.loaderConn = false) ∧
    (let s := sLoader .verifying true 2
     s.hub.pkg = .loader ∧ Memory.wf s.hub.staging = true ∧ s.hub.loader = .verifying ∧ ¬ (s.hub.loadImm = 1) ∧
       configOk (stagedItem s) = false) ∧
    (sLoader .written true 2).hub.loader = .written := by
  refine ⟨⟨⟨rfl, rfl⟩, by decide, by decide, by decide, by decide, by decide, by decide⟩, ⟨⟨rfl, rfl⟩, by decide⟩, ⟨⟨rfl, rfl⟩, by decide⟩,
    ⟨⟨rfl, rfl⟩, rfl⟩, ⟨⟨rfl, rfl⟩, by decide, by decide⟩, ⟨⟨rfl, rfl⟩, rfl, rfl, rfl, rfl⟩, ⟨rfl, rfl⟩,
    ⟨rfl, rfl, rfl, by decide, ?_⟩, rfl⟩
  have h : configFieldsOk (leNat ((stagedItem (sLoader .verifying true 2)).take 64)) = false := by decide +kernel
  show (configFieldsOk (leNat ((stagedItem (sLoader .verifying true 2)).take 64)) && _) = false
  rw [h]; rfl

theorem witness_RegisterFrames :
    (∃ ds t, scalarDest s0 (.sadd .s32sat 55 (.lit 0x7FFFFFFF) (.lit 0x7FFFFFFF)) = some ds ∧
      Clear s0 (.sadd .s32sat 55 (.lit 0x7FFFFFFF) (.lit 0x7FFFFFFF)) ∧
      exec (.sadd .s32sat 55 (.lit 0x7FFFFFFF) (.lit 0x7FFFFFFF)) s0 = .next t) ∧
    (∃ d t, laneDest sOne (.vadd .n32sat (.v 119) (rv 119) (.lit 5) 3) = some d ∧
      Clear sOne (.vadd .n32sat (.v 119) (rv 119) (.lit 5) 3) ∧
      exec (.vadd .n32sat (.v 119) (rv 119) (.lit 5) 3) sOne = .next t) :=
  ⟨⟨_, _, rfl, clear_of (by decide), rfl⟩, _, _, rfl, clear_of (by decide), rfl⟩

/-- The flags of both cases: one that raises none, and one that may. -/
theorem witness_RegisterFrames_flagless :
    flagless s0 (.smov 18 (rs 1)) = true ∧ flagless s0 (.sadd .s32sat 18 (.lit 0x7FFFFFFF) (.lit 0x7FFFFFFF)) = false := by decide

theorem witness_EncodeDecode :
    (Instr.slit 55 0x7FFFF#19).wf = true ∧ (encodeWord (.slit 55 0x7FFFF#19)).isSome = true := by decide

theorem witness_DecodeEncode :
    decodeWord 0x9297E000 0x70000000 = .ok (.smov 18 (.lit 0x70000000#32)) ∧ (Instr.smov 18 (.lit 0x70000000#32)).words = 2 :=
  ⟨rfl, rfl⟩

/-- Reset with an instruction word placed where the next step fetches. -/
def sRun (w : Nat) : State := State.reset.withFetchWord 32 w

/-- Its one wave changed. -/
def sRunW (w : Nat) (f : Wave → Wave) : State := { sRun w with waves := (sRun w).waves.map (fun p => (p.1, f p.2)) }

/-- The placed word, with no page table. -/
def sNoTable : State := { sRun 0x946000FF with ctxs := [(1, { fetchCtx with ptRoot := 0 })] }

/-- The next step lets wave n issue. -/
def issues (s : State) (n : Nat) : Bool := s.wave.name == 0 && decide (({ s with heldUp := false } : State).choose = .issue n)

/-- Its wave in focus. -/
def turnOf (s : State) (n : Nat) : State := ({ s with heldUp := false } : State).focus n

/-- The frame of the fragment that issues, and the wave, meet a check. -/
def frameOf (s : State) (n : Nat) (p : Frame → Wave → Bool) : Bool :=
  match mget (turnOf s n).wave.frames (turnOf s n).frameKey with | some f => p f (turnOf s n).wave | none => false

/-- An instruction, a word that does not decode, a fetch that fails, a frame in the spill area, an evicted wave, no frame. -/
theorem witness_StepRunsDecoded_instr : issues (sRun 0x946000FF) 1 = true ∧
    frameOf (sRun 0x946000FF) 1 (fun f w => !f.spilled && !w.evicted) = true ∧
    (∃ t, (turnOf (sRun 0x946000FF) 1).fetch = (t, .instr (.slit 12 0xFF#19))) := by
  refine ⟨by decide, by decide, (turnOf (sRun 0x946000FF) 1).fetch.1, ?_⟩
  exact Prod.ext rfl (by decide)
theorem witness_StepRunsDecoded_illegal : issues (sRun 0xFFFFFFFF) 1 = true ∧
    frameOf (sRun 0xFFFFFFFF) 1 (fun f w => !f.spilled && !w.evicted) = true ∧
    (∃ t c, (turnOf (sRun 0xFFFFFFFF) 1).fetch = (t, .illegal c)) := by
  refine ⟨by decide, by decide, _, _, rfl⟩
theorem witness_StepRunsDecoded_failed : issues sNoTable 1 = true ∧
    frameOf sNoTable 1 (fun f w => !f.spilled && !w.evicted) = true ∧
    (∃ t x va, (turnOf sNoTable 1).fetch = (t, .failed x va)) := by
  refine ⟨by decide, by decide, _, _, _, rfl⟩
theorem witness_StepRunsDecoded_frames :
    issues (sRunW 0 (fun w => { w with evicted := true })) 1 = true ∧
    frameOf (sRunW 0 (fun w => { w with evicted := true })) 1 (fun _ w => w.evicted) = true ∧
    issues (sRunW 0 (fun w => { w with frames := [] })) 1 = true ∧
    mget (turnOf (sRunW 0 (fun w => { w with frames := [] })) 1).wave.frames
      (turnOf (sRunW 0 (fun w => { w with frames := [] })) 1).frameKey = none := by
  refine ⟨by decide, by decide, by decide, by decide⟩
/-- The words of a fetch: one word, a word with its literal, and a word that does not decode. -/
def wordAt (s : State) (pc : Word) (p : Word → Bool) : Bool :=
  match ((turnOf s 1).codeWord (turnOf s 1).grp.ctx (some (dieOf (turnOf s 1).wave.core)) pc).2 with
  | .ok b => p (leWord b)
  | .error _ => false
def decodesTo (w lit : Word) (i : Instr) : Bool := match decodeWord w lit with | .ok j => j == i | .error _ => false
def sPairWords : State := State.reset.withFetchWord 64 (wordPair 0x9297E000 0x70000000)

theorem witness_StepRunsDecoded_words :
    wordAt (sRun 0x946000FF) 0 (fun w => decodesTo w 0 (.slit 12 0xFF#19)) = true ∧
    wordAt (sRun 0xFFFFFFFF) 0 (fun w => w == 0xFFFFFFFF) = true ∧
    wordAt sPairWords 0 (fun w => decodesTo w 0 (.smov 18 (.lit 0))) = true ∧ wordAt sPairWords 1 (fun w => w == 0x70000000) = true ∧
    (Instr.smov 18 (.lit 0)).words = 2 := by
  refine ⟨by decide, by decide, by decide, by decide, rfl⟩

theorem next_of {o : Out} (h : then_ o (fun _ => true) = true) : ∃ t, o = .next t := by
  cases o with
  | next t => exact ⟨t, rfl⟩
  | fault _ | refused _ => exact nomatch h

theorem witness_StepSettles : Settled State.reset ∧ ∃ t, step State.reset = .next t :=
  ⟨⟨rfl, (fun _ _ h => nomatch h), (fun _ _ h => nomatch h)⟩, next_of (by decide +kernel)⟩

/-- From reset with a word placed, the next step runs it: SLIT S12, 0xFF. -/
theorem test_step_runs_placed_word : then_ (step (sRun 0x946000FF)) (fun t =>
    ((mget t.waves 1).map (fun w => w.sregs.get 12)) == some 0xFF) = true := by decide

/-- A scatter with `.nt` whose writes are not performed holds a DRAIN. -/
theorem witness_SemaphoresAndFences_drain :
    let s := sBusy .gather (.gather ⟨true, 4, true, [], [], [], 1, 0, 1⟩) 1
    Clear s (.drain .system) ∧ ∃ o, o ∈ s.ops ∧ o.wave = s.wave.name ∧ o.drains = true :=
  ⟨clear_of (by decide), opOf 1 .gather _, List.mem_singleton_self _, rfl, rfl⟩

/-- Reserved fields of an object that are not 0. -/
theorem witness_BarrierWait_reserved :
    let s := s0.spadPut 0 (leBytes 16 (one.toNat + 2 ^ 38))
    Clear s (.barwait 1 (.lit 0) (.lit 15)) ∧ Clear s (.bararr 1 (.lit 0) (.lit 0)) ∧ objectAt s (s.ssrc (.lit 0)) = some 0 ∧
      (s.barGet 0).reserved ≠ 0 :=
  ⟨clear_of (by decide), clear_of (by decide), by decide, by decide⟩

/-- Slot 1 is ready too; the core is in ordered mode and wave 0 current, or not. -/
def sPair (ordered : Bool) : State :=
  { s0 with
    wave := { s0.wave with slot1 := { s0.wave.slot0 with mask := 1 }, ftimer := 9 }
    grp := { s0.grp with ordered := ordered, current := [(0, 0)] } }

theorem lowest_of {t : State} {core m : Nat} (h : (let ws := t.allWaves.filter (fun w => w.group == t.grp.name && w.core == core && !w.blocked)
    ws.any (fun w => w.index == m) && ws.all (fun w => m ≤ w.index)) = true) : lowestFree t core m := by
  simp only [Bool.and_eq_true, List.any_eq_true, List.all_eq_true, List.mem_filter, beq_iff_eq, Bool.not_eq_true', decide_eq_true_eq] at h
  obtain ⟨⟨w, ⟨hw, ⟨hg, hc⟩, hb⟩, hi⟩, h2⟩ := h
  exact ⟨⟨w, hw, hg, hc, hb, hi⟩, fun v hv a b c => h2 v ⟨hv, ⟨a, b⟩, c⟩⟩

/-- The other slot ready and not; the core in ordered mode, where wave 0 is still the lowest. -/
theorem witness_NopYieldSleep_yield :
    (Clear (sPair false) .yield ∧ ((sPair false).wave.slotAt (1 - (sPair false).wave.cur)).ready = true) ∧
    (s0.wave.slotAt (1 - s0.wave.cur)).ready = false ∧
    (Clear (sPair true) .yield ∧ (sPair true).wave.cur < 2 ∧ (sPair true).grp.ordered = true ∧
      mget (sPair true).grp.current (sPair true).wave.core = some (sPair true).wave.index ∧
      ∃ t, exec .yield (sPair true) = .next t ∧ lowestFree t (sPair true).wave.core 0) :=
  ⟨⟨clear_of (by decide), by decide⟩, by decide, clear_of (by decide), by decide, rfl, by decide, _, rfl,
    lowest_of (by decide +kernel)⟩

theorem witness_LaneConversions_cases :
    (cvtKind .f32 = .inl .fp32 ∧ cvtKind .e2m1 = .inl .e2m1 ∧ FF.e2m1.width ≤ FF.fp32.width) ∧
    cvtKind .s8 = .inr ⟨8, true⟩ ∧ cvtKind .n32 = .inr ⟨32, false⟩ ∧ above .e4m3 15 5 ∧ ¬ above .e4m3 7 6 ∧ (RMode.rto ≠ .rst ∧ 2 ≤ 2) := by
  refine ⟨⟨rfl, rfl, by decide⟩, rfl, rfl, ⟨false, 14, 5, by decide, by decide⟩, ?_, by decide, by decide⟩
  rintro ⟨n, m, e, h, h2⟩
  rw [(by decide : FF.e4m3.value FF.e4m3.maxBits = .fin false 14 5)] at h
  injection h with _ h3 h4
  subst h3; subst h4
  exact absurd h2 (by decide)

/-- A group whose image fits one page: it drains with room for its image at an address. -/
def groupI (st : GState) (image : Dword) : Group :=
  { fetchGroup 5 with state := st, spadSize := 0, semCount := 1, matrix := false, blocks := 0, image := image, imageLen := 4160, launch := 40 }
/-- It stands in a package, its wave without frames. -/
def sImage (st : GState) (image : Dword) (l : Launch) (b : List Byte) : State :=
  let s := sQueue l queueA
  { mapped s b with groups := [(5, groupI st image)], waves := if st = .saved then [] else [(7, { w0 with frames := [] })] }

theorem image_writes (s : State) (b : List Byte) (g : Group) (h : ((s.gwrite g.start none g.ctx (g.image.toNat % 2 ^ 53) b false).2.toOption).isSome = true) :
    ∃ x, s.gwrite g.start none g.ctx (g.image.toNat % 2 ^ 53) b false = (x, .ok ()) := by
  generalize s.gwrite g.start none g.ctx (g.image.toNat % 2 ^ 53) b false = r at h
  match r, h with
  | (x, .ok ()), _ => exact ⟨x, rfl⟩

theorem image_fails (s : State) (b : List Byte) (g : Group) (h : ((s.gwrite g.start none g.ctx (g.image.toNat % 2 ^ 53) b false).2.toOption).isSome = false) :
    ∃ x e, s.gwrite g.start none g.ctx (g.image.toNat % 2 ^ 53) b false = (x, .error e) := by
  generalize s.gwrite g.start none g.ctx (g.image.toNat % 2 ^ 53) b false = r at h
  match r, h with
  | (x, .error e), _ => exact ⟨x, e, rfl⟩

/-- The image is written, or the page at its address is absent. -/
theorem witness_ImageWritten (a : Dword) (h : a = 0 ∨ a = 0x40000000) :
    let s := sImage (.draining 0 0 true) a launchA []
    let g := groupI (.draining 0 0 true) a
    let u := (s.applyNotices.settleDrain g).deliverFaults 5
    let v := { u with enrols := s.enrols }
    Unfocused s ∧ mget s.groups 5 = some g ∧ g.name = 5 ∧ s.chainStuck 5 = false ∧ s.drained g = true ∧
      mget u.groups 5 = some g ∧ imageFits v g 0 0 ∧ (v.image g 0 0).length ≤ g.imageLen ∧
      (a = 0 → ∃ x, u.gwrite g.start none g.ctx (g.image.toNat % 2 ^ 53) (v.image g 0 0) false = (x, .ok ())) ∧
      (a ≠ 0 → ∃ x e, u.gwrite g.start none g.ctx (g.image.toNat % 2 ^ 53) (v.image g 0 0) false = (x, .error e)) := by
  rcases h with rfl | rfl
  · refine ⟨⟨rfl, rfl⟩, rfl, rfl, by decide +kernel, by decide +kernel, by decide +kernel, ?_, by decide +kernel, fun _ => ?_, fun h => absurd rfl h⟩
    · refine ⟨by decide, by decide, by decide, by decide, by decide, by decide, by decide +kernel, by decide +kernel, by decide +kernel, by decide +kernel, by decide +kernel, by decide +kernel⟩
    · exact image_writes _ _ _ (by decide +kernel)
  · refine ⟨⟨rfl, rfl⟩, rfl, rfl, by decide +kernel, by decide +kernel, by decide +kernel, ?_, by decide +kernel, fun h => absurd h (by decide), fun _ => ?_⟩
    · refine ⟨by decide, by decide, by decide, by decide, by decide, by decide, by decide +kernel, by decide +kernel, by decide +kernel, by decide +kernel, by decide +kernel, by decide +kernel⟩
    · exact image_fails _ _ _ (by decide +kernel)
/-- Group 5 is saved, and next to be placed; its image stands at address 0. -/
def sRestore (b : List Byte) : State := sImage .saved 0 { launchA with started := 1, restore := [5] } b
/-- The header of its image. -/
def headI : List Byte := leBytes 64 (0x14749 + 2 ^ 158 + 4160 * 2 ^ 384)
/-- The read of the image as GROUP_RESTORE makes it. -/
def readI (s : State) (g : Group) : State × Option (List Byte) :=
  (s.modLaunch g.launch (fun l => { l with restore := l.restore.filter (· != 5) })).launcherRead g.ctx
    (g.image &&& 0x1FFFFFFFFFFFFF#64) g.imageLen

/-- What the read gives, as a check. -/
theorem readI_some {s : State} {g : Group} {b : List Byte} (h : ((readI s g).2.any (· == b)) = true) :
    ∃ u, readI s g = (u, some b) := by
  generalize readI s g = r at h
  match r, h with
  | (u, some c), h => exact ⟨u, by rw [(eq_of_beq (by simpa using h) : c = b)]⟩

/-- A wave record whose lanes have all ended, and a core section without scratchpad. -/
def waveZ : List Byte := List.replicate 3584 0
def coreZ : List Byte := List.replicate 512 0

theorem leNat_zeros (n : Nat) : leNat (List.replicate n 0#8) = 0 := by
  induction n with
  | zero => rfl
  | succ n ih => simp [List.replicate_succ, leNat, ih]

theorem field_zeros (n o k : Nat) : fieldAt (List.replicate n 0#8) o k = 0 := by
  simp [fieldAt, List.drop_replicate, List.take_replicate, leNat_zeros]

theorem waveZ_field (o k : Nat) : fieldAt waveZ o k = 0 := field_zeros _ _ _

theorem waveZ_sound : waveSound 0 waveZ [] := by
  have hb (j : Nat) : blocksAt waveZ j = 0 := by simp [blocksAt, waveZ_field]
  have hm (k : Nat) : maskIn waveZ k = 0 := by simp [maskIn, waveZ_field]
  have hs : ((List.range 128).map (blocksAt waveZ)).sum = 0 := by rw [funext hb]; decide +kernel
  simp [waveSound, slotSound, waveZ_field, hs, hm]
theorem coreZ_sound : coreSound (groupI .saved 0) coreZ := by
  have h (o k : Nat) : fieldAt coreZ o k = 0 := field_zeros _ _ _
  simp [coreSound, h]

theorem imageI_sound : imageSound (groupI .saved 0) 4160 (headI ++ List.flatten [waveZ] ++ List.flatten [coreZ] ++ List.flatten []) := by
  refine ⟨headI, [waveZ], [coreZ], [], rfl, by decide +kernel, by decide +kernel, rfl, rfl, by decide +kernel, ?_, ?_, ?_,
    by unfold headSound; decide +kernel, ?_, ?_, ?_⟩
  · intro r h; obtain rfl := List.mem_singleton.mp h; rw [waveZ_field, waveZ_field]; exact List.length_replicate
  · intro r h; obtain rfl := List.mem_singleton.mp h; exact List.length_replicate
  · intro r h; exact absurd h List.not_mem_nil
  · intro i r h
    match i, h with
    | 0, h => obtain rfl : waveZ = r := by simpa using h
              exact waveZ_sound
    | n + 1, h => exact absurd h (by simp)
  · intro r h; obtain rfl := List.mem_singleton.mp h; exact coreZ_sound
  · intro r h; exact absurd h List.not_mem_nil

/-- The group with an image of 64 bytes of zeros. -/
def groupB : Group := { groupI .saved 0 with imageLen := 64 }

theorem blank_unsound : ¬ imageSound groupB 64 (List.replicate 64 0#8) := by
  rintro ⟨hd, ws, cs, os, hb, -, hl, -, -, -, -, -, -, hs, -⟩
  have h64 : (List.replicate 64 0#8).take 64 = hd := by rw [hb, List.append_assoc, List.append_assoc, List.take_left' hl]
  rw [← h64, List.take_replicate] at hs
  have h := hs.1
  rw [field_zeros] at h
  exact absurd h (by decide)

/-- An image that passes, with one wave whose lanes have ended, and one without a header. -/
theorem witness_ImageRestored :
    (let s := sRestore headI
     let b := headI ++ List.flatten [waveZ] ++ List.flatten [coreZ] ++ List.flatten []
     Unfocused s ∧ mget s.groups 5 = some (groupI .saved 0) ∧ s.choice 0 = some (readyA (.restore 5), [0], 0, 0) ∧
       (∃ u, readI s (groupI .saved 0) = (u, some b)) ∧ b.length = 4160 ∧ imageSound (groupI .saved 0) 4160 b ∧ (groupI .saved 0).resumed = none ∧
       (∀ p, p ∈ s.waves → p.2.group ≠ 5 ∧ p.1 < s.names) ∧ ∀ k, k < 2 → fieldAt waveZ (325 + 32 * k) 1 ≠ 5) ∧
    (let s : State := { sRestore [] with groups := [(5, groupB)] }
     mget s.groups 5 = some groupB ∧ s.choice 0 = some (readyA (.restore 5), [0], 0, 0) ∧
       (∃ u, readI s groupB = (u, some (List.replicate 64 0))) ∧ ¬ imageSound groupB 64 (List.replicate 64 0)) :=
  ⟨⟨⟨rfl, rfl⟩, rfl, by decide +kernel, readI_some (by decide +kernel), by decide +kernel, imageI_sound, rfl, by decide +kernel,
     fun _ _ => by rw [waveZ_field]; decide⟩, rfl, by decide +kernel, readI_some (by decide +kernel), blank_unsound⟩

/-- A barrier object at address 64. -/
def withBar (s : State) (o : BarObj) : State := { s with spad := cwrite 0 s.spad 64 (leBytes 16 o.toNat) }
/-- One arrival expected, the given bytes and generation outstanding. -/
def objA (out inn pending gen : Nat) : BarObj := ⟨out, inn, 0, 0, false, false, 1, pending, gen⟩
/-- A copy with that barrier. -/
def copyB (recd : Option Nat) : CopyOp := { copyA recd with bar := some 64 }
/-- Such a copy with every element done. -/
def copyF (peal : Option Nat) (bar : Option Word) : CopyOp := { copyA (some recA) with bar := bar, peal := peal, low := 1 }


/-- Each direction counts, and the last byte completes generation 15 (to 0); a skipped element counts too. -/
theorem witness_CopyCounts :
    (let c := copyB (some recA)
     let s := withBar (sOp .bcopy (.copy c)) (objA 0 4 0 15)
     s.wave.name = 0 ∧ s.opAt 30 = some (opOf 30 .bcopy (.copy c)) ∧ Layout.ofNat recA = some layA ∧ layA.dir = 0 ∧
      s.groupAt 5 = some (fetchGroup 5) ∧ s.copyReady 30 0 = true ∧ c.superseded layA 0 0 = false ∧
      (opOf 30 .bcopy (.copy c)).bar = some 64 ∧ Memory.wf s.spad = true ∧ (s.barGet 64).reserved = 0 ∧
      layA.esize ≤ (s.barGet 64).inBytes ∧ atHand c layA 0 = some [1, 2, 3, 4] ∧ [1, 2, 3, 4].length = layA.esize ∧
      recSpad (fetchGroup 5) 0 (layA.dstAt 0) layA.esize = some 0 ∧ 0 + layA.esize ≤ 64 ∧
      (counted (s.barGet 64) 0 layA.esize).gen ≠ (s.barGet 64).gen) ∧
    (∃ l, let c := copyB (some recC)
     let s := withBar (sLines .bcopy (.copy c)) (objA 4 0 0 15)
     Layout.ofNat recC = some l ∧ l.dir = 1 ∧ s.copyReady 30 1 = true ∧ l.inLimits 1 = false ∧ c.superseded l 0 1 = false ∧
      l.esize ≤ (s.barGet 64).outBytes) ∧
    (let c := copyB (some (recB 1))
     let s := withBar (sLines .bcopy (.copy c)) (objA 5 0 0 15)
     Layout.ofNat (recB 1) = some (layB 1) ∧ (layB 1).dir = 1 ∧ s.copyReady 30 0 = true ∧ (layB 1).esize ≤ (s.barGet 64).outBytes ∧
      (layB 1).inLimits 0 = true ∧ (∃ p, recSpad (fetchGroup 5) 0 ((layB 1).srcAt 0) (layB 1).esize = some p) ∧
      laneHome s (opOf 30 .bcopy (.copy c)) ((layB 1).dstAt 0) 4 .ewr) ∧
    (let c := copyB (some (recB 2))
     let s := withBar (sLines .bcopy (.copy c)) (objA 5 0 0 15)
     (layB 2).dir = 2 ∧ s.copyReady 30 0 = true ∧ atHand c (layB 2) 0 = some [1, 2, 3, 4] ∧
      laneHome s (opOf 30 .bcopy (.copy c)) ((layB 2).dstAt 0) 4 .ewr) := by
  refine ⟨⟨rfl, by decide +kernel, by decide +kernel, by decide +kernel, by decide +kernel, by decide +kernel, by decide +kernel,
      by decide +kernel, by decide +kernel, by decide +kernel, by decide +kernel, by decide +kernel, by decide +kernel, by decide +kernel,
      by decide +kernel, by decide +kernel⟩,
    ⟨(Layout.ofNat recC).getD layA, by decide +kernel, by decide +kernel, by decide +kernel, by decide +kernel, by decide +kernel,
      by decide +kernel⟩,
    ⟨by decide +kernel, by decide +kernel, by decide +kernel, by decide +kernel, by decide +kernel, ⟨0, by decide +kernel⟩,
      by decide +kernel, by decide +kernel, home_of (by decide +kernel)⟩,
    by decide +kernel, by decide +kernel, by decide +kernel, by decide +kernel, by decide +kernel, home_of (by decide +kernel)⟩

theorem atWork_bar (c : Cls) (k : OpKind) (b : BarObj) : AtWork (withBar (sLines c k) b) (opOf 30 c k) := by
  refine ⟨rfl, ?_, (by decide : (7 : Nat) ≠ 0), ⟨by rfl, ?_⟩, rfl, ?_⟩
  · show (List.find? _ _) = _
    simp [withBar, sLines, sOp, opOf]
  · intro x h _; rw [List.mem_singleton.mp h]; rfl
  · intro x h _ _ n; rw [List.mem_singleton.mp h] at n; exact absurd rfl n

theorem oldest_bar (c : Cls) (k : OpKind) (b : BarObj) : Oldest (withBar (sLines c k) b) (opOf 30 c k) := by
  refine ⟨?_, rfl⟩
  show (List.find? _ _) = _
  simp [withBar, sLines, sOp, opOf]

/-- A copy, and a BCOPYP that arrives, or finds an object that expects none. -/
theorem witness_CopyCompletes :
    (let s := sLines .bcopy (.copy (copyF none (some 64)))
     AtWork s (opOf 30 .bcopy (.copy (copyF none (some 64)))) ∧ s.copyEnds 30 = true ∧ (∃ w, mget s.waves 7 = some w) ∧
      Oldest s (opOf 30 .bcopy (.copy (copyF none (some 64))))) ∧
    (let o := opOf 30 .bcopy (.copy (copyF (some 3) (some 64)))
     let s := withBar (sLines .bcopy (.copy (copyF (some 3) (some 64)))) (objA 0 0 1 15)
     AtWork s o ∧ Oldest s o ∧ s.copyEnds 30 = true ∧ o.bar = some 64 ∧ Memory.wf s.spad = true ∧ (s.barGet 64).reserved = 0 ∧
      (s.barGet 64).pending ≠ 0 ∧ (rung (s.barGet 64)).gen ≠ (s.barGet 64).gen) ∧
    (let s := withBar (sLines .bcopy (.copy (copyF (some 3) (some 64)))) (objA 0 0 0 15)
     s.copyEnds 30 = true ∧ (s.barGet 64).pending = 0) :=
  ⟨⟨atWork_of _ _ _, by decide +kernel, ⟨w0.setCount .bcopy (fun _ => 1), rfl⟩, oldest_of _ _ _⟩,
   ⟨atWork_bar _ _ _, oldest_bar _ _ _, by decide +kernel, by decide +kernel, by decide +kernel, by decide +kernel, by decide +kernel,
    by decide +kernel⟩, by decide +kernel, by decide +kernel⟩

/-- The reads of a load begin, or wait for an earlier one; the load finishes in plane 1 and in plane 0. -/
theorem witness_PlaneLoads :
    (let m : MatOp := .base 0 .bf16
     let s := sOp .matrix (.mat m)
     let o := opOf 30 .matrix (.mat m)
     s.opAt 30 = some o ∧ m.kind = 0 ∧ m.begun = false ∧ o.state = .going ∧ s.matrixBefore o = []) ∧
    (let m : MatOp := .base 0 .bf16
     let o := opOf 31 .matrix (.mat m)
     let s := { sOp .matrix (.mat m) with ops := [opOf 30 .matrix (.mat m), o] }
     s.opAt 31 = some o ∧ opOf 30 .matrix (.mat m) ∈ s.matrixBefore o ∧ loadWaits m (opOf 30 .matrix (.mat m))) ∧
    ∀ q, let m : MatOp := { MatOp.base 0 .e4m3 with begun := true, plane := q, scale := 0x80000010, stride := 256 }
      let s := sOp .matrix (.mat m)
      s.opAt 30 = some (opOf 30 .matrix (.mat m)) ∧ cwf 0 (planeOf (s.core 0) q).1 = true ∧ cwf 0x7F#8 (planeOf (s.core 0) q).2.1 = true :=
  ⟨⟨by decide +kernel, rfl, rfl, rfl, by decide +kernel⟩,
   ⟨by decide +kernel, by decide +kernel, rfl, _, rfl, .inl rfl⟩, fun q => by cases q <;> decide +kernel⟩

/-- A stream of the operation's own, the head of a chain, and a follower whose stream is in the chain input. -/
theorem witness_StreamStarts :
    (∀ r, r < 2 → let m : MatOp := { MatOp.base 1 .bf16 with mask := laneBit 63, role := r, stride := 256 }
      let s := sOp .matrix (.mat m)
      s.wave.name = 0 ∧ s.opAt 30 = some (opOf 30 .matrix (.mat m)) ∧ s.streamStarts 30 = true) ∧
    (∀ r, r < 4 → 2 ≤ r → let m : MatOp := { MatOp.base 2 .bf16 with mask := laneBit 63, role := r, stride := 256 }
      let s := { sOp .matrix (.mat m) with cores := mset [] 0 { (sOp .matrix (.mat m)).core 0 with chainIn := some (streamA 1) } }
      s.opAt 30 = some (opOf 30 .matrix (.mat m)) ∧ s.streamStarts 30 = true ∧ (s.core 0).chainIn = some (streamA 1) ∧
        mwf s.cores = true) := by
  refine ⟨fun r h => ?_, fun r h h2 => ?_⟩
  · match r, h with
    | 0, _ => exact ⟨rfl, by decide +kernel, by decide +kernel⟩
    | 1, _ => exact ⟨rfl, by decide +kernel, by decide +kernel⟩
  · match r, h, h2 with
    | 2, _, _ => exact ⟨by decide +kernel, by decide +kernel, by decide +kernel, by decide +kernel⟩
    | 3, _, _ => exact ⟨by decide +kernel, by decide +kernel, by decide +kernel, by decide +kernel⟩

/-- A BCOPYP of peal 3 that needs line 0. -/
def copyP : CopyOp := { copyA (some recA) with peal := some 3 }
/-- It stands in a package where lines 0 and 1 are at home, with the enrolments, holds and late records given. -/
def sPeal (en : List Enrol) (hs : List Hold) (ls : List Late) : State :=
  { sLines .bcopy (.copy copyP) with
    groups := [(5, { fetchGroup 5 with peals := [⟨3, 2, 10⟩] })], enrols := en, holds := hs, lates := ls }
/-- Its own enrolment, and that of another core. -/
def mine : Enrol := ⟨1, 3, 0, 5⟩
def other : Enrol := ⟨1, 3, 1, 6⟩
/-- A hold for line 0, in slice 4. -/
def holdA (line till : Nat) (expect : List Nat) (asked : List Asked) : Hold := ⟨60, 1, 3, line, 4, expect, asked, 0, till, 0, 0⟩
/-- A fill on its way to the given copies, whole or forked. -/
def sResid (whole : Bool) (ops : List Nat) : State :=
  { sPeal [] [] [] with resid := [⟨70, 0, 0, whole, 0, List.replicate 128 7, ops⟩] }

theorem all_copies {s : State} {ops : List Nat} (h : (ops.all (fun n => ((s.opAt n).map (fun o => match o.kind with
    | .copy _ => true
    | _ => false)).getD false)) = true) : areCopies s ops := by
  intro n hn
  have h := List.all_eq_true.mp h n hn
  cases ho : s.opAt n with
  | none => simp [ho] at h
  | some o =>
      cases hk : o.kind with
      | copy c => exact ⟨o, c, rfl, hk⟩
      | _ => simp [ho, hk] at h

/-- Not enrolled; named by a late record; an open hold that stays open, or completes; a full slice; a hold that opens, or completes at
once. -/
theorem witness_PealRequests :
    (let s := sPeal [other] [] []
     s.wave.name = 0 ∧ s.opAt 30 = some (opOf 30 .bcopy (.copy copyP)) ∧ copyP.peal = some 3 ∧ s.pealReady 30 0 = true ∧
      mine ∉ s.enrols ∧ copyP.left = false) ∧
    (let s := sPeal [mine, other] [] [⟨1, 3, 0, 4, [0, 1], 0, 0⟩]
     mine ∈ s.enrols ∧ s.pealReady 30 0 = true ∧
      s.lates.any (fun l => l.ctx == 1 && l.peal == 3 && l.line == 0 && l.cores.contains 0) = true) ∧
    (let h := holdA 0 0 [0, 1, 2] [⟨1, 30⟩]
     let s := sPeal [mine, other] [h] []
     s.pealReady 30 0 = true ∧ s.holds.find? (fun h => h.ctx == 1 && h.peal == 3 && h.line == 0) = some h ∧ 2 ∈ absent h) ∧
    (let h := holdA 0 0 [0, 1] [⟨1, 30⟩]
     let s := sPeal [mine, other] [h] []
     s.pealReady 30 0 = true ∧ (∀ k, k ∈ absent h → k = 0) ∧ AtHome s 1 0 .rd ∧ (lineData s 1 0).length = 128 ∧
      areCopies s (h.asked.map Asked.op)) ∧
    (let s := sPeal [mine, other] (List.replicate 256 (holdA 5 0 [0, 1] [⟨1, 30⟩])) []
     s.pealReady 30 0 = true ∧ s.holds.find? (fun h => h.ctx == 1 && h.peal == 3 && h.line == 0) = none ∧ s.sliceAt 1 0 = 4 ∧
      (s.holds.filter (fun h => h.slice == 4)).length = 256) ∧
    (let s := sPeal [mine, other] [] []
     s.pealReady 30 0 = true ∧ 1 ∈ enrolledCores s 1 3 ∧ (∃ g, s.groupAt 5 = some g ∧
      g.peals.find? (fun x => x.peal == 3) = some ⟨3, 2, 10⟩)) ∧
    (let s := sPeal [mine] [] []
     s.pealReady 30 0 = true ∧ (∀ k, k ∈ enrolledCores s 1 3 → k = 0) ∧ AtHome s 1 0 .rd) := by
  refine ⟨⟨rfl, by decide +kernel, rfl, by decide +kernel, by decide +kernel, rfl⟩, ⟨by decide +kernel, by decide +kernel, by decide +kernel⟩,
    ⟨by decide +kernel, by decide +kernel, by decide +kernel⟩,
    ⟨by decide +kernel, by decide +kernel, home_of (by decide +kernel), by decide +kernel, all_copies (by decide +kernel)⟩,
    ⟨by decide +kernel, by decide +kernel, by decide +kernel, by decide +kernel⟩,
    ⟨by decide +kernel, by decide +kernel, _, rfl, by decide +kernel⟩, by decide +kernel, by decide +kernel, home_of (by decide +kernel)⟩

/-- The timer has run out exactly; nobody is missed; neither. -/
theorem witness_PealTimers :
    (let h := holdA 0 0 [0, 1] [⟨0, 30⟩]
     let s := sPeal [mine] [h] []
     s.wave.name = 0 ∧ s.holds.find? (fun x => x.name == 60) = some h ∧ h.till ≤ s.time ∧ absent h ≠ [] ∧ AtHome s 1 0 .rd ∧
      (lineData s 1 0).length = 128 ∧ areCopies s (h.asked.map Asked.op)) ∧
    (let h := holdA 0 1 [0] [⟨0, 30⟩]
     (sPeal [mine] [h] []).holds.find? (fun x => x.name == 60) = some h ∧ absent h = []) ∧
    (let h := holdA 0 1 [0, 1] [⟨0, 30⟩]
     (sPeal [mine] [h] []).time < h.till ∧ absent h ≠ []) :=
  ⟨⟨rfl, by decide +kernel, by decide +kernel, by decide, home_of (by decide +kernel), by decide +kernel, all_copies (by decide +kernel)⟩,
   ⟨by decide +kernel, by decide⟩, by decide +kernel, by decide⟩

theorem witness_Residuals :
    (∀ w l, (w = false ∧ (l = [] ∨ l = [30] ∨ l = [30, 30])) ∨ (w = true ∧ l = [30]) →
      (sResid w l).wave.name = 0 ∧ (sResid w l).resid.find? (fun x => x.name == 70) = some ⟨70, 0, 0, w, 0, List.replicate 128 7, l⟩ ∧
      areCopies (sResid w l) l) := by
  rintro w l (⟨rfl, rfl | rfl | rfl⟩ | ⟨rfl, rfl⟩) <;>
    exact ⟨rfl, by simp [sResid], all_copies (by decide +kernel)⟩

/-- An ALLREDUCE of two FP32 elements, from address 0 to address 64, in communicator 1. -/
def recR : Nat := 2 * 2 ^ 128 + 2 ^ 192 + 6 * 2 ^ 224 + 64 * 2 ^ 64
/-- Rank 1's operation of it. -/
def collR (issued : Bool) (wrote : Option (BitVec 6)) : CollOp := ⟨.allreduce, 0, some recR, none, 1, 0, if issued then 1 else 0, issued, wrote⟩
/-- What a rank issued: two numbers. -/
def issueR (rank : Nat) (data : List Byte) : RankIssue := ⟨1, 0, rank, .allreduce, 6, 0, 2, 0, 0, 0, false, data⟩
/-- The operation in a package that holds both ranks, with the collective given. -/
def sRank (c : CollOp) (cl : List Coll) : State :=
  let d := (sOut w0).hub.config.device
  { sLines .coll (.coll c) (leBytes 4 0x3F800000 ++ leBytes 4 0x40000000) with colls := cl, comms := [(1, ⟨0, [(d, 0), (d, 1)], [], []⟩)] }
/-- The collective with both ranks' data, and the ranks that have written. -/
def bothR (wrote : List Nat) : Coll :=
  ⟨40, 1, 0, [issueR 0 (leBytes 8 0x3F8000003F800000), issueR 1 (leBytes 4 0x3F800000 ++ leBytes 4 0x40000000)], none, none, 0, wrote⟩
theorem atWork_rank (c : CollOp) (l : List Coll) : AtWork (sRank c l) (opOf 30 .coll (.coll c)) := by
  refine ⟨rfl, ?_, (by decide : (7 : Nat) ≠ 0), ⟨by rfl, ?_⟩, rfl, ?_⟩
  · show (List.find? _ _) = _
    simp [sRank, sLines, sOp, opOf]
  · intro x h _; rw [List.mem_singleton.mp h]; rfl
  · intro x h _ _ n; rw [List.mem_singleton.mp h] at n; exact absurd rfl n

theorem oldest_rank (c : CollOp) (l : List Coll) : Oldest (sRank c l) (opOf 30 .coll (.coll c)) := by
  refine ⟨?_, rfl⟩
  show (List.find? _ _) = _
  simp [sRank, sLines, sOp, opOf]

/-- A rank issues; it writes when both ranks have issued; it completes when both have written, with a barrier or without. -/
theorem witness_CollectiveResults :
    (let c := collR false none
     let s := sRank c []
     let o := opOf 30 .coll (.coll c)
     let r := CollRec.ofNat recR
     s.wave.name = 0 ∧ s.opAt 30 = some o ∧ s.collReady 30 = true ∧ (∃ cm, mget s.comms 1 = some cm ∧ s.rankOf cm 1 = some 1 ∧
       r.ok .allreduce cm.ranks.length = true) ∧ r.comm = 1 ∧ bytesHome s o r.src 8 .rd ∧ s.collAt 1 0 = none) ∧
    (let c := collR true none
     let s := sRank c [bothR []]
     let o := opOf 30 .coll (.coll c)
     let r := CollRec.ofNat recR
     let D (j : Nat) : List Byte := if j = 0 then leBytes 8 0x3F8000003F800000 else leBytes 4 0x3F800000 ++ leBytes 4 0x40000000
     s.opAt 30 = some o ∧ s.collReady 30 = true ∧ s.collAt 1 0 = some (bothR []) ∧ s.commSize 1 = 2 ∧ 2 ≤ 2 ^ 1 ∧
       (∀ e, 2 ≤ 2 ^ e → 1 ≤ e) ∧ r.ok .allreduce 2 = true ∧
       (∀ j, j < 2 → ((bothR []).issues.find? (fun i => i.rank == j)).map RankIssue.data = some (D j)) ∧
       (rankResult .allreduce r 2 1 1 D).length = 8 ∧ bytesHome s o r.dst 8 .ewr) ∧
    (let c := collR true (some 5)
     let s := sRank c [bothR [0, 1]]
     let o := opOf 30 .coll (.coll c)
     AtWork s o ∧ Oldest s o ∧ s.collAt 1 0 = some (bothR [0, 1]) ∧ s.commSize 1 ≤ (bothR [0, 1]).wrote.length ∧ o.bar = none ∧
       ∃ w, mget s.waves 7 = some w) ∧
    (let c := { collR true (some 5) with bar := some 64 }
     let s := withBar (sRank c [bothR [0, 1]]) (objA 0 0 1 15)
     (opOf 30 .coll (.coll c)).bar = some 64 ∧ Memory.wf s.spad = true ∧ (s.barGet 64).reserved = 0 ∧ (s.barGet 64).pending ≠ 0) := by
  refine ⟨⟨rfl, by decide +kernel, by decide +kernel, ⟨_, rfl, by decide +kernel, by decide +kernel⟩, by decide +kernel,
      ⟨by decide +kernel, by decide +kernel, home_of (by decide +kernel), by decide +kernel⟩, rfl⟩,
    ⟨by decide +kernel, by decide +kernel, by decide +kernel, by decide +kernel, by decide, fun e h => ?_, by decide +kernel, ?_,
      by decide +kernel, by decide +kernel, by decide +kernel, home_of (by decide +kernel), by decide +kernel⟩,
    ⟨atWork_rank _ _, oldest_rank _ _, by decide +kernel, by decide +kernel, rfl, w0.setCount .coll (fun _ => 1), rfl⟩,
    by decide +kernel, by decide +kernel, by decide +kernel, by decide +kernel⟩
  · cases e with
    | zero => exact absurd h (by decide)
    | succ e => omega
  · intro j h
    match j, h with
    | 0, _ => decide +kernel
    | 1, _ => decide +kernel

/-- A chime record: one entry at address 128, a mode, a communicator and an expected digest. -/
def recM (mode comm : Nat) (expected : Nat) : Nat := 128 + 2 ^ 64 + mode * 2 ^ 112 + comm * 2 ^ 224 + expected * 2 ^ 256
/-- A chime check of the record at an address. -/
def chimeA (addr : Dword) (recd : Option Nat) : ChimeOp := ⟨addr, 9, recd, false, false, 0, 0, 0, 0xFFFFFFFF, 0⟩
/-- Its context. -/
def ctxM : Ctx := { fetchCtx with id := 1 }
/-- The check at work with a record in line 0; two ranks of which the context is the second. -/
def sChime (c : ChimeOp) (x : Nat) (cx : Ctx) (said : List SeqMsg) : State :=
  let d := (sOut w0).hub.config.device
  { sLines .coll (.chime c) (leBytes 64 x) with ctxs := [(1, cx)], comms := [(1, ⟨0, [(d, 0), (d, 1)], [], said⟩)] }
/-- The digest of its log. -/
def digestM : Nat := 0xAF769CC8B1F9C57F
/-- Its check in the re-execution, with a digest of its own. -/
def chimeR (m e : Nat) (own : Dword) : ChimeOp := { chimeA 0 (some (recM m 1 e)) with rerun := true, ready := true, first := 3, own := own }
/-- The context then, at a command slot, with queue 0 in slot 0. -/
def ctxR (n : Option (Nat × Nat)) : Ctx := { ctxM with replay := n, cmdQueues := [(0, 0)], stopped := true, serial := true }

theorem atWork_chime (c : ChimeOp) (x : Nat) (cx : Ctx) (l : List SeqMsg) : AtWork (sChime c x cx l) (opOf 30 .coll (.chime c)) := by
  refine ⟨rfl, ?_, (by decide : (7 : Nat) ≠ 0), ⟨by rfl, ?_⟩, rfl, ?_⟩
  · show (List.find? _ _) = _
    simp [sChime, sLines, sOp, opOf]
  · intro x h _; rw [List.mem_singleton.mp h]; rfl
  · intro x h _ _ n; rw [List.mem_singleton.mp h] at n; exact absurd rfl n

/-- What the witnesses of checks share. -/
theorem checking_of {c : ChimeOp} {x : Nat} {cx : Ctx} {l : List SeqMsg} (hc : c.addr = 0) (hx : c.recd = some x) (hi : cx.id = 1)
    (hb : (ChimeRec.ofNat x).base = 128 ∧ (ChimeRec.ofNat x).len = 1) (h : AtHome (sChime c x cx l) 1 0 .ewr ∧ AtHome (sChime c x cx l) 1 1 .rd)
    (hd : (lineData (sChime c x cx l) 1 0).length = 128 ∧ (sChime c x cx l).opCtx (opOf 30 .coll (.chime c)) = 1 ∧
      (sChime c x cx l).homeDie 1 1 = 0) : Checking (sChime c x cx l) (opOf 30 .coll (.chime c)) c x cx := by
  refine ⟨atWork_chime _ _ _ _, rfl, rfl, hx, by rw [hc]; decide, by rw [hc]; decide, by rw [hd.2.1]; rfl, by rw [hi, hd.2.1],
    by rw [hd.2.1, hc]; exact h.1, by rw [hd.2.1, hc]; exact hd.1, ⟨by rw [hb.1]; decide, by rw [hb.1, hb.2]; decide, ?_, ?_⟩,
    by rw [hb.1, hc]; decide, ⟨_, rfl⟩, fun p h => absurd h List.not_mem_nil⟩
  · rw [hd.2.1, hb.1]; exact h.2
  · rw [hd.2.1, hb.1, (by decide : (128 : Dword).toNat / 128 = 1)]; exact hd.2.2.trans (show 0 = dieOf 0 by decide)

/-- Records that cannot be read, one that is refused, one that is taken. -/
theorem witness_ChimePhases_record :
    (let s := sChime (chimeA 0x20000000000000 none) 0 ctxM []
     s.wave.name = 0 ∧ s.opAt 30 = some (opOf 30 .coll (.chime (chimeA 0x20000000000000 none))) ∧ s.chimeReady 30 = true) ∧
    (sChime (chimeA 32 none) 0 ctxM []).chimeReady 30 = true ∧
    (∀ x, x = 0 ∨ x = recM 1 0 0 → let s := sChime (chimeA 0 none) x ctxM []
      s.chimeReady 30 = true ∧ bytesHome s (opOf 30 .coll (.chime (chimeA 0 none))) 0 64 .rd ∧
        (chimeAccepted (leNat (bytesAt s 1 0 64)) ↔ x ≠ 0) ∧ (ChimeRec.ofNat (leNat (bytesAt s 1 0 64))).mode ≠ 3) := by
  refine ⟨⟨rfl, by decide +kernel, by decide +kernel⟩, by decide +kernel, ?_⟩
  rintro x (rfl | rfl) <;>
    exact ⟨by decide +kernel, ⟨by decide, by decide, home_of (by decide +kernel), by decide +kernel⟩, by unfold chimeAccepted; decide +kernel,
      by decide +kernel⟩

/-- MODE 1; MODE 2 with equal digests, and with others, with and without lost commands; MODE 3 and the answer of the other rank. -/
theorem witness_ChimePhases :
    (∀ m e l, (m = 1 ∨ m = 2 ∨ m = 3) → e = 5 ∨ e = digestM → let c := chimeA 0 (some (recM m 1 e))
      let cx := { ctxM with replayLost := l }
      let s := sChime c (recM m 1 e) cx []
      Checking s (opOf 30 .coll (.chime c)) c (recM m 1 e) cx ∧ s.chimeReady 30 = true ∧ c.ready = false ∧
        (ChimeRec.ofNat (recM m 1 e)).mode = m ∧ (phaseValue s (opOf 30 .coll (.chime c)) (recM m 1 e) = (ChimeRec.ofNat (recM m 1 e)).expected ↔
          e = digestM) ∧ (ChimeRec.ofNat (recM m 1 e)).expLog = 0 ∧ AtHome s 1 1 .ewr ∧ (lineData s 1 1).length = 128 ∧
        s.chimeRank 1 1 = some 1) ∧
    (let c := { chimeA 0 (some (recM 3 1 0)) with ready := true, first := 6 }
     let s := sChime c (recM 3 1 0) ctxM [.chime 1 0 0 6 false []]
     Checking s (opOf 30 .coll (.chime c)) c (recM 3 1 0) ctxM ∧ s.chimeReady 30 = true ∧
       s.chimePeer (opOf 30 .coll (.chime c)) (ChimeRec.ofNat (recM 3 1 0)) false = some (6, [])) := by
  refine ⟨?_, checking_of rfl rfl (by decide +kernel) (by decide +kernel) ⟨home_of (by decide +kernel), home_of (by decide +kernel)⟩ (by decide +kernel),
    by decide +kernel, by decide +kernel⟩
  rintro m e l (rfl | rfl | rfl) (rfl | rfl) <;> cases l <;>
    exact ⟨checking_of rfl rfl (by decide +kernel) (by decide +kernel) ⟨home_of (by decide +kernel), home_of (by decide +kernel)⟩ (by decide +kernel),
      by decide +kernel, rfl, by decide +kernel, by decide +kernel, by decide +kernel, home_of (by decide +kernel), by decide +kernel,
      by decide +kernel⟩

/-- A slot is left to run; MODE 2 after the last, with equal digests and others; MODE 3 after the last; the answer of the other rank,
equal and not. -/
theorem witness_ChimeReplays :
    (∀ n e, (n = 0 ∨ n = 1) → e = 5 ∨ e = digestM → let c := chimeR 2 e 0
      let s := sChime c (recM 2 1 e) (ctxR (some (30, n))) []
      Checking s (opOf 30 .coll (.chime c)) c (recM 2 1 e) (ctxR (some (30, n))) ∧ s.replayReady 30 = true ∧
        s.replayNext 1 = (if n = 0 then some (0, 0) else none) ∧
        (phaseValue s (opOf 30 .coll (.chime c)) (recM 2 1 e) = (ChimeRec.ofNat (recM 2 1 e)).expected ↔ e = digestM)) ∧
    (let c := chimeR 3 0 0
     let s := sChime c (recM 3 1 0) (ctxR (some (30, 1))) []
     Checking s (opOf 30 .coll (.chime c)) c (recM 3 1 0) (ctxR (some (30, 1))) ∧ s.replayReady 30 = true ∧
       s.replayNext 1 = none ∧ (ChimeRec.ofNat (recM 3 1 0)).mode = 3 ∧ s.chimeRank 1 1 = some 1) ∧
    (∀ d, d = 6 ∨ d = 7 → let c := chimeR 3 0 6
     let s := sChime c (recM 3 1 0) (ctxR none) [.chime 1 0 0 d true []]
     Checking s (opOf 30 .coll (.chime c)) c (recM 3 1 0) (ctxR none) ∧ s.replayReady 30 = true ∧
       s.chimePeer (opOf 30 .coll (.chime c)) (ChimeRec.ofNat (recM 3 1 0)) true = some (d, [])) := by
  refine ⟨?_, ⟨checking_of rfl rfl (by decide +kernel) (by decide +kernel) ⟨home_of (by decide +kernel), home_of (by decide +kernel)⟩ (by decide +kernel),
    by decide +kernel, by decide +kernel, by decide +kernel, by decide +kernel⟩, ?_⟩
  · rintro n e (rfl | rfl) (rfl | rfl) <;>
      exact ⟨checking_of rfl rfl (by decide +kernel) (by decide +kernel) ⟨home_of (by decide +kernel), home_of (by decide +kernel)⟩ (by decide +kernel),
        by decide +kernel, by decide +kernel, by decide +kernel⟩
  · rintro d (rfl | rfl) <;>
      exact ⟨checking_of rfl rfl (by decide +kernel) (by decide +kernel) ⟨home_of (by decide +kernel), home_of (by decide +kernel)⟩ (by decide +kernel),
        by decide +kernel, by decide +kernel⟩

/-- Stores, an SST, an atomic and a conditional store, each by a wave in focus. -/
theorem witness_ReservationsCleared :
    (laneStoreOf (.sts .b32 .rlx .wave (rv 2) (rv 1) 0) = some (rv 2, .b32) ∧ Clear sEdge (.sts .b32 .rlx .wave (rv 2) (rv 1) 0) ∧
      Reachable sEdge (.sts .b32 .rlx .wave (rv 2) (rv 1) 0) ∧ sEdge.wave.name ≠ 0 ∧ (MSize.b32.regs = 1 ∨ ∃ r, rv 2 = .reg r)) ∧
    (∃ x, Clear s0 (.sst (rs 1) (.lit 0xFFFFC) 0) ∧ s0.wave.name ≠ 0 ∧ s0.spadResolve none (wordAddr s0 (.lit 0xFFFFC) 0) 4 = some x ∧
      (wordAddr s0 (.lit 0xFFFFC) 0).toNat % 4 = 0) ∧
    (laneAtomicOf (.atw .add .rlx .wave (.v 118) (rv 1) 0) = some (.add, .v 118, .rlx, .wave) ∧
      Clear sWin (.atw .add .rlx .wave (.v 118) (rv 1) 0) ∧ Reachable sWin (.atw .add .rlx .wave (.v 118) (rv 1) 0) ∧
      sWin.hasReg (.v 118) ∧ sWin.wave.name ≠ 0) ∧
    (Clear sRes (.stcond .ar .group 54 (rv 2) (rv 1)) ∧ Reachable sRes (.stcond .ar .group 54 (rv 2) (rv 1)) ∧ sRes.wave.name ≠ 0) :=
  ⟨⟨rfl, clear_of (by decide), reachable_of rfl (by decide +kernel) (by decide +kernel), by decide, .inl rfl⟩,
   ⟨_, clear_of (by decide), by decide, rfl, by decide⟩,
   ⟨rfl, clear_of (by decide), reachable_of rfl (by decide +kernel) (by decide +kernel), by show 118 + 0 < _; decide, by decide⟩,
   clear_of (by decide), reachable_of rfl (by decide +kernel) (by decide +kernel), by decide⟩

/-- An initialization; an arrival that completes, by BARARR and BARARW; one that does not. -/
theorem witness_BarrierReleases :
    (Clear (withS [(4, 1)]) (.barinit (.lit 0) 4) ∧ objectAt (withS [(4, 1)]) ((withS [(4, 1)]).ssrc (.lit 0)) = some 0 ∧
      ¬ initRefused ((withS [(4, 1)]).pget 4)) ∧
    (let s := sBar one
     Clear s (.bararr 1 (.lit 0) (.lit 0)) ∧ Clear s (.bararw 1 (.lit 0) (.lit 0)) ∧ s.slot.rewait = none ∧ s.slot.park = .no ∧
      objectAt s (s.ssrc (.lit 0)) = some 0 ∧ Memory.wf s.spad = true ∧ (s.barGet 0).reserved = 0 ∧
      refusedArrival (s.barGet 0) (s.ssrc (.lit 0)) = false ∧ complete (arrived (s.barGet 0) (s.ssrc (.lit 0)))) ∧
    (let s := sBar { one with pending := 2, expected := 2 }
     ¬ complete (arrived (s.barGet 0) (s.ssrc (.lit 0))) ∧ (s.barGet 0).faulted = false) :=
  ⟨⟨clear_of (by decide), by decide, by unfold initRefused; decide⟩,
   ⟨clear_of (by decide), clear_of (by decide), rfl, rfl, by decide, by decide, by decide, by decide, by unfold complete; decide⟩,
   by unfold complete; decide, by decide⟩

/-- The last 12 bytes of the scratchpad, and an address off a multiple of 16. -/
theorem witness_BarrierAddressFaults :
    (objectOf (.barwait 1 (.lit 0xFFFF4) (.lit 0)) = some (.lit 0xFFFF4) ∧ Clear s0 (.barwait 1 (.lit 0xFFFF4) (.lit 0)) ∧
      s0.spadResolve none (s0.ssrc (.lit 0xFFFF4)) 16 = none) ∧
    (Clear s0 (.bararr 1 (.lit 0xFFFE8) (.lit 0)) ∧ s0.spadResolve none (s0.ssrc (.lit 0xFFFE8)) 16 ≠ none ∧
      (s0.ssrc (.lit 0xFFFE8)).toNat % 16 ≠ 0) :=
  ⟨⟨rfl, clear_of (by decide), by decide⟩, clear_of (by decide), by decide, by decide⟩

/-- Lane 3 alone is active: its words of v2 and v3 are an address, that of v4 a barrier; scratchpad bytes at an address. -/
def sLane (lo hi bar : Word) (at_ : Nat) (b : List Byte) : State :=
  let v (s : State) (n : Nat) (x : Word) : State := s.vput allLanes (.v n) (lanesFn (fun _ => x))
  withLanes { v (v (v s0 2 lo) 3 hi) 4 bar with spad := cwrite 0 [] at_ b } 8
/-- Records in the scratchpad: reserved bits, a destination beyond the scratchpad, and in order. -/
def recBad : List Byte := List.replicate 64 0xFF
def recFar : Nat := 2 * 2 ^ 384 + 0x100000 * 2 ^ 64
def recOk : List Byte := leBytes 64 recA
/-- The copies of the address range v2 and v3 and the barriers of v4. -/
def bc : Instr := .bcopy (.v 2) (rv 4) false
def bp : Instr := .bcopyp (.v 2) (rv 4) 3

theorem leads (lo hi bar : Word) (n : Nat) (b : List Byte) : leader (sLane lo hi bar n b) 3 :=
  ⟨by decide, (by decide : (8 : Dword).getLsbD 3 = true), (by decide : ∀ j, j < 3 → (8 : Dword).getLsbD j = false)⟩

/-- What a copy's faults depend on. -/
def faultView (s : State) (lo hi : Word) : Prop :=
  Clear s bc ∧ Clear s bp ∧ leader s 3 ∧ engineAddr s (.v 2) 3 = hi ++ lo ∧ spadForm (hi ++ lo)

theorem view_of (lo hi bar : Word) (n : Nat) (b : List Byte) (hb : clearB (sLane lo hi bar n b) bc = true ∧ clearB (sLane lo hi bar n b) bp = true)
    (ha : engineAddr (sLane lo hi bar n b) (.v 2) 3 = hi ++ lo) (hs : (hi ++ lo).toNat / 2 ^ 62 = 3) :
    faultView (sLane lo hi bar n b) lo hi := ⟨clear_of hb.1, clear_of hb.2, leads _ _ _ _ _, ha, hs⟩

/-- The faults of copies, in their order: the form, the bounds, the layout, an element beyond the scratchpad, the alignment. -/
theorem witness_RecordFaults_copy :
    (faultView (sLane 0 0xC0000001 0x80000000 0 []) 0 0xC0000001) ∧
    (faultView (sLane 0xFFFF0 0xC0000000 0x80000000 0 []) 0xFFFF0 0xC0000000 ∧
      (sLane 0xFFFF0 0xC0000000 0x80000000 0 []).spadResolve none 0xFFFF0 64 = none) ∧
    (faultView (sLane 0 0xC0000000 0x80000000 0 recBad) 0 0xC0000000 ∧
      Layout.ofNat (leNat (cread 0 (sLane 0 0xC0000000 0x80000000 0 recBad).spad 0 64)) = none ∧
      (sLane 0 0xC0000000 0x80000000 0 recBad).spadResolve none 0 64 = some 0) ∧
    (∃ y, Layout.ofNat (leNat (cread 0 (sLane 0 0xC0000000 0x80000000 0 (leBytes 64 (recB 1))).spad 0 64)) = some y ∧ y.dir ≠ 0) ∧
    (∃ y, Layout.ofNat (leNat (cread 0 (sLane 0 0xC0000000 0x80000000 0 (leBytes 64 recFar)).spad 0 64)) = some y ∧ y.dir = 0 ∧
      y.src.toNat < 2 ^ 62 ∧ 0 < y.total ∧ recSpad s0.grp 0 (y.dstAt 0) y.esize = none) ∧
    (faultView (sLane 8 0xC0000000 0x80000000 8 recOk) 8 0xC0000000 ∧
      ∃ y, Layout.ofNat (leNat (cread 0 (sLane 8 0xC0000000 0x80000000 8 recOk).spad 8 64)) = some y ∧ y.dir = 0 ∧ y.total = 1 ∧
        recSpad s0.grp 0 (y.dstAt 0) y.esize ≠ none ∧ 2 ^ 31 ≤ (0x80000000 : Word).toNat) :=
  ⟨view_of _ _ _ _ _ (by decide) (by decide) (by decide), ⟨view_of _ _ _ _ _ (by decide) (by decide) (by decide), by decide⟩,
   ⟨view_of _ _ _ _ _ (by decide +kernel) (by decide +kernel) (by decide), by decide +kernel, by decide +kernel⟩,
   ⟨_, (by decide +kernel : Layout.ofNat _ = some (layB 1)), by decide +kernel⟩,
   ⟨(Layout.ofNat recFar).getD layA, by decide +kernel, by decide +kernel, by decide +kernel, by decide +kernel, by decide +kernel⟩,
   view_of _ _ _ _ _ (by decide +kernel) (by decide +kernel) (by decide), layA, by decide +kernel, by decide +kernel, by decide +kernel,
   by decide +kernel, by decide⟩

/-- The barrier of a copy whose record is not in the scratchpad: beyond the end, misaligned; and no enrolment. -/
theorem witness_RecordFaults_barrier :
    (∀ b, b = 0xFFFF4 ∨ b = 8 ∨ b = 0x80000000 → let s := sLane 0 0 b 0 []
      Clear s bc ∧ Clear s bp ∧ leader s 3 ∧ ¬ spadForm (engineAddr s (.v 2) 3) ∧ lane (s.vsrc (rv 4)) 3 = b) ∧
    (let s := sLane 0 0 0xFFFF4 0 []
     s.spadResolve none 0xFFFF4 16 = none) ∧ (let s := sLane 0 0 8 0 []
     s.spadResolve none 8 16 ≠ none) ∧ (⟨1, 3, 0, 5⟩ : Enrol) ∉ (sLane 0 0 0x80000000 0 []).enrols := by
  refine ⟨?_, by decide, by decide, by decide⟩
  rintro b (rfl | rfl | rfl) <;>
    exact ⟨clear_of (by decide), clear_of (by decide), leads _ _ _ _ _, by unfold spadForm; decide, by decide⟩

/-- S4:S5 holds an address, and scratchpad bytes stand at an address; communicator 1 has this context alone. -/
def sRec (a : Dword) (at_ : Nat) (b : List Byte) : State :=
  { (s0.pset 4 a) with spad := cwrite 0 [] at_ b, comms := [(1, ⟨0, [(s0.hub.config.device, 1)], [], []⟩)] }

/-- The same faults of a collective. -/
theorem witness_RecordFaults_coll :
    (∀ a, a = 0xC000000100000000 ∨ a = 0xC0000000000FFFF0 ∨ a = 0xC000000000000000 →
      Clear (sRec a 0 []) (.coll .allreduce 4 (.lit 0x80000000)) ∧ spadForm ((sRec a 0 []).pget 4)) ∧
    (let s := sRec 0xC0000000000FFFF0 0 []
     s.spadResolve none 0xFFFF0 64 = none) ∧
    (let s := sRec 0xC000000000000000 0 []
     mget s.comms (CollRec.ofNat (leNat (cread 0 s.spad 0 64))).comm = none) ∧
    (let s := sRec 0xC000000000000008 8 (leBytes 64 (2 ^ 192))
     let r := CollRec.ofNat (leNat (cread 0 s.spad 8 64))
     Clear s (.coll .allreduce 4 (.lit 0x80000000)) ∧ s.spadResolve none 8 64 = some 8 ∧ ∃ c, mget s.comms r.comm = some c ∧
      s.rankOf c s.grp.ctx = some 0 ∧ r.ok .allreduce c.ranks.length = true) ∧
    (∀ b, b = 0xFFFF4 ∨ b = 8 → Clear (sRec 0 0 []) (.coll .allreduce 4 (.lit b)) ∧ ¬ spadForm ((sRec 0 0 []).pget 4)) := by
  refine ⟨?_, by decide, by decide +kernel, ⟨clear_of (by decide), by decide, _, rfl, by decide +kernel, by decide +kernel⟩, ?_⟩
  · rintro a (rfl | rfl | rfl) <;> exact ⟨clear_of (by decide), by unfold spadForm; decide⟩
  · rintro b (rfl | rfl) <;> exact ⟨clear_of (by decide), by unfold spadForm; decide⟩

/-- Lanes 0 and 63 are active: engine addresses in v2 and v3, scratchpad addresses in v4. -/
def sEng (lo0 lo63 sp0 sp63 : Word) : State :=
  let v (s : State) (n : Nat) (x y : Word) : State := s.vput allLanes (.v n) (lanesFn (fun k => if k = 63 then y else x))
  withLanes (v (v s0 2 lo0 lo63) 4 sp0 sp63) 0x8000000000000001

/-- A misaligned engine address of lane 63 alone; a scratchpad address beyond the end; one off its alignment; an odd GCHUNK. -/
theorem witness_LaneEngineFaults :
    (let s := sEng 0 2 0 0
     let bad := dwordOf (fun j => s.exec.getLsbD j && (engineAddr s (.v 2) j).toNat % 4 != 0)
     Clear s (.gather .b32 (.v 2) (rv 4)) ∧ Clear s (.gatom .add .rlx .device true false (.v 2) (rv 4)) ∧ bad.getLsbD 63 = true ∧
      ∀ j, j < 63 → bad.getLsbD j = false) ∧
    (let s := sEng 0 4 2 0xFFFFD
     let out := outside s none (lane (s.vsrc (rv 4))) 4
     Clear s (.scatter .b32 true (.v 2) (rv 4)) ∧ (∀ j, j < 64 → s.exec.getLsbD j = true → (engineAddr s (.v 2) j).toNat % 4 = 0) ∧
      out.getLsbD 63 = true ∧ ∀ j, j < 63 → out.getLsbD j = false) ∧
    (let s := sEng 0 4 2 0xFFFF8
     outside s none (lane (s.vsrc (rv 4))) 4 = 0 ∧ (crooked s (lane (s.vsrc (rv 4))) 4).getLsbD 0 = true) ∧
    (Clear (withS [(4, 32)]) (.gchunk 1 4) ∧ ((withS [(4, 32)]).pget 4).toNat % 64 ≠ 0) :=
  ⟨⟨clear_of (by decide), clear_of (by decide), by decide +kernel, by decide +kernel⟩,
   ⟨clear_of (by decide), by decide +kernel, by decide +kernel, by decide +kernel⟩, ⟨by decide +kernel, by decide +kernel⟩,
   clear_of (by decide), by decide⟩

/-- Lanes 1 and 63 are active in core n, whose scale registers 0 and 1 hold a value. -/
def sMat (n : Nat) (msc : Word) : State :=
  let s := withLanes s0 0x8000000000000002
  { s with wave := { s.wave with core := n }, grp := { s.grp with core0 := n }, cores := mset [] n { Core.reset with msc := #v[msc, msc, 0, 0] } }

/-- The last column of a load beyond the scratchpad, with its data or its scales; a misaligned base; a misaligned stride. -/
theorem witness_MatrixFaults_load :
    (∀ a b msc, (a, b, msc) ∈ [(0, 16656, (0 : Word)), (8, 64, 0), (0, 8, 0), (0, 256, 0x800FFF00)] →
      Clear (sMat 0 msc) (.mloadw .e4m3 (.lit a) (.lit b)) ∧ (sMat 0 msc).grp.matrix = true) ∧
    (spanBad (sMat 0 0) .e4m3 1 (BitVec.ofNat 32 (63 * 16656)) 63 = true ∧
      ∀ j, j < 63 → spanBad (sMat 0 0) .e4m3 1 (BitVec.ofNat 32 (j * 16656)) j = false) ∧
    (∀ n, n < 64 → spanBad (sMat 0 0) .e4m3 1 (8 + BitVec.ofNat 32 (n * 64)) n = false) ∧
    (∀ n, n < 64 → spanBad (sMat 0 0) .e4m3 1 (BitVec.ofNat 32 (n * 8)) n = false) ∧
    (spanBad (sMat 0 0x800FFF00) .e4m3 1 (BitVec.ofNat 32 (32 * 256)) 32 = true ∧
      ∀ j, j < 32 → spanBad (sMat 0 0x800FFF00) .e4m3 1 (BitVec.ofNat 32 (j * 256)) j = false) := by
  refine ⟨?_, ⟨by decide +kernel, by decide +kernel⟩, by decide +kernel, by decide +kernel, by decide +kernel, by decide +kernel⟩
  intro a b msc h
  simp only [List.mem_cons, List.not_mem_nil, or_false, Prod.mk.injEq] at h
  rcases h with ⟨rfl, rfl, rfl⟩ | ⟨rfl, rfl, rfl⟩ | ⟨rfl, rfl, rfl⟩ | ⟨rfl, rfl, rfl⟩ <;> exact ⟨clear_of (by decide), rfl⟩

/-- The format before the role; a follower's reserved bits and the last core of a row; a row beyond the end; a misaligned base. -/
theorem witness_MatrixFaults_stream :
    (Clear (sMat 0 0) (.mstream .bf16 true (.v 0) (.lit 0) 0) ∧ (sMat 0 0).grp.matrix = true ∧
      formatsMeet .bf16 (planeTag ((sMat 0 0).core 0) ((sMat 0 0).core 0).active) = false) ∧
    (Clear (sMat 0 0) (.mstreamc .e4m3 true (.v 0) (.lit 0x80000002) 0) ∧
      formatsMeet .e4m3 (planeTag ((sMat 0 0).core 0) ((sMat 0 0).core 0).active) = true ∧ 0x80000002 / 2 % 2 ^ 30 ≠ 0) ∧
    (Clear (sMat 31 0) (.mstreamc .e4m3 true (.v 0) (.lit 0) 0) ∧ 31 % 4 = 3 ∧ 31 / 4 % 8 = 7) ∧
    (let bad := dwordOf (fun k => (sMat 0 0).exec.getLsbD k && spanBad (sMat 0 0) .e4m3 0 (0xFF000 + BitVec.ofNat 32 (k * 256)) k)
     Clear (sMat 0 0) (.mstream .e4m3 true (.v 0) (.lit 0xFF000) 0) ∧ bad.getLsbD 63 = true ∧ ∀ j, j < 63 → bad.getLsbD j = false) ∧
    (Clear (sMat 0 0) (.mstreamc .e4m3 true (.v 0) (.lit 8) 0) ∧ leader (sMat 0 0) 1 ∧
      dwordOf (fun k => (sMat 0 0).exec.getLsbD k && spanBad (sMat 0 0) .e4m3 0 (8 + BitVec.ofNat 32 (k * 256)) k) = 0) :=
  ⟨⟨clear_of (by decide), rfl, by decide⟩, ⟨clear_of (by decide), by decide, by decide⟩, ⟨clear_of (by decide), by decide, by decide⟩,
   ⟨clear_of (by decide), by decide +kernel, by decide +kernel⟩, clear_of (by decide), ⟨by decide, by decide, by decide⟩, by decide +kernel⟩

end Sys2Proof.Tests
end

section
namespace Sys2Proof.Machine
open Sys2Proof.Stated

/-! ## The checks of issue, one by one (R59, R278) -/

theorem State.staticCause_none (s : State) (i : Instr) (hf : s.featureAbsent i = false)
    (hb : opInFrame i.operands s.frame.blocks = true) : s.staticCause i = none := by
  simp [State.staticCause, hf, hb]

/-- A cause of the operands alone comes before every other check. -/
theorem State.check_static (s : State) (i : Instr) (c1 : State → Option Nat) (c3 : State → Option Raise)
    (free : List RegName) {c : Nat} (h : s.staticCause i = some c) : s.check i c1 c3 free = .trap { code := c } := by
  simp [State.check, h]

/-- A pending result outside the windows is waited for. -/
theorem State.check_pending (s : State) (i : Instr) (c1 : State → Option Nat) (c3 : State → Option Raise)
    (free : List RegName) (h : s.staticCause i = none) {r : RegName} (ht : r ∈ touched i s.frameKey)
    (hp : r ∈ s.pendingRegs) (hw : r ∉ s.windowRegs) (hfree : r ∉ free) : s.check i c1 c3 free = .wait .result := by
  have hany : s.pendingRegs.any (fun r => (touched i s.frameKey).contains r && !s.windowRegs.contains r &&
      !free.contains r) = true := List.any_eq_true.mpr ⟨r, hp, by simp [ht, hw, hfree]⟩
  simp only [State.check, h, hany, if_true]

/-- Nothing that the instruction touches is waited for. -/
theorem State.not_waits_of_ready (s : State) (i : Instr) (free : List RegName)
    (h : ∀ q, q ∈ touched i s.frameKey → q ∈ s.pendingRegs → q ∈ s.windowRegs ∨ q ∈ free) :
    s.pendingRegs.any (fun r => (touched i s.frameKey).contains r && !s.windowRegs.contains r && !free.contains r)
      = false := by
  rw [List.any_eq_false]
  intro q hq
  by_cases ht : q ∈ touched i s.frameKey
  · rcases h q ht hq with hw | hf
    · simp [hw]
    · simp [hf]
  · simp [ht]

/-- The instruction's own cause of class 0x01 comes after the wait for results. -/
theorem State.check_cause (s : State) (i : Instr) (c1 : State → Option Nat) (c3 : State → Option Raise)
    (free : List RegName) {c : Nat} (h : s.staticCause i = none)
    (hp : ∀ q, q ∈ touched i s.frameKey → q ∈ s.pendingRegs → q ∈ s.windowRegs ∨ q ∈ free) (h1 : c1 s = some c) :
    s.check i c1 c3 free = .trap { code := c } := by
  simp only [State.check, h, s.not_waits_of_ready i free hp, h1]
  rfl

/-- The trap of an open window comes after the instruction's own causes of class 0x01. -/
theorem State.check_window (s : State) (i : Instr) (c1 : State → Option Nat) (c3 : State → Option Raise)
    (free : List RegName) (h : s.staticCause i = none)
    (hp : ∀ q, q ∈ touched i s.frameKey → q ∈ s.pendingRegs → q ∈ s.windowRegs ∨ q ∈ free) (h1 : c1 s = none)
    {r : RegName} (ht : r ∈ touched i s.frameKey) (hw : r ∈ s.windowRegs) (hfree : r ∉ free) :
    s.check i c1 c3 free = .trap { code := 0x0201 } := by
  have hany : s.windowRegs.any (fun r => (touched i s.frameKey).contains r && !free.contains r) = true :=
    List.any_eq_true.mpr ⟨r, hw, by simp [ht, hfree]⟩
  simp only [State.check, h, s.not_waits_of_ready i free hp, h1, hany]
  rfl

/-- No register of the instruction is the result of an open window. -/
theorem State.not_windows_of_shut (s : State) (i : Instr) (free : List RegName)
    (h : ∀ r, r ∈ touched i s.frameKey → r ∉ s.windowRegs) :
    s.windowRegs.any (fun r => (touched i s.frameKey).contains r && !free.contains r) = false := by
  rw [List.any_eq_false]
  intro q hq
  have ht : q ∉ touched i s.frameKey := fun ht => h q ht hq
  simp [ht]

/-- The instruction's own fault comes after its windows. -/
theorem State.check_fault (s : State) (i : Instr) (c1 : State → Option Nat) (c3 : State → Option Raise)
    (free : List RegName) {r : Raise} (h : s.staticCause i = none)
    (hr : ∀ r, r ∈ touched i s.frameKey → r ∉ s.pendingRegs ∧ r ∉ s.windowRegs) (h1 : c1 s = none) (h3 : c3 s = some r) :
    s.check i c1 c3 free = .trap r := by
  simp only [State.check, h, s.not_waits_of_ready i free (fun q ht hq => absurd hq (hr q ht).1), h1,
    s.not_windows_of_shut i free (fun q ht => (hr q ht).2), h3]
  rfl

/-- An acquire of the wave holds the instruction back last. -/
theorem State.check_order (s : State) (i : Instr) (c1 : State → Option Nat) (c3 : State → Option Raise)
    (free : List RegName) (h : s.staticCause i = none)
    (hr : ∀ r, r ∈ touched i s.frameKey → r ∉ s.pendingRegs ∧ r ∉ s.windowRegs) (h1 : c1 s = none) (h3 : c3 s = none)
    (hheld : s.heldBack i = true) : s.check i c1 c3 free = .wait .order := by
  simp only [State.check, h, s.not_waits_of_ready i free (fun q ht hq => absurd hq (hr q ht).1), h1,
    s.not_windows_of_shut i free (fun q ht => (hr q ht).2), h3, hheld]
  rfl

/-- With nothing else in the way an instruction takes the trap of its own cause. -/
theorem State.check_cause_of_clear (s : State) (i : Instr) (c1 : State → Option Nat) (c3 : State → Option Raise)
    (free : List RegName) {c : Nat} (h : Clear s i) (h1 : c1 s = some c) : s.check i c1 c3 free = .trap { code := c } :=
  s.check_cause i c1 c3 free (s.staticCause_none i h.feature h.inFrame) (fun q ht hq => absurd hq (h.ready q ht)) h1

/-- With nothing else in the way an instruction takes the trap of its own fault. -/
theorem State.check_fault_of_clear (s : State) (i : Instr) (c1 : State → Option Nat) (c3 : State → Option Raise)
    (free : List RegName) {r : Raise} (h : Clear s i) (h1 : c1 s = none) (h3 : c3 s = some r) :
    s.check i c1 c3 free = .trap r :=
  s.check_fault i c1 c3 free (s.staticCause_none i h.feature h.inFrame) (fun q ht => ⟨h.ready q ht, h.shut q ht⟩) h1 h3

/-- An instruction that nothing holds back is performed, its checks passed. -/
theorem State.issueWith_go (s : State) (i : Instr) (c1 : State → Option Nat) (c3 : State → Option Raise)
    (free : List RegName) (run : State → State) (h : Clear s i) (h1 : c1 s = none) (h3 : c3 s = none) :
    s.issueWith i c1 c3 free run = (run s.tick).openWindow i s.frameKey :=
  s.issueHold_go i c1 c3 free _ run h h1 h3 rfl

theorem State.issueWith_cause (s : State) (i : Instr) (c1 : State → Option Nat) (c3 : State → Option Raise)
    (free : List RegName) (run : State → State) {c : Nat} (h : Clear s i) (h1 : c1 s = some c) :
    s.issueWith i c1 c3 free run = s.raise i.words { code := c } := by
  simp only [State.issueWith, State.issueHold, s.check_cause_of_clear i c1 c3 free h h1]

theorem State.issueWith_fault (s : State) (i : Instr) (c1 : State → Option Nat) (c3 : State → Option Raise)
    (free : List RegName) (run : State → State) {r : Raise} (h : Clear s i) (h1 : c1 s = none) (h3 : c3 s = some r) :
    s.issueWith i c1 c3 free run = s.raise i.words r := by
  simp only [State.issueWith, State.issueHold, s.check_fault_of_clear i c1 c3 free h h1 h3]

/-! ## System registers (R28 to R31, R112) -/

@[simp] theorem Wave.setSlotAt_mark (w : Wave) (k : Nat) (f : Slot) : (w.setSlotAt k f).mark = w.mark := by
  unfold Wave.setSlotAt; split <;> rfl
@[simp] theorem Wave.setSlotAt_ecnt (w : Wave) (k : Nat) (f : Slot) : (w.setSlotAt k f).ecnt = w.ecnt := by
  unfold Wave.setSlotAt; split <;> rfl
@[simp] theorem Wave.setSlotAt_window (w : Wave) (k : Nat) (f : Slot) : (w.setSlotAt k f).window = w.window := by
  unfold Wave.setSlotAt; split <;> rfl
@[simp] theorem Wave.setSlotAt_cycleHi (w : Wave) (k : Nat) (f : Slot) : (w.setSlotAt k f).cycleHi = w.cycleHi := by
  unfold Wave.setSlotAt; split <;> rfl
@[simp] theorem Wave.setSlotAt_timeHi (w : Wave) (k : Nat) (f : Slot) : (w.setSlotAt k f).timeHi = w.timeHi := by
  unfold Wave.setSlotAt; split <;> rfl

@[simp] theorem Slot.ticked_stk (f : Slot) : f.ticked.stk = f.stk := rfl
@[simp] theorem Slot.ticked_valid (f : Slot) : f.ticked.valid = f.valid := rfl

/-- Counting an instruction changes the issuing slot of the wave only. -/
theorem State.tick_wave (s : State) : s.tick.wave = s.wave.setSlotAt s.wave.cur s.slot.ticked := rfl

@[simp] theorem State.tick_cur (s : State) : s.tick.wave.cur = s.wave.cur := by simp [State.tick_wave]
@[simp] theorem State.tick_core (s : State) : s.tick.wave.core = s.wave.core := by simp [State.tick_wave]
@[simp] theorem State.tick_flags (s : State) : s.tick.wave.flags = s.wave.flags := by simp [State.tick_wave]
@[simp] theorem State.tick_mark (s : State) : s.tick.wave.mark = s.wave.mark := by simp [State.tick_wave]
@[simp] theorem State.tick_count (s : State) (k : Nat) : s.tick.wave.count k = s.wave.count k := by
  simp [State.tick_wave, Wave.count]
@[simp] theorem State.tick_window (s : State) : s.tick.wave.window = s.wave.window := by simp [State.tick_wave]
@[simp] theorem State.tick_cycleHi (s : State) : s.tick.wave.cycleHi = s.wave.cycleHi := by simp [State.tick_wave]
@[simp] theorem State.tick_timeHi (s : State) : s.tick.wave.timeHi = s.wave.timeHi := by simp [State.tick_wave]

@[simp] theorem State.tick_slot0_valid (s : State) : s.tick.wave.slot0.valid = s.wave.slot0.valid := by
  by_cases h : s.wave.cur = 0 <;> simp [State.tick_wave, Wave.setSlotAt, State.slot, Wave.slot, Wave.slotAt, h]
@[simp] theorem State.tick_slot1_valid (s : State) : s.tick.wave.slot1.valid = s.wave.slot1.valid := by
  by_cases h : s.wave.cur = 0 <;> simp [State.tick_wave, Wave.setSlotAt, State.slot, Wave.slot, Wave.slotAt, h]
@[simp] theorem State.tick_frame (s : State) : s.tick.frame = s.frame := by
  unfold State.frame
  rw [State.tick_frameKey]
  simp [Wave.frame, State.tick_wave]

@[simp] theorem State.tick_sysRead (s : State) (n : Nat) : s.tick.sysRead n = s.sysRead n := by
  unfold State.sysRead
  simp only [State.tick_frame, State.tick_slot, State.tick_slot0_valid, State.tick_slot1_valid, State.tick_cur,
    State.tick_core, State.tick_flags, State.tick_mark, State.tick_count, State.tick_window, State.tick_cycleHi,
    State.tick_timeHi, State.tick_grp, Slot.ticked_depth, Slot.ticked_stk]
  rfl

theorem b2n_eq_toNat (b : Bool) : b2n b = b.toNat := by cases b <;> rfl

theorem getD_map_promise (c : Option Ctx) : (c.map Ctx.promise).getD false = c.any (fun c => c.promise) := by
  cases c <;> rfl

/-- The low word of a number. -/
theorem ofNat_mod_two_pow (x : Nat) : BitVec.ofNat 32 (x % 2 ^ 32) = BitVec.ofNat 32 x := by
  apply BitVec.eq_of_toNat_eq
  simp

theorem loWord_eq_ofNat (x : Dword) : loWord x = BitVec.ofNat 32 (x.toNat % 2 ^ 32) := by
  apply BitVec.eq_of_toNat_eq
  simp [loWord]

theorem hiWord_eq_ofNat (x : Dword) : hiWord x = BitVec.ofNat 32 (x.toNat / 2 ^ 32) := by
  apply BitVec.eq_of_toNat_eq
  simp [hiWord, Nat.shiftRight_eq_div_pow]

/-- The upper half of a count that is taken modulo 2^64. -/
theorem hiWord_ofNat (x : Nat) : hiWord (BitVec.ofNat 64 x) = BitVec.ofNat 32 (x / 2 ^ 32) := by
  rw [hiWord_eq_ofNat]
  apply BitVec.eq_of_toNat_eq
  simp only [BitVec.toNat_ofNat]
  omega

/-- The numbers of R29 and R30 are the ones that the model assigns. -/
theorem sysAssigned_iff (n : Nat) : sysAssigned n = true ↔ n ∈ sysNumbers := by
  simp only [sysAssigned, sysNumbers, Bool.or_eq_true, Bool.and_eq_true, decide_eq_true_eq, beq_iff_eq, List.mem_cons,
    List.not_mem_nil, or_false]
  omega

theorem sysCause_of_mem (n : BitVec 12) (h : n.toNat ∈ sysNumbers) : sysCause n = none := by
  simp [sysCause, (sysAssigned_iff _).mpr h]

theorem sysCause_of_notMem (n : BitVec 12) (h : n.toNat ∉ sysNumbers) : sysCause n = some 0x0108 := by
  simp [sysCause, mt (sysAssigned_iff _).mp h]

/-- A register that reads a value is assigned. -/
theorem mem_sysNumbers_of_sysValue (s : State) (n : Nat) (x : Word) (h : sysValue s n = some x) : n ∈ sysNumbers := by
  unfold sysValue at h
  split at h
  case h_22 => cases h
  all_goals simp [sysNumbers]

/-- The model reads what R29 and R30 say. -/
theorem sysRead_of_sysValue (s : State) (n : Nat) (x : Word) (h : sysValue s n = some x) : s.sysRead n = x := by
  unfold sysValue at h
  split at h
  case h_22 => cases h
  case h_1 => exact (BitVec.ofNat_toNat 32 _).symm.trans (Option.some.inj h)
  case h_3 | h_9 =>
    refine Eq.trans ?_ (Option.some.inj h)
    simp only [State.sysRead, b2n_eq_toNat, Nat.reducePow]
  case h_8 =>
    refine Eq.trans ?_ (Option.some.inj h)
    simp only [State.sysRead, b2n_eq_toNat, getD_map_promise]
  case h_14 => exact (loWord_eq_ofNat _).trans (Option.some.inj h)
  case h_16 => exact (ofNat_mod_two_pow _).symm.trans (Option.some.inj h)
  all_goals exact Option.some.inj h

/-- The latch of a LO register takes the upper half of its counter (R31). -/
theorem sysLatch_eq_latched (s : State) (n : Nat) : s.sysLatch n = latched s n := by
  unfold State.sysLatch latched
  rw [hiWord_eq_ofNat s.cycles, hiWord_ofNat]

/-- SGET of an assigned number. -/
theorem exec_sget (s : State) (d : SReg) (n : BitVec 12) (h : Clear s (.sget d n)) (hn : n.toNat ∈ sysNumbers) :
    exec (.sget d n) s = .next (performed s (.sget d n) (fun u => (latched u n.toNat).sset d (s.sysRead n.toNat))) := by
  have e : exec (.sget d n) s = .next (((s.tick.sysLatch n.toNat).sset d (s.tick.sysRead n.toNat)).nextPc (.sget d n)
      |>.openWindow (.sget d n) s.frameKey) :=
    congrArg Host.Outcome.next (s.issueWith_go _ _ _ _ _ h (sysCause_of_mem n hn) rfl)
  rw [e, State.tick_sysRead, sysLatch_eq_latched]
  rfl

/-- SSET of an assigned number: FLAGS alone is written. -/
theorem exec_sset (s : State) (a : SSrc) (n : BitVec 12) (h : Clear s (.sset a n)) (hn : n.toNat ∈ sysNumbers) :
    exec (.sset a n) s = .next (performed s (.sset a n) (fun u =>
      if n = 0 then { u with wave := { u.wave with flags := (s.ssrc a).extractLsb' 0 6 } } else u)) := by
  refine (congrArg Host.Outcome.next (s.issueWith_go _ _ _ _ _ h (sysCause_of_mem n hn) rfl)).trans ?_
  rw [State.tick_ssrc, BitVec.setWidth_eq_extractLsb' (by omega)]
  by_cases hz : n = 0
  · subst hz; rfl
  · have hz' : ¬ n.toNat = 0 := fun e => hz (BitVec.eq_of_toNat_eq e)
    simp only [performed, if_neg hz, if_neg hz']

/-- Settles O1: an assigned number is performed, with the value that the model reads (R29, R30), and an unassigned one takes
the trap of its cause (R28). -/
theorem systemRegisters : Obligations.SystemRegisters := by
  refine ⟨fun s d n x hx h => ?_, fun s a n hn h => exec_sset s a n h hn, fun s d n hn h => ?_, fun s a n hn h => ?_⟩
  · rw [exec_sget s d n h (mem_sysNumbers_of_sysValue s _ x hx), sysRead_of_sysValue s _ x hx]
  · exact congrArg Host.Outcome.next (s.issueWith_cause _ _ _ _ _ h (sysCause_of_notMem n hn))
  · exact congrArg Host.Outcome.next (s.issueWith_cause _ _ _ _ _ h (sysCause_of_notMem n hn))

/-! ## Masks from their bits -/

/-- The bits of a number built from its lowest bit upwards. -/
theorem testBit_foldr_bits (f : Nat → Bool) (n : Nat) :
    ∀ a j, ((List.range' a n).foldr (fun k m => (f k).toNat + 2 * m) 0).testBit j = (decide (j < n) && f (a + j)) := by
  induction n with
  | zero => intro a j; simp
  | succ n ih =>
      intro a j
      rw [List.range'_succ, List.foldr_cons]
      cases j with
      | zero => cases f a <;> simp
      | succ j =>
          have hdiv : ∀ m, ((f a).toNat + 2 * m) / 2 = m := fun m => by cases f a <;> simp; omega
          rw [Nat.testBit_succ, hdiv, ih (a + 1) j]
          simp [Nat.add_assoc, Nat.add_comm 1 j]

/-- The bits of `dwordOf`. -/
theorem getLsbD_dwordOf (f : Nat → Bool) (k : Nat) : (dwordOf f).getLsbD k = (decide (k < 64) && f k) := by
  unfold dwordOf
  rw [List.range_eq_range', BitVec.getLsbD_ofNat, testBit_foldr_bits, Nat.zero_add]
  simp

/-- A mask of which no lane passes the test is empty. -/
theorem maskOf_eq_zero (f : Nat → Bool) (h : ∀ k, k < 64 → f k = false) : maskOf f = 0 := by
  unfold maskOf
  suffices hs : ∀ (l : List Nat) (m : Dword), (∀ k, k ∈ l → f k = false) →
      l.foldl (fun m i => if f i then m ||| laneBit i else m) m = m from
    hs _ _ (fun k hk => h k (List.mem_range.mp hk))
  intro l
  induction l with
  | nil => intros; rfl
  | cons x l ih =>
      intro m hl
      rw [List.foldl_cons, hl x List.mem_cons_self]
      exact ih m (fun k hk => hl k (List.mem_cons_of_mem _ hk))

theorem eq_false_of_dwordOf_eq_zero {f : Nat → Bool} (h : dwordOf f = 0) {k : Nat} (hk : k < 64) : f k = false := by
  have hb := getLsbD_dwordOf f k
  rw [h, decide_eq_true hk] at hb
  simpa using hb.symm

theorem lane_fill (x : Word) {k : Nat} (hk : k < 64) : lane (Lanes.fill x) k = x := by
  simp [lane, Lanes.fill, hk]

/-- Accesses that are all in bounds and aligned raise nothing (R172). -/
theorem State.laneRaise_none (s : State) (w : Option Bool) (v : Lanes) (addr : Nat → Word) (n : Nat)
    (hv : ∀ k, k < 64 → lane v k = addr k) (hb : outside s w addr n = 0) (ha : crooked s addr n = 0) :
    s.laneRaise w v n = none := by
  have hB : maskOf (fun i => bit s.exec i && (s.spadResolve w (lane v i) n).isNone) = 0 := by
    refine maskOf_eq_zero _ fun k hk => ?_
    have hz := eq_false_of_dwordOf_eq_zero hb hk
    cases hr : s.spadResolve w (addr k) n <;> simp_all [bit]
  have hA : maskOf (fun i => bit s.exec i && !aligned (lane v i) n) = 0 := by
    refine maskOf_eq_zero _ fun k hk => ?_
    have hz := eq_false_of_dwordOf_eq_zero ha hk
    rw [hv k hk]
    exact hz
  simp [State.laneRaise, hB, hA]

/-! ## Every instruction follows the checks (R59, R278) -/

/-- What comes of an instruction is what its checks answer, where they do not let it go on: with `c1` and `c3` its own causes
of class 0x01 and its own faults. The faults of class 0x04 are left out: before its own, ENQ opens the bin (R250). -/
structure Follows (s : State) (i : Instr) (c1 : State → Option Nat) (c3 : State → Option Raise) (free : List RegName)
    (t : State) : Prop where
  trap : ∀ r, s.check i c1 c3 free = .trap r → r.code / 256 < 4 → t = s.raise i.words r
  wait : ∀ w, s.check i c1 c3 free = .wait w → t = s.stallOn w

section
variable (s : State) (i : Instr)

/-! ### The shared forms -/

theorem follows_issueHold (c1 : State → Option Nat) (c3 : State → Option Raise) (free : List RegName)
    (hold : State → Option Stall) (run : State → State) :
    Follows s i c1 c3 free (s.issueHold i c1 c3 free hold run) where
  trap r hr _ := by rw [State.issueHold, hr]
  wait w hw := by rw [State.issueHold, hw]

theorem follows_issueWith (c1 : State → Option Nat) (c3 : State → Option Raise) (free : List RegName)
    (run : State → State) : Follows s i c1 c3 free (s.issueWith i c1 c3 free run) :=
  follows_issueHold s i c1 c3 free _ run

theorem follows_issue (run : State → State) : Follows s i (fun _ => none) (fun _ => none) [] (s.issue i run) :=
  follows_issueWith s i _ _ _ _

theorem follows_engineIssue (cls : Cls) (c1 : State → Option Nat) (c3 : State → Option Raise) (run : State → State) :
    Follows s i c1 c3 [] (s.engineIssue i cls c1 c3 run) where
  trap r hr _ := by rw [State.engineIssue, hr]
  wait w hw := by rw [State.engineIssue, hw]

theorem follows_matrixIssue (c1 : State → Option Nat) (c3 : State → Option Raise) (free : List RegName)
    (run : State → State) : Follows s i c1 c3 free (s.matrixIssue i c1 c3 free run) where
  trap r hr _ := by rw [State.matrixIssue, hr]
  wait w hw := by rw [State.matrixIssue, hw]

theorem follows_lanewise (d : VReg) (f : State → Nat → Word × BitVec 6) :
    Follows s i (fun _ => none) (fun _ => none) [] (s.lanewise i d f) := follows_issue s i _

theorem follows_crossLane (d : VReg) (f : State → Nat → Word) :
    Follows s i (fun _ => none) (fun _ => none) [] (s.crossLane i d f) := follows_issue s i _

theorem follows_convertLanes (td ts : CvtTy) (rm : RMode) (sat : Bool) (d : VReg) (a : State → Lanes) :
    Follows s i (fun _ => none) (fun _ => none) [] (s.convertLanes i td ts rm sat d a) := follows_issue s i _

theorem follows_reduce (d : SReg) (a : VSrc) (x : Word) (op : Word → Word → Word × BitVec 6) :
    Follows s i (fun _ => none) (fun _ => none) [] (s.reduce i d a x op) := follows_issue s i _

theorem follows_uni (d : SReg) (f : State → Word) : Follows s i (fun _ => none) (fun _ => none) [] (s.uni i d f) :=
  follows_issue s i _

theorem follows_uniPair (d : SPair) (f : State → Dword) :
    Follows s i (fun _ => none) (fun _ => none) [] (s.uniPair i d f) := follows_issue s i _

theorem follows_laneLoad (w : Bool) (z : MSize) (o : Ord) (c : Scope) (d : VReg) (a : VSrc) :
    Follows s i (fun _ => none) (fun s => s.laneRaise (some w) (s.vsrc a) z.bytes) [] (s.laneLoad i w z o c d a) :=
  follows_issueWith s i _ _ _ _

theorem follows_laneStore (w : Bool) (z : MSize) (o : Ord) (c : Scope) (d a : VSrc) :
    Follows s i (fun _ => none) (fun s => s.laneRaise (some w) (s.vsrc a) z.bytes) [] (s.laneStore i w z o c d a) :=
  follows_issueWith s i _ _ _ _

theorem follows_laneAtomic (w : Bool) (op : AtomOp) (o : Ord) (c : Scope) (b : VReg) (a : VSrc) :
    Follows s i (fun _ => none) (fun s => s.laneRaise (some w) (s.vsrc a) 4) [] (s.laneAtomic i w op o c b a) :=
  follows_issueWith s i _ _ _ _

theorem follows_brd (neg : Bool) (p : SPair) (off : BitVec 18) (joff : Word) :
    Follows s i (fun s => s.brdCause neg p (s.pc + off.signExtend 32) (s.pc + joff)) (fun _ => none) []
      (s.brd i neg p off joff) := follows_issueWith s i _ _ _ _

theorem follows_call (dem : Nat) (target : State → Word) :
    Follows s i (fun s => if s.slot.depth = 63 then some 0x010C else none) (fun _ => none) [] (s.call i dem target) :=
  follows_issueWith s i _ _ _ _

theorem follows_semacq (d : SReg) (a b : SSrc) :
    Follows s (.semacq d a b) (fun s => s.semCause a) (fun _ => none) [] (s.semacq d a b) :=
  follows_issueWith s _ _ _ _ _

theorem follows_enq (many : Bool) (d : SReg) (a : SPair) (b : SSrc) :
    Follows s i (fun _ => none) (fun s => taskState (s.enqTry many (s.pget a) (s.ssrc b)).2.toOption.isNone) []
      (s.enq i many d a b) where
  trap r hr hc := by
    have hne : ¬ r.code = 0x0403 := fun e => by rw [e] at hc; exact absurd hc (by decide)
    rw [State.enq, hr]
    dsimp only
    split
    · rw [if_neg hne]
    · rfl
  wait w hw := by rw [State.enq, hw]

/-- WAITADDR, when it is at its issue. -/
theorem follows_waitaddr (k : WCond) (c : Scope) (d : SReg) (a : SPair) (b : SSrc)
    (hs : ∀ q n w, s.slot.stall ≠ .got q n w) :
    Follows s i (fun _ => none) (fun s => s.waitRaise (s.pget a)) [] (s.waitaddr i k c d a b) := by
  unfold State.waitaddr
  split
  · next q n w hq => exact absurd hq (hs q n w)
  · exact ⟨fun r hr _ => by rw [hr], fun w hw => by rw [hw]⟩

/-! ### What the causes and faults of an instruction's own can be -/

/-- The operands of an engine or lane instruction raise nothing. -/
def Passes : Prop := (∃ c, engineOf s i = some (c, none)) ∨ Reachable s i

/-- The operation is an instruction that follows the checks: its own causes are of class 0x01, and what the operands of an engine
or lane instruction raise is what the statements say. -/
def Issues : Prop :=
  ∃ c1 c3 t, exec i s = .next t ∧ Follows s i c1 c3 (freeOf s i) t ∧
    (∀ c, c1 s = some c → ownCause i = true ∧ c / 256 = 1) ∧ (Passes s i → c1 s = none ∧ c3 s = none)

end

section
variable {s t : State} {i : Instr} {c1 : State → Option Nat} {c3 : State → Option Raise}

theorem not_passes (he : engineOf s i = none) (hl : laneAccess s i = none) : ¬ Passes s i := by
  rintro (⟨c, h⟩ | ⟨w, addr, n, h, _⟩)
  · rw [he] at h; cases h
  · rw [hl] at h; cases h

/-- Instructions without causes of their own, neither engine instructions nor lane accesses. -/
theorem Issues.of_follows (hx : exec i s = .next t) (h : Follows s i (fun _ => none) c3 (freeOf s i) t)
    (he : engineOf s i = none) (hl : laneAccess s i = none) :
    Issues s i :=
  ⟨_, _, _, hx, h, nofun, fun p => absurd p (not_passes he hl)⟩

/-- Instructions with causes of their own. -/
theorem Issues.of_cause (hx : exec i s = .next t) (h : Follows s i c1 c3 (freeOf s i) t)
    (h1 : ∀ c, c1 s = some c → c / 256 = 1) (ho : ownCause i = true)
    (he : engineOf s i = none) (hl : laneAccess s i = none) : Issues s i :=
  ⟨_, _, _, hx, h, fun c hc => ⟨ho, h1 c hc⟩, fun p => absurd p (not_passes he hl)⟩

/-- Engine instructions: the fault is the one that `engineOf` names. -/
theorem Issues.of_engine {cls : Cls} (hx : exec i s = .next t) (h : Follows s i (fun _ => none) c3 (freeOf s i) t)
    (he : engineOf s i = some (cls, c3 s))
    (hl : laneAccess s i = none) : Issues s i := by
  refine ⟨_, _, _, hx, h, nofun, ?_⟩
  rintro (⟨c, hc⟩ | ⟨w, addr, n, hc, _⟩)
  · rw [he] at hc
    exact ⟨rfl, (Prod.mk.inj (Option.some.inj hc)).2⟩
  · rw [hl] at hc; cases hc

/-- Lane accesses: they raise what their bounds and alignment say. -/
theorem Issues.of_lanes {w : Option Bool} {v : Lanes} {addr : Nat → Word} {n : Nat}
    (hx : exec i s = .next t) (h : Follows s i (fun _ => none) c3 (freeOf s i) t)
    (he : engineOf s i = none) (hl : laneAccess s i = some (w, addr, n)) (h3 : c3 s = s.laneRaise w v n)
    (hv : ∀ k, k < 64 → lane v k = addr k) : Issues s i := by
  refine ⟨_, _, _, hx, h, nofun, ?_⟩
  rintro (⟨c, hc⟩ | ⟨w', addr', n', hc, hb, ha⟩)
  · rw [he] at hc; cases hc
  · rw [hl] at hc
    obtain ⟨rfl, rfl, rfl⟩ : w = w' ∧ addr = addr' ∧ n = n' := by simpa using hc
    exact ⟨rfl, h3.trans (s.laneRaise_none w v addr n hv hb ha)⟩

end

/-! ### The causes of class 0x01 -/

theorem sysCause_class (n : BitVec 12) (c : Nat) (h : sysCause n = some c) : c / 256 = 1 := by
  unfold sysCause at h
  split at h <;> cases h
  rfl

theorem State.brdCause_class (s : State) (neg : Bool) (p : SPair) (x y : Word) (c : Nat)
    (h : s.brdCause neg p x y = some c) : c / 256 = 1 := by
  unfold State.brdCause at h
  split at h <;> cases h
  rfl

theorem State.retCause_class (s : State) (c : Nat) (h : s.retCause = some c) : c / 256 = 1 := by
  obtain ⟨_, hc⟩ := Option.ite_none_right_eq_some.mp h
  cases hc
  rfl

theorem State.semCause_class (s : State) (a : SSrc) (c : Nat) (h : s.semCause a = some c) : c / 256 = 1 := by
  unfold State.semCause at h
  split at h <;> cases h
  rfl

theorem State.claimCause_class (s : State) (c : Nat) (h : s.claimCause = some c) : c / 256 = 1 := by
  unfold State.claimCause at h
  split at h <;> cases h
  rfl

theorem State.streamCause_class (s : State) (f : MFmt) (a : Option Word) (c : Nat) (h : s.streamCause f a = some c) :
    c / 256 = 1 := by
  unfold State.streamCause at h
  cases hc : s.claimCause with
  | some x =>
      rw [hc] at h
      exact s.claimCause_class c (hc.trans h)
  | none =>
      rw [hc] at h
      dsimp only at h
      repeat' split at h
      all_goals cases h
      all_goals rfl

theorem State.callCause_class (s : State) (c : Nat) (h : (if s.slot.depth = 63 then some 0x010C else none) = some c) :
    c / 256 = 1 := by
  obtain ⟨_, hc⟩ := Option.ite_none_right_eq_some.mp h
  cases hc
  rfl

/-! ### The table of the instructions -/

theorem issues_haltw (s : State) : Issues s .haltw := by
  refine .of_follows (c3 := fun _ => none) rfl ⟨fun r hr _ => ?_, fun w hw => ?_⟩ rfl rfl
  · rw [show s.check .haltw _ _ [] = _ from hr]
    rfl
  · rw [show s.check .haltw _ _ [] = _ from hw]

theorem issues_unwind (s : State) : Issues s .unwind := by
  refine .of_cause rfl (follows_issueHold s _ _ _ _ _ _) (fun c hc => ?_) rfl rfl rfl
  obtain ⟨_, hd⟩ := Option.ite_none_right_eq_some.mp hc
  cases hd
  rfl

theorem issues_mscale (s : State) (n : BitVec 2) (d : SReg) (a : SSrc) : Issues s (.mscale n d a) := by
  refine .of_cause rfl (follows_issueWith s _ _ _ _ _) (fun c hc => ?_) rfl rfl rfl
  split at hc
  · cases hc; rfl
  · exact s.claimCause_class c hc

/-- Every operation is an instruction that follows the checks, or a command or event, which names no register. -/
theorem issues_or_bare (s : State) (i : Instr) (hs : Starts s i) :
    Issues s i ∨ (i.operands = {} ∧ readsExec i = false ∧ ¬ Passes s i) := by
  cases i
  case vadd | vsub | vfma | vexp2s | vmul | vmulh | vmin | vmax | vand | vor | vxor | vshl | vshr | vsra | vbfe | vminF
      | vmaxF | vpack | vunpack | vmad | vbfi | vclamp | vdot4 | vnot | vpop | vclz | vmov | vabs | vneg | vaddF | vsubF
      | vmulF | vrcp | vrsq | vsqrt | vlog2 | vsin | vcos | vtanh =>
    exact .inl (.of_follows rfl (follows_lanewise s _ _ _) rfl rfl)
  case vlane | vlrot | vperm | vshuf => exact .inl (.of_follows rfl (follows_crossLane s _ _ _) rfl rfl)
  case vcvt | vcvtSat | vcvts => exact .inl (.of_follows rfl (follows_convertLanes s _ _ _ _ _ _ _) rfl rfl)
  case vredadd | vredmin | vredmax => exact .inl (.of_follows rfl (follows_reduce s _ _ _ _ _) rfl rfl)
  case vargmin | vargmax | smul | smulh | smad | sand | sor | sxor | sshl | sshr | ssra | smin | smax | ssel | smov | sclz
      | spop | slit | sbfe | sbfi | sreadl | mpop | mfirst =>
    exact .inl (.of_follows rfl (follows_uni s _ _ _) rfl rfl)
  case scmp | saddc | slea | mand | mor | mxor | mandn | mnot =>
    exact .inl (.of_follows rfl (follows_uniPair s _ _ _) rfl rfl)
  case vcmp | vsel | vmovs | vrand | vscan | vcompress | vexpand | sadd | ssub | msetx | nop | umark | sleepc | fence
      | winsel | cntrd | chimemark | ctxq =>
    exact .inl (.of_follows rfl (follows_issue s _ _) rfl rfl)
  case sld | sst | br | brc | join | exit | yield | trap | brkpt | waitcnt | pealjoin | pealleave | pealq | barinit
      | bararr | barwait | bararw | taskend | launch | cancel | setpri =>
    exact .inl (.of_follows rfl (follows_issueWith s _ _ _ _ _) rfl rfl)
  case drain => exact .inl (.of_follows rfl (follows_issueHold s _ _ _ _ _ _) rfl rfl)
  case haltw => exact .inl (issues_haltw s)
  case waitaddr k c d a b => exact .inl (.of_follows rfl (follows_waitaddr s _ k c d a b (hs k c d a b rfl)) rfl rfl)
  case enq | enqn => exact .inl (.of_follows rfl (follows_enq s _ _ _ _ _) rfl rfl)
  case lds | ldw => exact .inl (.of_lanes rfl (follows_laneLoad s _ _ _ _ _ _ _) rfl rfl rfl (fun _ _ => rfl))
  case sts | stw => exact .inl (.of_lanes rfl (follows_laneStore s _ _ _ _ _ _ _) rfl rfl rfl (fun _ _ => rfl))
  case ats | atw => exact .inl (.of_lanes rfl (follows_laneAtomic s _ _ _ _ _ _ _) rfl rfl rfl (fun _ _ => rfl))
  case ldres | stcond => exact .inl (.of_lanes rfl (follows_issueWith s _ _ _ _ _) rfl rfl rfl (fun _ _ => rfl))
  case ldsu => exact .inl (.of_lanes rfl (follows_issueWith s _ _ _ _ _) rfl rfl rfl (fun _ hk => lane_fill _ hk))
  case bcopy | bcopyp | gather | scatter | gatom | gchunk | coll | chimechk =>
    exact .inl (.of_engine rfl (follows_engineIssue s _ _ _ _ _) rfl rfl)
  case sget _ n | sset _ n => exact .inl (.of_cause rfl (follows_issueWith s _ _ _ _ _) (sysCause_class n) rfl rfl rfl)
  case brd | brdn => exact .inl (.of_cause rfl (follows_brd s _ _ _ _ _) (s.brdCause_class _ _ _ _) rfl rfl rfl)
  case call | calli => exact .inl (.of_cause rfl (follows_call s _ _ _) s.callCause_class rfl rfl rfl)
  case unwind => exact .inl (issues_unwind s)
  case ret => exact .inl (.of_cause rfl (follows_issueHold s _ _ _ _ _ _) s.retCause_class rfl rfl rfl)
  case sempost d a b | semtry d a b =>
    exact .inl (.of_cause rfl (follows_issueWith s _ _ _ _ _) (s.semCause_class a) rfl rfl rfl)
  case semacq d a b => exact .inl (.of_cause rfl (follows_semacq s d a b) (s.semCause_class a) rfl rfl rfl)
  case mswap => exact .inl (.of_cause rfl (follows_issueHold s _ _ _ _ _ _) s.claimCause_class rfl rfl rfl)
  case mqry => exact .inl (.of_cause rfl (follows_issueWith s _ _ _ _ _) s.claimCause_class rfl rfl rfl)
  case mscale n d a => exact .inl (issues_mscale s n d a)
  case mloadw | mzeroacc => exact .inl (.of_cause rfl (follows_matrixIssue s _ _ _ _ _) s.claimCause_class rfl rfl rfl)
  case mstream | mstreamc =>
    exact .inl (.of_cause rfl (follows_matrixIssue s _ _ _ _ _) (s.streamCause_class _ _) rfl rfl rfl)
  all_goals exact .inr ⟨rfl, rfl, not_passes rfl rfl⟩ -- the commands and events (R309, R397)

theorem touched_of_bare (i : Instr) (k : Nat) (ho : i.operands = {}) (hr : readsExec i = false) : touched i k = [] := by
  simp only [touched, ho, hr]
  rfl

/-- What names a register, or one beyond the frame, is an instruction that follows the checks. -/
theorem issues_of_names (s : State) (i : Instr) (hs : Starts s i)
    (h : opInFrame i.operands s.frame.blocks = false ∨ ∃ r, r ∈ touched i s.frameKey) : Issues s i := by
  rcases issues_or_bare s i hs with hi | ⟨ho, hr, -⟩
  · exact hi
  · rcases h with hb | ⟨r, ht⟩
    · rw [ho] at hb; cases hb
    · rw [touched_of_bare i _ ho hr] at ht; cases ht

/-- What the engines or the lane accesses can take is an instruction that follows the checks, and is at its issue. -/
theorem issues_of_passes (s : State) (i : Instr) (h : Passes s i) : Issues s i := by
  have hs : Starts s i := by
    rintro k c d a b rfl
    exact absurd h (not_passes rfl rfl)
  exact (issues_or_bare s i hs).resolve_right fun hbare => hbare.2.2 h

/-- A cause of the operands alone is the trap that the instruction takes. -/
theorem Follows.traps_of_static {s t : State} {i : Instr} {c1 : State → Option Nat} {c3 : State → Option Raise}
    {free : List RegName} {c : Nat} (h : Follows s i c1 c3 free t) (hx : exec i s = .next t)
    (hc : s.staticCause i = some c) (hclass : c / 256 < 4) : traps s i { code := c } :=
  hx.trans (congrArg _ (h.trap _ (s.check_static i c1 c3 free hc) hclass))

/-- The instructions whose feature can be absent (R8) are those of peals. -/
theorem traps_of_featureAbsent (s : State) (i : Instr) (d : SReg) (a : SSrc) (p : VReg) (b : VSrc) (q : BitVec 6)
    (hi : i = .pealjoin d a ∨ i = .pealleave d a ∨ i = .pealq d a ∨ i = .bcopyp p b q) (hf : s.feature 0 = false) :
    traps s i { code := 0x0106 } := by
  have hst : s.staticCause i = some 0x0106 := by
    rcases hi with rfl | rfl | rfl | rfl <;> simp [State.staticCause, State.featureAbsent, hf]
  rcases hi with rfl | rfl | rfl | rfl
  · exact (follows_issueWith s _ _ _ _ _).traps_of_static rfl hst (by decide)
  · exact (follows_issueWith s _ _ _ _ _).traps_of_static rfl hst (by decide)
  · exact (follows_issueWith s _ _ _ _ _).traps_of_static rfl hst (by decide)
  · exact (follows_engineIssue s _ _ _ _ _).traps_of_static rfl hst (by decide)

/-- The checks of every instruction at issue. -/
theorem issueChecks : Sys2Proof.Stated.IssueChecks := by
  refine ⟨traps_of_featureAbsent, ?_, ?_, ?_, ?_⟩
  · intro s i hs hf hb
    obtain ⟨c1, c3, t, hx, ht, -, -⟩ := issues_of_names s i hs (.inl hb)
    exact ht.traps_of_static hx (by simp [State.staticCause, hf, hb]) (by decide)
  · intro s i r hs hf hb htouch hp hw hfree
    obtain ⟨c1, c3, t, hx, ht, -, -⟩ := issues_of_names s i hs (.inr ⟨r, htouch⟩)
    have hc := s.check_pending i c1 c3 _ (s.staticCause_none i hf hb) htouch hp hw hfree
    exact hx.trans (congrArg _ (ht.wait _ hc))
  · intro s i r hs hf hb htouch hw hfree hp
    obtain ⟨c1, c3, t, hx, ht, hcause, -⟩ := issues_of_names s i hs (.inr ⟨r, htouch⟩)
    have hst := s.staticCause_none i hf hb
    cases h1 : c1 s with
    | some c =>
        obtain ⟨hown, hclass⟩ := hcause c h1
        refine ⟨{ code := c }, ?_, .inr ⟨hown, hclass⟩⟩
        exact hx.trans (congrArg _ (ht.trap _ (s.check_cause i c1 c3 _ hst hp h1) (by dsimp only; omega)))
    | none =>
        refine ⟨{ code := 0x0201 }, ?_, .inl rfl⟩
        exact hx.trans (congrArg _ (ht.trap _ (s.check_window i c1 c3 _ hst hp h1 htouch hw hfree) (by decide)))
  · intro s i c hf hb hr hheld hpass
    obtain ⟨c1, c3, t, hx, ht, -, hnone⟩ := issues_of_passes s i (hpass.imp (fun h => ⟨c, h⟩) id)
    obtain ⟨h1, h3⟩ := hnone (hpass.imp (fun h => ⟨c, h⟩) id)
    have hc := s.check_order i c1 c3 (freeOf s i) (s.staticCause_none i hf hb) hr h1 h3 hheld
    exact hx.trans (congrArg _ (ht.wait _ hc))

/-! ## What fault records and notifications may change (R283 to R285, R371) -/

/-- A state with the memory side of another, and what it sends to hosts. -/
def State.sendPut (s t : State) : State :=
  { s.memPut t with names := t.names, hostOps := t.hostOps, outbox := t.outbox, ctxs := t.ctxs }

/-- Only the memory side and what goes to hosts change. -/
def SendOnly (s t : State) : Prop := t = s.sendPut t

theorem SendOnly.trans {s t u : State} (h : SendOnly s t) (k : SendOnly t u) : SendOnly s u := by
  calc u = t.sendPut u := k
    _ = (s.sendPut t).sendPut u := congrArg (fun x => State.sendPut x u) h
    _ = s.sendPut u := rfl

theorem MemOnly.send {s t : State} (h : MemOnly s t) : SendOnly s t := by
  calc t = s.memPut t := h.1
    _ = s.sendPut (s.memPut t) := rfl
    _ = s.sendPut t := congrArg (State.sendPut s) h.1.symm

theorem SendOnly.refl (s : State) : SendOnly s s := rfl

theorem SendOnly.waves {s t : State} (h : SendOnly s t) : t.waves = s.waves := by rw [h]; rfl
theorem SendOnly.groups {s t : State} (h : SendOnly s t) : t.groups = s.groups := by rw [h]; rfl
theorem SendOnly.spad {s t : State} (h : SendOnly s t) : t.spad = s.spad := by rw [h]; rfl

theorem fqBlock_mem (s : State) (c : Ctx) : MemOnly s (s.fqBlock c).1 := by
  have h := gread_mem s 0 none c.id c.fqBase.toNat 64
  unfold State.fqBlock
  generalize s.gread 0 none c.id c.fqBase.toNat 64 = x at h ⊢
  obtain ⟨u, r⟩ := x
  cases r <;> exact h

theorem bumpWord_mem (s : State) (c va : Nat) : MemOnly s (s.bumpWord c va) := by
  have h := homeLine_mem s 0 c (va / 128) .wr false
  unfold State.bumpWord
  generalize s.homeLine 0 c (va / 128) .wr false = x at h ⊢
  obtain ⟨u, r⟩ := x
  cases r with
  | ok x => exact h.trans (writeLine_mem u _ _ _ _ _ _ _ _)
  | error e => exact h

theorem fqDrop_mem (s : State) (c : Nat) : MemOnly s (s.fqDrop c) := by
  unfold State.fqDrop
  split
  · exact .refl s
  · exact bumpWord_mem s _ _

theorem postOne_send (s : State) (l : List HostOp) (o : List Output) :
    SendOnly s { s with hostOps := l, outbox := o } := rfl

theorem postQp_send (n : Nat) (q : QpRef) (s : State) : SendOnly s (s.postQp n q) := by
  induction n generalizing s with
  | zero => exact .refl s
  | succ n ih =>
      unfold State.postQp
      split
      · exact .refl s
      · next o _ =>
          extract_lets sent
          exact SendOnly.trans (postOne_send s _ _) (ih _)

theorem hostSend_send (s : State) (u : HostUse) (part qp kind : Nat) (va : Dword) (rkey : Word) (len : Nat)
    (data : List Byte) (imm : Word) : SendOnly s (s.hostSend u part qp kind va rkey len data imm) := by
  unfold State.hostSend
  extract_lets _ _ u
  have hu : SendOnly s u := rfl
  exact hu.trans (postQp_send _ _ u)

theorem notePut_send (s : State) (c : Ctx) (ring : Dword) (log2 qp : Nat) (b : List Byte) :
    SendOnly s (s.notePut c ring log2 qp b) := by
  unfold State.notePut
  exact (hostSend_send s _ _ _ _ _ _ _ _ _).trans rfl

theorem notify_send (s : State) (c kind id : Nat) (q : Dword) : SendOnly s (s.notify c kind id q) := by
  unfold State.notify
  split
  · exact .refl s
  · split
    · exact (fqDrop_mem s c).send
    · dsimp only
      split
      · exact (fqDrop_mem s c).send
      · split
        · exact hostSend_send s _ _ _ _ _ _ _ _ _
        · exact notePut_send s _ _ _ _ _

theorem emitN_send (s : State) (p u n : Nat) (a b : Dword) (x : Nat) : SendOnly s (s.emitN p u n a b x) :=
  (emitN_mem s p u n a b x).send

/-- Writing a fault record (R285). -/
theorem faultWrite_send (s : State) (unit : Nat) (r : FaultRec) : SendOnly s (s.faultWrite unit r) := by
  unfold State.faultWrite
  split
  · exact .refl s
  · next c _ =>
      have hq := fqBlock_mem s c
      generalize s.fqBlock c = x at hq ⊢
      obtain ⟨s1, q⟩ := x
      dsimp only at hq ⊢
      split
      · exact hq.send.trans ((fqDrop_mem s1 _).send.trans (emitN_send _ _ _ _ _ _ _))
      · next cb =>
          split
          · exact hq.send.trans ((fqDrop_mem s1 _).send.trans (emitN_send _ _ _ _ _ _ _))
          · have h1 := hq.trans (gwrite_mem s1 r.causal none r.ctx
              (c.fqBase.toNat + 64 + 64 * (bits cb 31 0 % 2 ^ bits cb 103 96)) r.bytes false)
            split
            · exact h1.send.trans ((fqDrop_mem _ _).send.trans (emitN_send _ _ _ _ _ _ _))
            · have h2 := h1.trans (gwrite_mem _ r.causal none r.ctx c.fqBase.toNat (leBytes 4 (bits cb 31 0 + 1)) false)
              split
              · exact h2.send.trans (emitN_send _ _ _ _ _ _ _)
              · exact ((h2.trans (applyNotices_mem _)).send.trans (emitN_send _ _ _ _ _ _ _)).trans
                  (notify_send _ _ _ _ _)

/-! ## The wave in focus through what the device does -/

theorem State.unfocus_of_focused {s : State} (h : Focused s) : s.unfocus = { s with
    waves := mset s.waves s.wave.name s.wave, groups := mset s.groups s.grp.name s.grp, wave := .off, grp := .off } :=
  if_neg h.1

/-- What only sends and writes memory leaves the wave and its group in focus. -/
theorem State.device_of_send (s : State) (f : State → State) (h : Focused s) (hf : ∀ u, SendOnly u (f u)) :
    (s.device f).wave = s.wave ∧ (s.device f).grp = s.grp ∧ (s.device f).spad = s.spad := by
  have hu := hf s.unfocus
  have hw : mget (f s.unfocus).waves s.wave.name = some s.wave := by
    rw [hu.waves, s.unfocus_of_focused h]; exact mget_mset_same _ _ _
  have hg : mget (f s.unfocus).groups s.wave.group = some s.grp := by
    rw [hu.groups, s.unfocus_of_focused h, h.2]; exact mget_mset_same _ _ _
  have hs : (f s.unfocus).spad = s.spad := by rw [hu.spad, s.unfocus_of_focused h]
  unfold State.device State.focus
  rw [hw]
  dsimp only
  rw [hg]
  exact ⟨rfl, rfl, hs⟩

/-- A switch point changes the group only, and not its name. -/
theorem State.switchPoint_keeps (s : State) :
    s.switchPoint = { s with grp := { s.grp with current := s.switchPoint.grp.current } } := by
  unfold State.switchPoint
  split <;> rfl

theorem State.endEnrols_keeps (s : State) (g : Nat) : (s.endEnrols g).wave = s.wave ∧ (s.endEnrols g).spad = s.spad := by
  unfold State.endEnrols
  generalize s.enrols.filter (fun e => e.group == g) = l
  induction l generalizing s with
  | nil => exact ⟨rfl, rfl⟩
  | cons e l ih => exact ih (s.endEnrol e)

/-! ## HALTW (R287) -/

@[simp] theorem Wave.setSlotAt_name (w : Wave) (k : Nat) (f : Slot) : (w.setSlotAt k f).name = w.name := by
  unfold Wave.setSlotAt; split <;> rfl
@[simp] theorem Wave.setSlotAt_group (w : Wave) (k : Nat) (f : Slot) : (w.setSlotAt k f).group = w.group := by
  unfold Wave.setSlotAt; split <;> rfl
@[simp] theorem Wave.setSlotAt_draws (w : Wave) (k : Nat) (f : Slot) : (w.setSlotAt k f).draws = w.draws := by
  unfold Wave.setSlotAt; split <;> rfl

theorem Wave.resvAt_clearResv (w : Wave) (k : Nat) : w.clearResv.resvAt k = none := by
  unfold Wave.resvAt Wave.clearResv
  by_cases h : k < 64 <;> simp [h]

theorem regsKept_setSlotAt (w : Wave) (k : Nat) (f : Slot) : regsKept w (w.setSlotAt k f) := by simp [regsKept]

/-- The slot of a fragment that begins to halt. -/
def Slot.halting (f : Slot) (time : Nat) (id : Dword) : Slot :=
  { f with park := .halt, resAge := 16, since := time, waitId := id }

/-- A fragment that parks to halt changes its slot only, in the wave, and no more of its group than which wave is current. -/
theorem State.park_halt (s : State) : (∃ id, (s.park .halt).wave = s.wave.setSlotAt s.wave.cur (s.slot.halting s.time id)) ∧
    (s.park .halt).grp.name = s.grp.name ∧ (s.park .halt).spad = s.spad := by
  let q := s.setSlot { s.slot with park := .halt, resAge := 16 }
  have e : s.park .halt = q.beginWait.switchPoint := rfl
  have hq : q.beginWait.wave = (q.setSlot { q.slot with since := q.time, waitId := q.nextId q.issueUnit }).wave := rfl
  rw [e, State.switchPoint_keeps]
  refine ⟨⟨q.nextId q.issueUnit, hq.trans ?_⟩, rfl, rfl⟩
  rw [State.setSlot_slot, State.setSlot_setSlot]
  rfl

/-- A halted wave: it holds no reservations. -/
def Wave.halt (w : Wave) : Wave := { w.clearResv with halted := true }

theorem regsKept_halt (w : Wave) : regsKept w w.halt := ⟨rfl, rfl, rfl, rfl, rfl, rfl⟩
theorem Wave.halt_frames (w : Wave) : w.halt.frames = w.frames := rfl
theorem Wave.halt_slot (w : Wave) : w.halt.slot = w.slot := rfl
theorem Wave.resvAt_halt (w : Wave) (k : Nat) : w.halt.resvAt k = none := w.resvAt_clearResv k
theorem Wave.slot_setSlotAt_cur (w : Wave) (f : Slot) : (w.setSlotAt w.cur f).slot = f := by
  rw [Wave.slot, Wave.setSlotAt_cur, Wave.slotAt_setSlotAt]

/-- What halting does after the park: the record, and the wave left halted without reservations. -/
theorem State.halt_wave (s : State) (h : Focused s) : s.halt.wave = (s.park .halt).wave.halt ∧ s.halt.spad = s.spad := by
  obtain ⟨⟨id, hw⟩, hg, hspad⟩ := s.park_halt
  have hp : Focused (s.park .halt) := by
    rw [Focused, hw, hg, Wave.setSlotAt_name, Wave.setSlotAt_group]
    exact h
  rw [← hspad]
  unfold State.halt
  generalize s.park .halt = p at hp ⊢
  extract_lets _ t e q _ u
  have hd := e.device_of_send (fun d => d.faultWrite e.issueUnit (e.trapRecord t false 0 0)) hp
    (fun u => faultWrite_send u _ _)
  obtain ⟨hdw, hdg, hds⟩ := hd
  obtain ⟨hqw, hqs⟩ := u.endEnrols_keeps u.grp.name
  rw [State.switchPoint_keeps]
  exact ⟨hqw.trans (congrArg Wave.halt hdw), hqs.trans hds⟩

theorem State.tick_focused (s : State) (h : Focused s) : Focused s.tick := by
  simpa [Focused, State.tick_wave] using h

theorem regsKept_trans {u v w : Wave} (h : regsKept u v) (k : regsKept v w) : regsKept u w := by
  obtain ⟨h1, h2, h3, h4, h5, h6⟩ := h
  obtain ⟨k1, k2, k3, k4, k5, k6⟩ := k
  exact ⟨k1.trans h1, k2.trans h2, k3.trans h3, k4.trans h4, k5.trans h5, k6.trans h6⟩

/-- A wave halted in its current slot. -/
theorem exec_haltw (s : State) (h : Clear s .haltw) (hf : Focused s) : ∃ t, exec .haltw s = .next t ∧
    t.wave.halted = true ∧ t.slot.park = .halt ∧ t.pc = s.pc ∧ regsKept s.wave t.wave ∧ t.wave.frames = s.wave.frames ∧
    t.spad = s.spad ∧ ∀ k, k < 64 → t.wave.resvAt k = none := by
  have hx : exec .haltw s = .next s.tick.halt := by
    show execHaltw s = _
    rw [execHaltw, s.check_go _ _ _ _ h rfl rfl]
  obtain ⟨hw, hs⟩ := s.tick.halt_wave (s.tick_focused hf)
  obtain ⟨⟨id, hp⟩, -, -⟩ := s.tick.park_halt
  have hslot : s.tick.halt.slot = s.tick.slot.halting s.tick.time id := by
    rw [State.slot, hw, Wave.halt_slot, hp, Wave.slot_setSlotAt_cur]
  refine ⟨_, hx, by rw [hw]; rfl, by rw [hslot]; rfl, by rw [State.pc, hslot]; exact s.tick_pc, ?_, ?_, hs, fun k _ => ?_⟩
  · have h1 : regsKept s.wave s.tick.wave := regsKept_setSlotAt _ _ _
    have h2 : regsKept s.tick.wave (s.tick.park .halt).wave := by rw [hp]; exact regsKept_setSlotAt _ _ _
    rw [hw]
    exact regsKept_trans (regsKept_trans h1 h2) (regsKept_halt _)
  · rw [hw, Wave.halt_frames, hp, Wave.setSlotAt_frames, State.tick_wave, Wave.setSlotAt_frames]
  · rw [hw, Wave.resvAt_halt]

theorem causeCode_eq_causeOf (c : Cause) : causeCode c = causeOf c := by cases c <;> rfl

theorem trapWords : Sys2Proof.Stated.TrapWords := by
  refine ⟨fun s n h => ?_, fun s n h => ?_, exec_haltw, fun s c => ?_⟩
  · exact congrArg Host.Outcome.next (s.issueWith_fault _ _ _ _ _ h rfl rfl)
  · exact congrArg Host.Outcome.next (s.issueWith_fault _ _ _ _ _ h rfl rfl)
  · rw [← causeCode_eq_causeOf]
    rfl

/-- Settles O17: TRAP, BRKPT, HALTW and the words that do not decode, one by one; then the checks, which every instruction
follows with the causes and faults that are its own. -/
theorem trapInstructions : Obligations.TrapInstructions := ⟨trapWords, issueChecks⟩

end Sys2Proof.Machine
end
